-- ==== Sys2Proof/Word.lean ====
section
/-! DEFINITION. Sys2Proof/Word.lean: the word types of the VX9 and their plainest readings. -/

namespace Sys2Proof

/-- One byte of memory. -/
abbrev Byte := BitVec 8

/-- One 32-bit register (R108). -/
abbrev Word := BitVec 32

/-- One 64-bit register pair or address (R15). -/
abbrev DWord := BitVec 64

/-- One 96-bit instruction word (R31). -/
abbrev InstrWord := BitVec 96

/-- A set of threads of one weft, bit i for thread i (R142). -/
abbrev Mask := BitVec 16

end Sys2Proof
end

