-- ==== Sys2Proof/Syntax.lean ====
section
/-! DEFINITION. Sys2Proof/Syntax.lean: the operands, the modifiers and the steps of the VX9. One constructor of `Instr` per row of
spec/opcode_table.json: 186 rows are instruction words (R31, R49), 83 rows are steps that another agent of the machine takes. -/

namespace Sys2Proof

/-! ## Modifier codes (R51) -/

/-- The integer types of R51. -/
inductive IntTy where
  | i32 | n32 | i64 | n64 | i16x2 | n16x2 | b32 | b64
  deriving DecidableEq, Repr

/-- The float types of R51. -/
inductive FltTy where
  | f32 | f16x2 | bf16x2 | c32
  deriving DecidableEq, Repr

/-- The element formats of R51 and R233. -/
inductive ElemFmt where
  | t8 | t6 | i8 | n8 | f16 | bf16 | f32 | c32
  deriving DecidableEq, Repr

/-- The rounding modes of R51 and R58. -/
inductive Rounding where
  | rn | rz | rd | ru
  deriving DecidableEq, Repr

/-- The orders of R51. -/
inductive MemOrder where
  | plain | rlx | acq | rel
  deriving DecidableEq, Repr

/-- The scopes of R308. -/
inductive Scope where
  | weft | group | cluster | die | device | domain | system
  deriving DecidableEq, Repr

/-- The conditions of `icmp` and `fcmp` (R51). -/
inductive Cond where
  | eq | ne | lt | le | gt | ge | un | or
  deriving DecidableEq, Repr

/-- The sixteen operators of R54. -/
inductive MemOp where
  | addI32 | addI64 | addF32 | addBf16x2 | addC32 | minI32 | maxI32 | minF32 | maxF32
  | orB32 | andB32 | xorB32 | minN32 | maxN32 | exchB32 | exchB64
  deriving DecidableEq, Repr

/-- The states of a bobbin (R51, R224). -/
inductive BobState where
  | free | filling | full | draining | faulted
  deriving DecidableEq, Repr

/-! ## Operands (R39) -/

/-- One operand of an instruction word.  `bits` holds a half of a 32-bit immediate (R42), or a field that is no operand of R39. -/
inductive Operand where
  | none
  | vec (n : BitVec 8)
  | scalar (n : BitVec 6)
  | pred (n : BitVec 3)
  | special (n : BitVec 10)
  | imm (v : BitVec 13)
  | tile (n : BitVec 5)
  | tileC (k : BitVec 2) (e : BitVec 5)
  | mem (s : Bool) (n : BitVec 8) (sub : BitVec 4)
  | lutVec (n : BitVec 8) (lut : BitVec 5)
  | lutScalar (n : BitVec 6) (lut : BitVec 5)
  | bits (v : BitVec 16)
  deriving DecidableEq, Repr

/-- What an instruction word carries besides its opcode (R31). -/
structure Fields where
  wmask : BitVec 12 := 0
  setf  : BitVec 4 := 15
  dist  : BitVec 3 := 0
  u     : Bool := false
  y     : Bool := false
  neg   : Bool := false
  gp    : BitVec 3 := 7
  mod   : BitVec 6 := 0
  xr    : BitVec 2 := 0
  xc    : BitVec 2 := 0
  d     : Operand := .none
  a     : Operand := .none
  b     : Operand := .none
  deriving DecidableEq, Repr

/-- Rows of the block (R31). -/
def Fields.rows (f : Fields) : Nat := 2 ^ f.xr.toNat
/-- Columns of the block (R31). -/
def Fields.cols (f : Fields) : Nat := 2 ^ f.xc.toNat

/-! ## What the steps of other agents carry -/

/-- A path named by its group, its weft (0-31; 32 the group's treadle, 33 the cluster treadle) and one of its threads. -/
structure PathRef where
  g : Nat
  w : Nat
  t : Nat
  deriving DecidableEq, Repr

/-- One contribution that a write queue entry or a message applies to its line (R276). -/
inductive Contrib where
  | bytes (off : Nat) (data : List Byte)
  | rmw (op : MemOp) (off : Nat) (v : Nat)
  | deposit (op : MemOp) (detm : Bool) (ctx : Nat) (off : Nat) (v : Nat)
  deriving DecidableEq, Repr

/-- One message of the fabric or of the package network (R260, R262): its source and destination, its line, and what it carries (DESIGN CHOICE, assumption log 56). -/
structure Msg where
  src   : Nat := 0
  die   : Nat := 0
  dst   : Nat := 0
  mseq  : Word := 0
  line  : Nat := 0
  core  : Nat := 0
  epoch : BitVec 16 := 0
  pos   : Nat := 0
  ctx   : Nat := 0
  conts : List Contrib := []
  path  : PathRef := ⟨0, 0, 0⟩
  deriving DecidableEq, Repr

/-- The classes of R391. -/
inductive TrapClass where
  | illegalInstruction | privilege | operand | memoryAccess | translation | twin | bobbin | tile
  | fabric | deadlock | uncorrectable | engineReset | region
  deriving DecidableEq, Repr

/-- The agents of R394. -/
inductive Agent where
  | weft | treadle | shuttle | engine | jacquard | dobby | port
  deriving DecidableEq, Repr

/-- What a trap reports (R394, R395). -/
structure TrapInfo where
  cls     : TrapClass
  reason  : Nat
  agent   : Agent := .weft
  precise : Bool := true
  pc      : Word := 0xFFFFFFFF
  addr    : DWord := 0
  pmask   : Mask := 0
  smask   : Mask := 0
  wid     : Nat := 0
  info    : Word := 0
  bytes   : Nat := 0
  seq     : Word := 0
  kblk    : Nat := 0
  members : Word := 0
  deriving DecidableEq, Repr

/-- The storage kinds of R415. -/
inductive Storage where
  | core | cleanLine | dirtyLine | hbm | beam | directory
  deriving DecidableEq, Repr

/-- The host link generations of R431. -/
inductive HostGen where
  | pcie5 | pcie6 | pcie7 | cxl20 | cxl31 | cxl32
  deriving DecidableEq, Repr

/-! ## The steps -/

/-- The forms of instruction words: one per row of the table that has a word. -/
inductive Form where
  | nop
  | bra
  | brx
  | call
  | callx
  | ret
  | rejoin
  | exit
  | wait
  | trywait
  | sleep
  | yield
  | brk
  | trap
  | loop
  | add
  | sub
  | addc
  | subb
  | mul
  | mulhi
  | mulw
  | mad
  | madw
  | div
  | rem
  | abs
  | neg
  | min
  | max
  | clamp
  | sad
  | dp4
  | and
  | or
  | xor
  | not
  | lop3
  | shl
  | shr
  | sar
  | rot
  | fsh
  | bfx
  | bfi
  | popc
  | clz
  | ctz
  | brev
  | bperm
  | lea
  | icmp
  | fcmp
  | fclass
  | sel
  | pand
  | por
  | pxor
  | pnot
  | pmov
  | pany
  | fadd
  | fsub
  | fmul
  | fma
  | fmin
  | fmax
  | fabs
  | fneg
  | fcopysign
  | frnd
  | fsat
  | fdot2
  | fscale
  | cvt
  | tenc
  | tdec
  | xcvt
  | kcvt
  | e8enc
  | pack
  | unpack
  | rcp
  | divFloat
  | sqrt
  | rsqrt
  | ex2
  | lg2
  | sinpi
  | cospi
  | tanh
  | cmul
  | cfma
  | twosum
  | twoprod
  | mov
  | movi
  | movs
  | bcast
  | shfl
  | vote
  | ballot
  | matchThreads
  | blkmov
  | rdsr
  | wrsr
  | ld
  | st
  | lds
  | sts
  | ldb
  | ldsel
  | pf
  | copClean
  | copFlush
  | copDemote
  | copZero
  | beamwait
  | atom
  | atomv
  | red
  | redv
  | cas
  | accr
  | accflush
  | acctag
  | ldf
  | adst
  | adld
  | adpeek
  | adforce
  | usecnt
  | useadj
  | cmdw
  | bwait
  | bset
  | bexp
  | bstat
  | countb
  | relh
  | shcancel
  | mma
  | mmap
  | tzero
  | tread
  | twrite
  | tdrain
  | tdadd
  | topen
  | tfence
  | twait
  | tlc
  | trun
  | tstop
  | barv
  | barw
  | bars
  | gbar
  | fence
  | cbar
  | launch
  | post
  | regacq
  | regacqTry
  | regrel
  | spgrow
  | spgrowTry
  | score
  | trnd
  | jqstart
  | jqdone
  | jqstat
  | ipin
  | iunpin
  | ipf
  | mcast
  | permx
  | tlbiAll
  | tlbiCtx
  | tlbiPage
  | replay
  | replayAll
  | rdflt
  | svc
  | eret
  | ctxsv
  deriving DecidableEq, Repr

/-- The steps of the machine, one constructor per row of spec/opcode_table.json. -/
inductive Instr where
  /-- NOP (R146). -/
  | nop (f : Fields)
  /-- BRA (R141). -/
  | bra (f : Fields)
  /-- BRX (R141). -/
  | brx (f : Fields)
  /-- CALL (R141). -/
  | call (f : Fields)
  /-- CALLX (R141). -/
  | callx (f : Fields)
  /-- RET (R141). -/
  | ret (f : Fields)
  /-- REJOIN (R142). -/
  | rejoin (f : Fields)
  /-- EXIT (R143). -/
  | exit (f : Fields)
  /-- WAIT (R144). -/
  | wait (f : Fields)
  /-- TRYWAIT (R145). -/
  | trywait (f : Fields)
  /-- TRYWAIT_DEADLINE (R145). -/
  | trywaitDeadline (r : PathRef)
  /-- SLEEP (R146). -/
  | sleep (f : Fields)
  /-- SLEEP_EXPIRY (R146). -/
  | sleepExpiry (r : PathRef)
  /-- YIELD (R146). -/
  | yield (f : Fields)
  /-- BRK (R147). -/
  | brk (f : Fields)
  /-- TRAP (R147). -/
  | trap (f : Fields)
  /-- LOOP (R141). -/
  | loop (f : Fields)
  /-- ADD (R153). -/
  | add (f : Fields)
  /-- SUB (R153). -/
  | sub (f : Fields)
  /-- ADDC (R154). -/
  | addc (f : Fields)
  /-- SUBB (R154). -/
  | subb (f : Fields)
  /-- MUL (R153). -/
  | mul (f : Fields)
  /-- MULHI (R153). -/
  | mulhi (f : Fields)
  /-- MULW (R156). -/
  | mulw (f : Fields)
  /-- MAD (R153). -/
  | mad (f : Fields)
  /-- MADW (R156). -/
  | madw (f : Fields)
  /-- DIV (R155). -/
  | div (f : Fields)
  /-- REM (R155). -/
  | rem (f : Fields)
  /-- ABS (R153). -/
  | abs (f : Fields)
  /-- NEG (R153). -/
  | neg (f : Fields)
  /-- MIN (R153). -/
  | min (f : Fields)
  /-- MAX (R153). -/
  | max (f : Fields)
  /-- CLAMP (R153). -/
  | clamp (f : Fields)
  /-- SAD (R157). -/
  | sad (f : Fields)
  /-- DP4 (R157). -/
  | dp4 (f : Fields)
  /-- AND (R159). -/
  | and (f : Fields)
  /-- OR (R159). -/
  | or (f : Fields)
  /-- XOR (R159). -/
  | xor (f : Fields)
  /-- NOT (R159). -/
  | not (f : Fields)
  /-- LOP3 (R159). -/
  | lop3 (f : Fields)
  /-- SHL (R160). -/
  | shl (f : Fields)
  /-- SHR (R160). -/
  | shr (f : Fields)
  /-- SAR (R160). -/
  | sar (f : Fields)
  /-- ROT (R160). -/
  | rot (f : Fields)
  /-- FSH (R160). -/
  | fsh (f : Fields)
  /-- BFX (R161). -/
  | bfx (f : Fields)
  /-- BFI (R161). -/
  | bfi (f : Fields)
  /-- POPC (R162). -/
  | popc (f : Fields)
  /-- CLZ (R162). -/
  | clz (f : Fields)
  /-- CTZ (R162). -/
  | ctz (f : Fields)
  /-- BREV (R162). -/
  | brev (f : Fields)
  /-- BPERM (R162). -/
  | bperm (f : Fields)
  /-- LEA (R163). -/
  | lea (f : Fields)
  /-- ICMP (R165). -/
  | icmp (f : Fields)
  /-- FCMP (R172). -/
  | fcmp (f : Fields)
  /-- FCLASS (R172). -/
  | fclass (f : Fields)
  /-- SEL (R166). -/
  | sel (f : Fields)
  /-- PAND (R167). -/
  | pand (f : Fields)
  /-- POR (R167). -/
  | por (f : Fields)
  /-- PXOR (R167). -/
  | pxor (f : Fields)
  /-- PNOT (R167). -/
  | pnot (f : Fields)
  /-- PMOV (R167). -/
  | pmov (f : Fields)
  /-- PANY (R167). -/
  | pany (f : Fields)
  /-- FADD (R171). -/
  | fadd (f : Fields)
  /-- FSUB (R171). -/
  | fsub (f : Fields)
  /-- FMUL (R171). -/
  | fmul (f : Fields)
  /-- FMA (R171). -/
  | fma (f : Fields)
  /-- FMIN (R171). -/
  | fmin (f : Fields)
  /-- FMAX (R171). -/
  | fmax (f : Fields)
  /-- FABS (R171). -/
  | fabs (f : Fields)
  /-- FNEG (R171). -/
  | fneg (f : Fields)
  /-- FCOPYSIGN (R171). -/
  | fcopysign (f : Fields)
  /-- FRND (R171). -/
  | frnd (f : Fields)
  /-- FSAT (R171). -/
  | fsat (f : Fields)
  /-- FDOT2 (R171). -/
  | fdot2 (f : Fields)
  /-- FSCALE (R171). -/
  | fscale (f : Fields)
  /-- CVT (R174). -/
  | cvt (f : Fields)
  /-- TENC (R175). -/
  | tenc (f : Fields)
  /-- TDEC (R175). -/
  | tdec (f : Fields)
  /-- XCVT (R176). -/
  | xcvt (f : Fields)
  /-- KCVT (R176). -/
  | kcvt (f : Fields)
  /-- E8ENC (R177). -/
  | e8enc (f : Fields)
  /-- PACK (R178). -/
  | pack (f : Fields)
  /-- UNPACK (R178). -/
  | unpack (f : Fields)
  /-- RCP (R180). -/
  | rcp (f : Fields)
  /-- DIV_FLOAT (R180). -/
  | divFloat (f : Fields)
  /-- SQRT (R180). -/
  | sqrt (f : Fields)
  /-- RSQRT (R180). -/
  | rsqrt (f : Fields)
  /-- EX2 (R180). -/
  | ex2 (f : Fields)
  /-- LG2 (R180). -/
  | lg2 (f : Fields)
  /-- SINPI (R180). -/
  | sinpi (f : Fields)
  /-- COSPI (R180). -/
  | cospi (f : Fields)
  /-- TANH (R180). -/
  | tanh (f : Fields)
  /-- CMUL (R181). -/
  | cmul (f : Fields)
  /-- CFMA (R181). -/
  | cfma (f : Fields)
  /-- TWOSUM (R182). -/
  | twosum (f : Fields)
  /-- TWOPROD (R182). -/
  | twoprod (f : Fields)
  /-- MOV (R184). -/
  | mov (f : Fields)
  /-- MOVI (R184). -/
  | movi (f : Fields)
  /-- MOVS (R186). -/
  | movs (f : Fields)
  /-- BCAST (R186). -/
  | bcast (f : Fields)
  /-- SHFL (R186). -/
  | shfl (f : Fields)
  /-- VOTE (R187). -/
  | vote (f : Fields)
  /-- BALLOT (R187). -/
  | ballot (f : Fields)
  /-- MATCH (R187). -/
  | matchThreads (f : Fields)
  /-- BLKMOV (R188). -/
  | blkmov (f : Fields)
  /-- RDSR (R189). -/
  | rdsr (f : Fields)
  /-- WRSR (R189). -/
  | wrsr (f : Fields)
  /-- LD (R206). -/
  | ld (f : Fields)
  /-- ST (R207). -/
  | st (f : Fields)
  /-- LDS (R206). -/
  | lds (f : Fields)
  /-- STS (R207). -/
  | sts (f : Fields)
  /-- LDB (R206). -/
  | ldb (f : Fields)
  /-- LDSEL (R209). -/
  | ldsel (f : Fields)
  /-- PF (R210). -/
  | pf (f : Fields)
  /-- COP_CLEAN (R211). -/
  | copClean (f : Fields)
  /-- COP_FLUSH (R211). -/
  | copFlush (f : Fields)
  /-- COP_DEMOTE (R211). -/
  | copDemote (f : Fields)
  /-- COP_ZERO (R211). -/
  | copZero (f : Fields)
  /-- BEAMWAIT (R212). -/
  | beamwait (f : Fields)
  /-- BEAMWAIT_RELEASE (R212). -/
  | beamwaitRelease (r : PathRef)
  /-- ATOM (R281). -/
  | atom (f : Fields)
  /-- ATOMV (R282). -/
  | atomv (f : Fields)
  /-- RED (R281). -/
  | red (f : Fields)
  /-- REDV (R282). -/
  | redv (f : Fields)
  /-- CAS (R283). -/
  | cas (f : Fields)
  /-- ACCR (R335). -/
  | accr (f : Fields)
  /-- ACCFLUSH (R336). -/
  | accflush (f : Fields)
  /-- ACCTAG (R337). -/
  | acctag (f : Fields)
  /-- LDF (R344). -/
  | ldf (f : Fields)
  /-- ADST (R346). -/
  | adst (f : Fields)
  /-- ADLD (R348). -/
  | adld (f : Fields)
  /-- ADPEEK (R350). -/
  | adpeek (f : Fields)
  /-- ADFORCE (R350). -/
  | adforce (f : Fields)
  /-- USECNT (R350). -/
  | usecnt (f : Fields)
  /-- USEADJ (R351). -/
  | useadj (f : Fields)
  /-- ADLD_RETRY (R349). -/
  | adldRetry (r : PathRef)
  /-- ADJ_EARLY (R349). -/
  | adjEarly (r : PathRef)
  /-- CMDW (R228). -/
  | cmdw (f : Fields)
  /-- BWAIT (R229). -/
  | bwait (f : Fields)
  /-- BSET (R230). -/
  | bset (f : Fields)
  /-- BEXP (R231). -/
  | bexp (f : Fields)
  /-- BSTAT (R231). -/
  | bstat (f : Fields)
  /-- COUNTB (R96). -/
  | countb (f : Fields)
  /-- RELH (R96). -/
  | relh (f : Fields)
  /-- SHCANCEL (R232). -/
  | shcancel (f : Fields)
  /-- MMA (R242). -/
  | mma (f : Fields)
  /-- MMAP (R242). -/
  | mmap (f : Fields)
  /-- TZERO (R251). -/
  | tzero (f : Fields)
  /-- TREAD (R252). -/
  | tread (f : Fields)
  /-- TWRITE (R252). -/
  | twrite (f : Fields)
  /-- TDRAIN (R253). -/
  | tdrain (f : Fields)
  /-- TDADD (R248). -/
  | tdadd (f : Fields)
  /-- TOPEN (R248). -/
  | topen (f : Fields)
  /-- TFENCE (R244). -/
  | tfence (f : Fields)
  /-- TWAIT (R254). -/
  | twait (f : Fields)
  /-- TLC (R255). -/
  | tlc (f : Fields)
  /-- TRUN (R255). -/
  | trun (f : Fields)
  /-- TSTOP (R255). -/
  | tstop (f : Fields)
  /-- TILE_OP_COMPLETE (R244). -/
  | tileOpComplete (g op : Nat)
  /-- TDADD_DELIVERY (R248). -/
  | tdaddDelivery (n : Nat)
  /-- TILE_NOT_OPEN_TIMEOUT (R248). -/
  | tileNotOpenTimeout (n : Nat)
  /-- ENGINE_HANG_RESET (R418). -/
  | engineHangReset (dev core : Nat)
  /-- BARV (R289). -/
  | barv (f : Fields)
  /-- BARW (R289). -/
  | barw (f : Fields)
  /-- BARS (R289). -/
  | bars (f : Fields)
  /-- GBAR (R291). -/
  | gbar (f : Fields)
  /-- FENCE (R293). -/
  | fence (f : Fields)
  /-- CBAR (R290). -/
  | cbar (f : Fields)
  /-- LAUNCH (R96). -/
  | launch (f : Fields)
  /-- POST (R96). -/
  | post (f : Fields)
  /-- REGACQ (R112). -/
  | regacq (f : Fields)
  /-- REGACQ_TRY (R112). -/
  | regacqTry (f : Fields)
  /-- REGREL (R112). -/
  | regrel (f : Fields)
  /-- REGACQ_GRANT (R112). -/
  | regacqGrant (dev core : Nat)
  /-- STALL_DEADLOCK (R115). -/
  | stallDeadlock (dev core : Nat)
  /-- SPGROW (R388). -/
  | spgrow (f : Fields)
  /-- SPGROW_TRY (R388). -/
  | spgrowTry (f : Fields)
  /-- SPGROW_GRANT (R388). -/
  | spgrowGrant (dev core : Nat)
  /-- SCORE (R387). -/
  | score (f : Fields)
  /-- TRND (R387). -/
  | trnd (f : Fields)
  /-- JQSTART (R371). -/
  | jqstart (f : Fields)
  /-- JQDONE (R372). -/
  | jqdone (f : Fields)
  /-- JQSTAT (R373). -/
  | jqstat (f : Fields)
  /-- IPIN (R122). -/
  | ipin (f : Fields)
  /-- IUNPIN (R122). -/
  | iunpin (f : Fields)
  /-- IPF (R122). -/
  | ipf (f : Fields)
  /-- MCAST (R270). -/
  | mcast (f : Fields)
  /-- PERMX (R275). -/
  | permx (f : Fields)
  /-- TLBI_ALL (R403). -/
  | tlbiAll (f : Fields)
  /-- TLBI_CTX (R403). -/
  | tlbiCtx (f : Fields)
  /-- TLBI_PAGE (R403). -/
  | tlbiPage (f : Fields)
  /-- REPLAY (R404). -/
  | replay (f : Fields)
  /-- REPLAY_ALL (R404). -/
  | replayAll (f : Fields)
  /-- RDFLT (R405). -/
  | rdflt (f : Fields)
  /-- SVC (R406). -/
  | svc (f : Fields)
  /-- ERET (R406). -/
  | eret (f : Fields)
  /-- CTXSV (R407). -/
  | ctxsv (f : Fields)
  /-- INSTR_COMPLETE (R127). -/
  | instrComplete (g w n : Nat)
  /-- ARM (R85). -/
  | arm (dev k : Nat)
  /-- NODE_LAUNCH (R88). -/
  | nodeLaunch (rid node : Nat)
  /-- BIN_TIMER_EXPIRY (R93). -/
  | binTimerExpiry (rid node : Nat)
  /-- GROUP_PLACE (R101). -/
  | groupPlace (dev die : Nat)
  /-- PREEMPT (R116). -/
  | preempt (dev die : Nat)
  /-- SAVE_COMPLETE (R409). -/
  | saveComplete (g : Nat)
  /-- RESTORE (R117). -/
  | restore (g : Nat)
  /-- SHUTTLE_RING_READ (R217). -/
  | shuttleRingRead (g : Nat)
  /-- COPY_DRAFT_TO_BOBBIN (R221). -/
  | copyDraftToBobbin (g seq : Nat)
  /-- COPY_BOBBIN_TO_DRAFT (R221). -/
  | copyBobbinToDraft (g seq : Nat)
  /-- COPY_DRAFT_TO_DRAFT (R221). -/
  | copyDraftToDraft (g seq : Nat)
  /-- STREAM_FILL (R221). -/
  | streamFill (g seq : Nat)
  /-- STREAM_DRAIN (R221). -/
  | streamDrain (g seq : Nat)
  /-- FILL_BOBBIN (R221). -/
  | fillBobbin (g seq : Nat)
  /-- FILL_DRAFT (R221). -/
  | fillDraft (g seq : Nat)
  /-- BEAMWR (R221). -/
  | beamwr (g seq : Nat)
  /-- CANCEL (R221). -/
  | cancel (g seq : Nat)
  /-- PERMX_COMMAND (R272). -/
  | permxCommand (g seq : Nat)
  /-- PERMX_EXCHANGE (R273). -/
  | permxExchange (g seq : Nat)
  /-- COMMAND_END (R222). -/
  | commandEnd (g seq : Nat)
  /-- STORE (R263). -/
  | store (m : Msg)
  /-- INVALIDATE (R266). -/
  | invalidate (m : Msg)
  /-- FLIT_REPLAY_REQUEST (R261). -/
  | flitReplayRequest (dev link : Nat) (lseq : BitVec 16)
  /-- DATA (R260). -/
  | data (m : Msg)
  /-- STORE_ACK (R315). -/
  | storeAck (m : Msg)
  /-- INV_ACK (R260). -/
  | invAck (m : Msg)
  /-- FLIT_RECEIVE (R261). -/
  | flitReceive (dev link : Nat) (flit : List Byte)
  /-- ACCRUE_DEPOSIT (R323). -/
  | accrueDeposit (m : Msg)
  /-- ATOMIC (R263). -/
  | atomic (m : Msg)
  /-- MERGE_DATA (R325). -/
  | mergeData (m : Msg)
  /-- UPGRADE (R314). -/
  | upgrade (m : Msg)
  /-- REQUEST_TIMEOUT (R264). -/
  | requestTimeout (dev die dst : Nat) (mseq : Word)
  /-- RETRAIN_COMPLETE (R265). -/
  | retrainComplete (dev link : Nat)
  /-- WRITE_QUEUE_TIMEOUT (R312). -/
  | writeQueueTimeout (dev core : Nat)
  /-- JACQ_RUN_START (R361). -/
  | jacqRunStart (dev jq : Nat)
  /-- ALLOWANCE_EXHAUSTED (R379). -/
  | allowanceExhausted (scope rival : Nat)
  /-- RIVAL_IDLE_PARK (R380). -/
  | rivalIdlePark (scope rival : Nat)
  /-- ROUND_END (R381). -/
  | roundEnd (scope : Nat)
  /-- GROUP_RETIRE (R423). -/
  | groupRetire (g : Nat)
  /-- GRID_COMPLETE (R428). -/
  | gridComplete (rid node : Nat)
  /-- DEFERRED_TRAP (R392). -/
  | deferredTrap (g : Nat) (t : TrapInfo)
  /-- MMIO_REGISTER_WRITE (R432). -/
  | mmioRegisterWrite (dev off size : Nat) (v : DWord) (byHost : Bool)
  /-- JACQ_HOST_DECISION (R368). -/
  | jacqHostDecision (dev jq sample : Nat)
  /-- READ_SHARED (R266). -/
  | readShared (m : Msg)
  /-- READ_OWN (R266). -/
  | readOwn (m : Msg)
  /-- NACK (R262). -/
  | nack (m : Msg)
  /-- MERGE_REQ (R325). -/
  | mergeReq (m : Msg)
  /-- WRITEBACK (R260). -/
  | writeback (m : Msg)
  /-- ACCRUE_EVICT (R326). -/
  | accrueEvict (m : Msg)
  /-- NOT_READY (R349). -/
  | notReady (m : Msg)
  /-- FORCE_PUBLISH (R311). -/
  | forcePublish (m : Msg)
  /-- LANE_FAILURE (R265). -/
  | laneFailure (dev link : Nat)
  /-- CORRECTABLE_ERROR (R415). -/
  | correctableError (dev : Nat) (k : Storage)
  /-- UNCORRECTABLE_ERROR (R415). -/
  | uncorrectableError (dev : Nat) (k : Storage) (at_ : Nat)
  /-- WAKE_KEEP (R199). -/
  | wakeKeep (dev : Nat)
  /-- WAKE_DISCARD (R199). -/
  | wakeDiscard (dev : Nat)
  /-- SLEEP_REQUEST (R439). -/
  | sleepRequest (dev : Nat)
  /-- READYPOST (R435). -/
  | readypost (dev ctx : Nat) (node : DWord)
  /-- DRAFT_WRITE (R436). -/
  | draftWrite (dev slot : Nat) (byHost : Bool)
  /-- LINK_NARROW (R435). -/
  | linkNarrow (dev link : Nat)
  /-- LINK_DOWN (R435). -/
  | linkDown (dev link : Nat)
  /-- ATTEST_REQUEST (R438). -/
  | attestRequest (dev : Nat)
  /-- RESET (R439). -/
  | reset (dev : Nat)
  /-- MEMORY_TRAINED (R439). -/
  | memoryTrained (dev : Nat)
  /-- HOST_LINK_TRAINED (R431). -/
  | hostLinkTrained (dev : Nat) (gen : HostGen)
  /-- FABRIC_TRAINED (R439). -/
  | fabricTrained (dev : Nat)
  /-- THERMAL_TRIP (R440). -/
  | thermalTrip (dev : Nat)
  /-- CLOCK_THROTTLE_STEP (R440). -/
  | clockThrottleStep (dev : Nat) (down : Bool)
  /-- LINK_UP (R259). -/
  | linkUp (dev link : Nat)
  /-- HOST_MEMORY_ACCESS (R431). -/
  | hostMemoryAccess (dev : Nat) (addr : Nat) (w : List Byte) (n : Nat)
  deriving DecidableEq, Repr

/-- The instruction of a form with its fields. -/
def Form.mk (i : Form) (f : Fields) : Instr :=
  match i with
  | .nop => .nop f
  | .bra => .bra f
  | .brx => .brx f
  | .call => .call f
  | .callx => .callx f
  | .ret => .ret f
  | .rejoin => .rejoin f
  | .exit => .exit f
  | .wait => .wait f
  | .trywait => .trywait f
  | .sleep => .sleep f
  | .yield => .yield f
  | .brk => .brk f
  | .trap => .trap f
  | .loop => .loop f
  | .add => .add f
  | .sub => .sub f
  | .addc => .addc f
  | .subb => .subb f
  | .mul => .mul f
  | .mulhi => .mulhi f
  | .mulw => .mulw f
  | .mad => .mad f
  | .madw => .madw f
  | .div => .div f
  | .rem => .rem f
  | .abs => .abs f
  | .neg => .neg f
  | .min => .min f
  | .max => .max f
  | .clamp => .clamp f
  | .sad => .sad f
  | .dp4 => .dp4 f
  | .and => .and f
  | .or => .or f
  | .xor => .xor f
  | .not => .not f
  | .lop3 => .lop3 f
  | .shl => .shl f
  | .shr => .shr f
  | .sar => .sar f
  | .rot => .rot f
  | .fsh => .fsh f
  | .bfx => .bfx f
  | .bfi => .bfi f
  | .popc => .popc f
  | .clz => .clz f
  | .ctz => .ctz f
  | .brev => .brev f
  | .bperm => .bperm f
  | .lea => .lea f
  | .icmp => .icmp f
  | .fcmp => .fcmp f
  | .fclass => .fclass f
  | .sel => .sel f
  | .pand => .pand f
  | .por => .por f
  | .pxor => .pxor f
  | .pnot => .pnot f
  | .pmov => .pmov f
  | .pany => .pany f
  | .fadd => .fadd f
  | .fsub => .fsub f
  | .fmul => .fmul f
  | .fma => .fma f
  | .fmin => .fmin f
  | .fmax => .fmax f
  | .fabs => .fabs f
  | .fneg => .fneg f
  | .fcopysign => .fcopysign f
  | .frnd => .frnd f
  | .fsat => .fsat f
  | .fdot2 => .fdot2 f
  | .fscale => .fscale f
  | .cvt => .cvt f
  | .tenc => .tenc f
  | .tdec => .tdec f
  | .xcvt => .xcvt f
  | .kcvt => .kcvt f
  | .e8enc => .e8enc f
  | .pack => .pack f
  | .unpack => .unpack f
  | .rcp => .rcp f
  | .divFloat => .divFloat f
  | .sqrt => .sqrt f
  | .rsqrt => .rsqrt f
  | .ex2 => .ex2 f
  | .lg2 => .lg2 f
  | .sinpi => .sinpi f
  | .cospi => .cospi f
  | .tanh => .tanh f
  | .cmul => .cmul f
  | .cfma => .cfma f
  | .twosum => .twosum f
  | .twoprod => .twoprod f
  | .mov => .mov f
  | .movi => .movi f
  | .movs => .movs f
  | .bcast => .bcast f
  | .shfl => .shfl f
  | .vote => .vote f
  | .ballot => .ballot f
  | .matchThreads => .matchThreads f
  | .blkmov => .blkmov f
  | .rdsr => .rdsr f
  | .wrsr => .wrsr f
  | .ld => .ld f
  | .st => .st f
  | .lds => .lds f
  | .sts => .sts f
  | .ldb => .ldb f
  | .ldsel => .ldsel f
  | .pf => .pf f
  | .copClean => .copClean f
  | .copFlush => .copFlush f
  | .copDemote => .copDemote f
  | .copZero => .copZero f
  | .beamwait => .beamwait f
  | .atom => .atom f
  | .atomv => .atomv f
  | .red => .red f
  | .redv => .redv f
  | .cas => .cas f
  | .accr => .accr f
  | .accflush => .accflush f
  | .acctag => .acctag f
  | .ldf => .ldf f
  | .adst => .adst f
  | .adld => .adld f
  | .adpeek => .adpeek f
  | .adforce => .adforce f
  | .usecnt => .usecnt f
  | .useadj => .useadj f
  | .cmdw => .cmdw f
  | .bwait => .bwait f
  | .bset => .bset f
  | .bexp => .bexp f
  | .bstat => .bstat f
  | .countb => .countb f
  | .relh => .relh f
  | .shcancel => .shcancel f
  | .mma => .mma f
  | .mmap => .mmap f
  | .tzero => .tzero f
  | .tread => .tread f
  | .twrite => .twrite f
  | .tdrain => .tdrain f
  | .tdadd => .tdadd f
  | .topen => .topen f
  | .tfence => .tfence f
  | .twait => .twait f
  | .tlc => .tlc f
  | .trun => .trun f
  | .tstop => .tstop f
  | .barv => .barv f
  | .barw => .barw f
  | .bars => .bars f
  | .gbar => .gbar f
  | .fence => .fence f
  | .cbar => .cbar f
  | .launch => .launch f
  | .post => .post f
  | .regacq => .regacq f
  | .regacqTry => .regacqTry f
  | .regrel => .regrel f
  | .spgrow => .spgrow f
  | .spgrowTry => .spgrowTry f
  | .score => .score f
  | .trnd => .trnd f
  | .jqstart => .jqstart f
  | .jqdone => .jqdone f
  | .jqstat => .jqstat f
  | .ipin => .ipin f
  | .iunpin => .iunpin f
  | .ipf => .ipf f
  | .mcast => .mcast f
  | .permx => .permx f
  | .tlbiAll => .tlbiAll f
  | .tlbiCtx => .tlbiCtx f
  | .tlbiPage => .tlbiPage f
  | .replay => .replay f
  | .replayAll => .replayAll f
  | .rdflt => .rdflt f
  | .svc => .svc f
  | .eret => .eret f
  | .ctxsv => .ctxsv f

/-- The form and the fields of an instruction word; none for a step that has no word. -/
def Instr.word? (i : Instr) : Option (Form × Fields) :=
  match i with
  | .nop f => some (.nop, f)
  | .bra f => some (.bra, f)
  | .brx f => some (.brx, f)
  | .call f => some (.call, f)
  | .callx f => some (.callx, f)
  | .ret f => some (.ret, f)
  | .rejoin f => some (.rejoin, f)
  | .exit f => some (.exit, f)
  | .wait f => some (.wait, f)
  | .trywait f => some (.trywait, f)
  | .sleep f => some (.sleep, f)
  | .yield f => some (.yield, f)
  | .brk f => some (.brk, f)
  | .trap f => some (.trap, f)
  | .loop f => some (.loop, f)
  | .add f => some (.add, f)
  | .sub f => some (.sub, f)
  | .addc f => some (.addc, f)
  | .subb f => some (.subb, f)
  | .mul f => some (.mul, f)
  | .mulhi f => some (.mulhi, f)
  | .mulw f => some (.mulw, f)
  | .mad f => some (.mad, f)
  | .madw f => some (.madw, f)
  | .div f => some (.div, f)
  | .rem f => some (.rem, f)
  | .abs f => some (.abs, f)
  | .neg f => some (.neg, f)
  | .min f => some (.min, f)
  | .max f => some (.max, f)
  | .clamp f => some (.clamp, f)
  | .sad f => some (.sad, f)
  | .dp4 f => some (.dp4, f)
  | .and f => some (.and, f)
  | .or f => some (.or, f)
  | .xor f => some (.xor, f)
  | .not f => some (.not, f)
  | .lop3 f => some (.lop3, f)
  | .shl f => some (.shl, f)
  | .shr f => some (.shr, f)
  | .sar f => some (.sar, f)
  | .rot f => some (.rot, f)
  | .fsh f => some (.fsh, f)
  | .bfx f => some (.bfx, f)
  | .bfi f => some (.bfi, f)
  | .popc f => some (.popc, f)
  | .clz f => some (.clz, f)
  | .ctz f => some (.ctz, f)
  | .brev f => some (.brev, f)
  | .bperm f => some (.bperm, f)
  | .lea f => some (.lea, f)
  | .icmp f => some (.icmp, f)
  | .fcmp f => some (.fcmp, f)
  | .fclass f => some (.fclass, f)
  | .sel f => some (.sel, f)
  | .pand f => some (.pand, f)
  | .por f => some (.por, f)
  | .pxor f => some (.pxor, f)
  | .pnot f => some (.pnot, f)
  | .pmov f => some (.pmov, f)
  | .pany f => some (.pany, f)
  | .fadd f => some (.fadd, f)
  | .fsub f => some (.fsub, f)
  | .fmul f => some (.fmul, f)
  | .fma f => some (.fma, f)
  | .fmin f => some (.fmin, f)
  | .fmax f => some (.fmax, f)
  | .fabs f => some (.fabs, f)
  | .fneg f => some (.fneg, f)
  | .fcopysign f => some (.fcopysign, f)
  | .frnd f => some (.frnd, f)
  | .fsat f => some (.fsat, f)
  | .fdot2 f => some (.fdot2, f)
  | .fscale f => some (.fscale, f)
  | .cvt f => some (.cvt, f)
  | .tenc f => some (.tenc, f)
  | .tdec f => some (.tdec, f)
  | .xcvt f => some (.xcvt, f)
  | .kcvt f => some (.kcvt, f)
  | .e8enc f => some (.e8enc, f)
  | .pack f => some (.pack, f)
  | .unpack f => some (.unpack, f)
  | .rcp f => some (.rcp, f)
  | .divFloat f => some (.divFloat, f)
  | .sqrt f => some (.sqrt, f)
  | .rsqrt f => some (.rsqrt, f)
  | .ex2 f => some (.ex2, f)
  | .lg2 f => some (.lg2, f)
  | .sinpi f => some (.sinpi, f)
  | .cospi f => some (.cospi, f)
  | .tanh f => some (.tanh, f)
  | .cmul f => some (.cmul, f)
  | .cfma f => some (.cfma, f)
  | .twosum f => some (.twosum, f)
  | .twoprod f => some (.twoprod, f)
  | .mov f => some (.mov, f)
  | .movi f => some (.movi, f)
  | .movs f => some (.movs, f)
  | .bcast f => some (.bcast, f)
  | .shfl f => some (.shfl, f)
  | .vote f => some (.vote, f)
  | .ballot f => some (.ballot, f)
  | .matchThreads f => some (.matchThreads, f)
  | .blkmov f => some (.blkmov, f)
  | .rdsr f => some (.rdsr, f)
  | .wrsr f => some (.wrsr, f)
  | .ld f => some (.ld, f)
  | .st f => some (.st, f)
  | .lds f => some (.lds, f)
  | .sts f => some (.sts, f)
  | .ldb f => some (.ldb, f)
  | .ldsel f => some (.ldsel, f)
  | .pf f => some (.pf, f)
  | .copClean f => some (.copClean, f)
  | .copFlush f => some (.copFlush, f)
  | .copDemote f => some (.copDemote, f)
  | .copZero f => some (.copZero, f)
  | .beamwait f => some (.beamwait, f)
  | .atom f => some (.atom, f)
  | .atomv f => some (.atomv, f)
  | .red f => some (.red, f)
  | .redv f => some (.redv, f)
  | .cas f => some (.cas, f)
  | .accr f => some (.accr, f)
  | .accflush f => some (.accflush, f)
  | .acctag f => some (.acctag, f)
  | .ldf f => some (.ldf, f)
  | .adst f => some (.adst, f)
  | .adld f => some (.adld, f)
  | .adpeek f => some (.adpeek, f)
  | .adforce f => some (.adforce, f)
  | .usecnt f => some (.usecnt, f)
  | .useadj f => some (.useadj, f)
  | .cmdw f => some (.cmdw, f)
  | .bwait f => some (.bwait, f)
  | .bset f => some (.bset, f)
  | .bexp f => some (.bexp, f)
  | .bstat f => some (.bstat, f)
  | .countb f => some (.countb, f)
  | .relh f => some (.relh, f)
  | .shcancel f => some (.shcancel, f)
  | .mma f => some (.mma, f)
  | .mmap f => some (.mmap, f)
  | .tzero f => some (.tzero, f)
  | .tread f => some (.tread, f)
  | .twrite f => some (.twrite, f)
  | .tdrain f => some (.tdrain, f)
  | .tdadd f => some (.tdadd, f)
  | .topen f => some (.topen, f)
  | .tfence f => some (.tfence, f)
  | .twait f => some (.twait, f)
  | .tlc f => some (.tlc, f)
  | .trun f => some (.trun, f)
  | .tstop f => some (.tstop, f)
  | .barv f => some (.barv, f)
  | .barw f => some (.barw, f)
  | .bars f => some (.bars, f)
  | .gbar f => some (.gbar, f)
  | .fence f => some (.fence, f)
  | .cbar f => some (.cbar, f)
  | .launch f => some (.launch, f)
  | .post f => some (.post, f)
  | .regacq f => some (.regacq, f)
  | .regacqTry f => some (.regacqTry, f)
  | .regrel f => some (.regrel, f)
  | .spgrow f => some (.spgrow, f)
  | .spgrowTry f => some (.spgrowTry, f)
  | .score f => some (.score, f)
  | .trnd f => some (.trnd, f)
  | .jqstart f => some (.jqstart, f)
  | .jqdone f => some (.jqdone, f)
  | .jqstat f => some (.jqstat, f)
  | .ipin f => some (.ipin, f)
  | .iunpin f => some (.iunpin, f)
  | .ipf f => some (.ipf, f)
  | .mcast f => some (.mcast, f)
  | .permx f => some (.permx, f)
  | .tlbiAll f => some (.tlbiAll, f)
  | .tlbiCtx f => some (.tlbiCtx, f)
  | .tlbiPage f => some (.tlbiPage, f)
  | .replay f => some (.replay, f)
  | .replayAll f => some (.replayAll, f)
  | .rdflt f => some (.rdflt, f)
  | .svc f => some (.svc, f)
  | .eret f => some (.eret, f)
  | .ctxsv f => some (.ctxsv, f)
  | .trywaitDeadline _ => none
  | .sleepExpiry _ => none
  | .beamwaitRelease _ => none
  | .adldRetry _ => none
  | .adjEarly _ => none
  | .tileOpComplete _ _ => none
  | .tdaddDelivery _ => none
  | .tileNotOpenTimeout _ => none
  | .engineHangReset _ _ => none
  | .regacqGrant _ _ => none
  | .stallDeadlock _ _ => none
  | .spgrowGrant _ _ => none
  | .instrComplete _ _ _ => none
  | .arm _ _ => none
  | .nodeLaunch _ _ => none
  | .binTimerExpiry _ _ => none
  | .groupPlace _ _ => none
  | .preempt _ _ => none
  | .saveComplete _ => none
  | .restore _ => none
  | .shuttleRingRead _ => none
  | .copyDraftToBobbin _ _ => none
  | .copyBobbinToDraft _ _ => none
  | .copyDraftToDraft _ _ => none
  | .streamFill _ _ => none
  | .streamDrain _ _ => none
  | .fillBobbin _ _ => none
  | .fillDraft _ _ => none
  | .beamwr _ _ => none
  | .cancel _ _ => none
  | .permxCommand _ _ => none
  | .permxExchange _ _ => none
  | .commandEnd _ _ => none
  | .readShared _ => none
  | .readOwn _ => none
  | .upgrade _ => none
  | .store _ => none
  | .atomic _ => none
  | .invalidate _ => none
  | .forcePublish _ => none
  | .data _ => none
  | .storeAck _ => none
  | .invAck _ => none
  | .notReady _ => none
  | .accrueDeposit _ => none
  | .mergeReq _ => none
  | .mergeData _ => none
  | .accrueEvict _ => none
  | .writeback _ => none
  | .nack _ => none
  | .flitReceive _ _ _ => none
  | .flitReplayRequest _ _ _ => none
  | .requestTimeout _ _ _ _ => none
  | .laneFailure _ _ => none
  | .retrainComplete _ _ => none
  | .writeQueueTimeout _ _ => none
  | .jacqRunStart _ _ => none
  | .jacqHostDecision _ _ _ => none
  | .allowanceExhausted _ _ => none
  | .rivalIdlePark _ _ => none
  | .roundEnd _ => none
  | .groupRetire _ => none
  | .gridComplete _ _ => none
  | .deferredTrap _ _ => none
  | .correctableError _ _ => none
  | .uncorrectableError _ _ _ => none
  | .mmioRegisterWrite _ _ _ _ _ => none
  | .wakeKeep _ => none
  | .wakeDiscard _ => none
  | .sleepRequest _ => none
  | .readypost _ _ _ => none
  | .draftWrite _ _ _ => none
  | .linkNarrow _ _ => none
  | .linkDown _ _ => none
  | .attestRequest _ => none
  | .reset _ => none
  | .memoryTrained _ => none
  | .hostLinkTrained _ _ => none
  | .fabricTrained _ => none
  | .thermalTrip _ => none
  | .clockThrottleStep _ _ => none
  | .linkUp _ _ => none
  | .hostMemoryAccess _ _ _ _ => none

end Sys2Proof
end

