-- ==== Sys2Proof/Machine/Legal.lean ====
section
/-! DEFINITION. Sys2Proof/Machine/Legal.lean: the instruction word as bit fields (R31), and the checks 1 to 8 that every fetched word
passes (R56), each written from the encoding tables of the chapters. -/

namespace Sys2Proof

/-- The bit fields of an instruction word (R31). -/
structure Raw where
  wmask : BitVec 12
  setf  : BitVec 4
  dist  : BitVec 3
  u     : BitVec 1
  y     : BitVec 1
  neg   : BitVec 1
  gp    : BitVec 3
  opc   : BitVec 10
  mod   : BitVec 6
  xr    : BitVec 2
  xc    : BitVec 2
  d     : BitVec 16
  a     : BitVec 16
  b     : BitVec 16
  low   : BitVec 3
  deriving DecidableEq, Repr

/-- The fields of a word, at the bits R31 gives. -/
def Raw.ofWord (w : InstrWord) : Raw where
  wmask := w.extractLsb' 84 12
  setf  := w.extractLsb' 80 4
  dist  := w.extractLsb' 77 3
  u     := w.extractLsb' 76 1
  y     := w.extractLsb' 75 1
  neg   := w.extractLsb' 74 1
  gp    := w.extractLsb' 71 3
  opc   := w.extractLsb' 61 10
  mod   := w.extractLsb' 55 6
  xr    := w.extractLsb' 53 2
  xc    := w.extractLsb' 51 2
  d     := w.extractLsb' 35 16
  a     := w.extractLsb' 19 16
  b     := w.extractLsb' 3 16
  low   := w.extractLsb' 0 3

/-- The word that holds the fields (R31). -/
def Raw.toWord (r : Raw) : InstrWord :=
  r.wmask ++ r.setf ++ r.dist ++ r.u ++ r.y ++ r.neg ++ r.gp ++ r.opc ++ r.mod ++ r.xr ++ r.xc ++ r.d ++ r.a ++ r.b ++ r.low

/-- Why a word is no instruction (R56, checks 1 to 8). -/
inductive Illegal where
  | nonzeroLow | reservedGroup | unassignedSlot | setfValue | modUndefined | extent | operandKind | uniform
  deriving DecidableEq, Repr

/-- The reason codes of R56. -/
def Illegal.code : Illegal → Nat
  | .nonzeroLow => 1 | .reservedGroup => 2 | .unassignedSlot => 3 | .setfValue => 4
  | .modUndefined => 5 | .extent => 6 | .operandKind => 7 | .uniform => 8

/-! ## The opcode map (R49) -/

/-- GROUP of a form (R49). -/
def Form.group : Form → Nat
  | .nop | .bra | .brx | .call | .callx | .ret | .rejoin | .exit | .wait | .trywait | .sleep | .yield | .brk | .trap | .loop => 0
  | .add | .sub | .addc | .subb | .mul | .mulhi | .mulw | .mad | .madw | .div | .rem | .abs | .neg | .min | .max | .clamp | .sad | .dp4 => 1
  | .and | .or | .xor | .not | .lop3 | .shl | .shr | .sar | .rot | .fsh | .bfx | .bfi | .popc | .clz | .ctz | .brev | .bperm | .lea => 2
  | .icmp | .fcmp | .fclass | .sel | .pand | .por | .pxor | .pnot | .pmov | .pany => 3
  | .fadd | .fsub | .fmul | .fma | .fmin | .fmax | .fabs | .fneg | .fcopysign | .frnd | .fsat | .fdot2 | .fscale => 4
  | .cvt | .tenc | .tdec | .xcvt | .kcvt | .e8enc | .pack | .unpack => 5
  | .rcp | .divFloat | .sqrt | .rsqrt | .ex2 | .lg2 | .sinpi | .cospi | .tanh | .cmul | .cfma | .twosum | .twoprod => 6
  | .mov | .movi | .movs | .bcast | .shfl | .vote | .ballot | .matchThreads | .blkmov | .rdsr | .wrsr => 7
  | .ld | .st | .lds | .sts | .ldb | .ldsel | .pf | .copClean | .copFlush | .copDemote | .copZero | .beamwait => 8
  | .atom | .atomv | .red | .redv | .cas | .accr | .accflush | .acctag => 9
  | .ldf | .adst | .adld | .adpeek | .usecnt | .useadj | .adforce => 10
  | .cmdw | .bwait | .bset | .bexp | .bstat | .countb | .relh | .shcancel => 11
  | .mma | .mmap | .tzero | .tread | .twrite | .tdrain | .tdadd | .topen | .tfence | .twait | .tlc | .trun | .tstop => 12
  | .barv | .barw | .bars | .gbar | .fence | .cbar => 13
  | .launch | .post | .regacq | .regacqTry | .regrel | .spgrow | .spgrowTry | .score | .trnd | .jqstart | .jqdone | .jqstat
  | .ipin | .iunpin | .ipf | .mcast | .permx | .tlbiAll | .tlbiCtx | .tlbiPage | .replay | .replayAll | .rdflt | .svc | .eret | .ctxsv => 14

/-- SLOT of a form (R49). -/
def Form.slot : Form → Nat
  | .nop => 0x00 | .bra => 0x01 | .brx => 0x02 | .call => 0x03 | .callx => 0x04 | .ret => 0x05 | .rejoin => 0x06 | .exit => 0x07
  | .wait => 0x08 | .trywait => 0x09 | .sleep => 0x0A | .yield => 0x0B | .brk => 0x0C | .trap => 0x0D | .loop => 0x0E
  | .add => 0x00 | .sub => 0x01 | .addc => 0x02 | .subb => 0x03 | .mul => 0x04 | .mulhi => 0x05 | .mulw => 0x06 | .mad => 0x07
  | .madw => 0x08 | .div => 0x09 | .rem => 0x0A | .abs => 0x0B | .neg => 0x0C | .min => 0x0D | .max => 0x0E | .clamp => 0x0F
  | .sad => 0x10 | .dp4 => 0x11
  | .and => 0x00 | .or => 0x01 | .xor => 0x02 | .not => 0x03 | .lop3 => 0x04 | .shl => 0x05 | .shr => 0x06 | .sar => 0x07
  | .rot => 0x08 | .fsh => 0x09 | .bfx => 0x0A | .bfi => 0x0B | .popc => 0x0C | .clz => 0x0D | .ctz => 0x0E | .brev => 0x0F
  | .bperm => 0x10 | .lea => 0x11
  | .icmp => 0x00 | .fcmp => 0x01 | .fclass => 0x02 | .sel => 0x03 | .pand => 0x04 | .por => 0x05 | .pxor => 0x06 | .pnot => 0x07
  | .pmov => 0x08 | .pany => 0x09
  | .fadd => 0x00 | .fsub => 0x01 | .fmul => 0x02 | .fma => 0x03 | .fmin => 0x04 | .fmax => 0x05 | .fabs => 0x06 | .fneg => 0x07
  | .fcopysign => 0x08 | .frnd => 0x09 | .fsat => 0x0A | .fdot2 => 0x0B | .fscale => 0x0C
  | .cvt => 0x00 | .tenc => 0x01 | .tdec => 0x02 | .xcvt => 0x03 | .kcvt => 0x04 | .e8enc => 0x05 | .pack => 0x06 | .unpack => 0x07
  | .rcp => 0x00 | .divFloat => 0x01 | .sqrt => 0x02 | .rsqrt => 0x03 | .ex2 => 0x04 | .lg2 => 0x05 | .sinpi => 0x06 | .cospi => 0x07
  | .tanh => 0x08 | .cmul => 0x09 | .cfma => 0x0A | .twosum => 0x0B | .twoprod => 0x0C
  | .mov => 0x00 | .movi => 0x01 | .movs => 0x02 | .bcast => 0x03 | .shfl => 0x04 | .vote => 0x05 | .ballot => 0x06
  | .matchThreads => 0x07 | .blkmov => 0x08 | .rdsr => 0x09 | .wrsr => 0x0A
  | .ld => 0x00 | .st => 0x01 | .lds => 0x02 | .sts => 0x03 | .ldb => 0x04 | .ldsel => 0x05 | .pf => 0x06
  | .copClean => 0x07 | .copFlush => 0x07 | .copDemote => 0x07 | .copZero => 0x07 | .beamwait => 0x08
  | .atom => 0x00 | .atomv => 0x01 | .red => 0x02 | .redv => 0x03 | .cas => 0x04 | .accr => 0x05 | .accflush => 0x06 | .acctag => 0x07
  | .ldf => 0x00 | .adst => 0x01 | .adld => 0x02 | .adpeek => 0x03 | .usecnt => 0x04 | .useadj => 0x05 | .adforce => 0x06
  | .cmdw => 0x00 | .bwait => 0x01 | .bset => 0x02 | .bexp => 0x03 | .bstat => 0x04 | .countb => 0x05 | .relh => 0x06 | .shcancel => 0x07
  | .mma => 0x00 | .mmap => 0x01 | .tzero => 0x02 | .tread => 0x03 | .twrite => 0x04 | .tdrain => 0x05 | .tdadd => 0x06 | .topen => 0x07
  | .tfence => 0x08 | .twait => 0x09 | .tlc => 0x0A | .trun => 0x0B | .tstop => 0x0C
  | .barv => 0x00 | .barw => 0x01 | .bars => 0x02 | .gbar => 0x03 | .fence => 0x04 | .cbar => 0x05
  | .launch => 0x00 | .post => 0x01 | .regacq => 0x02 | .regacqTry => 0x02 | .regrel => 0x03 | .spgrow => 0x04 | .spgrowTry => 0x04
  | .score => 0x05 | .trnd => 0x06 | .jqstart => 0x07 | .jqdone => 0x08 | .jqstat => 0x09 | .ipin => 0x0A | .iunpin => 0x0B | .ipf => 0x0C
  | .mcast => 0x0D | .permx => 0x0E | .tlbiAll => 0x0F | .tlbiCtx => 0x0F | .tlbiPage => 0x0F | .replay => 0x10 | .replayAll => 0x10
  | .rdflt => 0x11 | .svc => 0x12 | .eret => 0x13 | .ctxsv => 0x14

/-- OPC of a form: GROUP × 64 + SLOT (R33). -/
def Form.opc (i : Form) : BitVec 10 := BitVec.ofNat 10 (i.group * 64 + i.slot)

/-- The forms of group 0x0 (R49). -/
def Form.group0 : List Form :=
  [.nop, .bra, .brx, .call, .callx, .ret, .rejoin, .exit, .wait, .trywait, .sleep, .yield, .brk, .trap, .loop]
/-- The forms of group 0x1 (R49). -/
def Form.group1 : List Form :=
  [.add, .sub, .addc, .subb, .mul, .mulhi, .mulw, .mad, .madw, .div, .rem, .abs, .neg, .min, .max, .clamp, .sad, .dp4]
/-- The forms of group 0x2 (R49). -/
def Form.group2 : List Form :=
  [.and, .or, .xor, .not, .lop3, .shl, .shr, .sar, .rot, .fsh, .bfx, .bfi, .popc, .clz, .ctz, .brev, .bperm, .lea]
/-- The forms of group 0x3 (R49). -/
def Form.group3 : List Form :=
  [.icmp, .fcmp, .fclass, .sel, .pand, .por, .pxor, .pnot, .pmov, .pany]
/-- The forms of group 0x4 (R49). -/
def Form.group4 : List Form :=
  [.fadd, .fsub, .fmul, .fma, .fmin, .fmax, .fabs, .fneg, .fcopysign, .frnd, .fsat, .fdot2, .fscale]
/-- The forms of group 0x5 (R49). -/
def Form.group5 : List Form :=
  [.cvt, .tenc, .tdec, .xcvt, .kcvt, .e8enc, .pack, .unpack]
/-- The forms of group 0x6 (R49). -/
def Form.group6 : List Form :=
  [.rcp, .divFloat, .sqrt, .rsqrt, .ex2, .lg2, .sinpi, .cospi, .tanh, .cmul, .cfma, .twosum, .twoprod]
/-- The forms of group 0x7 (R49). -/
def Form.group7 : List Form :=
  [.mov, .movi, .movs, .bcast, .shfl, .vote, .ballot, .matchThreads, .blkmov, .rdsr, .wrsr]
/-- The forms of group 0x8 (R49). -/
def Form.group8 : List Form :=
  [.ld, .st, .lds, .sts, .ldb, .ldsel, .pf, .copClean, .copFlush, .copDemote, .copZero, .beamwait]
/-- The forms of group 0x9 (R49). -/
def Form.group9 : List Form :=
  [.atom, .atomv, .red, .redv, .cas, .accr, .accflush, .acctag]
/-- The forms of group 0xa (R49). -/
def Form.groupA : List Form :=
  [.ldf, .adst, .adld, .adpeek, .usecnt, .useadj, .adforce]
/-- The forms of group 0xb (R49). -/
def Form.groupB : List Form :=
  [.cmdw, .bwait, .bset, .bexp, .bstat, .countb, .relh, .shcancel]
/-- The forms of group 0xc (R49). -/
def Form.groupC : List Form :=
  [.mma, .mmap, .tzero, .tread, .twrite, .tdrain, .tdadd, .topen, .tfence, .twait, .tlc, .trun, .tstop]
/-- The forms of group 0xd (R49). -/
def Form.groupD : List Form :=
  [.barv, .barw, .bars, .gbar, .fence, .cbar]
/-- The forms of group 0xe (R49). -/
def Form.groupE : List Form :=
  [.launch, .post, .regacq, .regacqTry, .regrel, .spgrow, .spgrowTry, .score, .trnd, .jqstart, .jqdone, .jqstat, .ipin, .iunpin, .ipf,
   .mcast, .permx, .tlbiAll, .tlbiCtx, .tlbiPage, .replay, .replayAll, .rdflt, .svc, .eret, .ctxsv]

/-- Every form, in the order of the map (R49). -/
def Form.all : List Form :=
  group0 ++ group1 ++ group2 ++ group3 ++ group4 ++ group5 ++ group6 ++ group7 ++ group8 ++ group9 ++ groupA ++ groupB ++ groupC ++ groupD ++ groupE

/-- SUB of the memory reference in A, which tells the `cop` operations apart (R211). -/
def Raw.subA (r : Raw) : BitVec 4 := r.a.extractLsb' 9 4

/-- Where several rows of the table share an opcode, MOD or SUB tells them apart (R111, R211, R386, R402).  A MOD or SUB that none of
them has goes to the first, whose own check then refuses it. -/
def Form.picks (i : Form) (r : Raw) : Bool :=
  match i with
  | .regacq | .spgrow | .replay => r.mod != 1
  | .regacqTry | .spgrowTry | .replayAll => r.mod == 1
  | .tlbiAll => r.mod != 1 && r.mod != 2
  | .tlbiCtx => r.mod == 1
  | .tlbiPage => r.mod == 2
  | .copClean => r.subA != 1 && r.subA != 2 && r.subA != 3
  | .copFlush => r.subA == 1
  | .copDemote => r.subA == 2
  | .copZero => r.subA == 3
  | _ => true

/-- The form a word has, if its slot is assigned (R56, check 3). -/
def Form.ofRaw (r : Raw) : Option Form := Form.all.find? fun i => i.opc == r.opc && i.picks r

/-- The instructions that transfer control, whose SETF must be 15 (R38). -/
def Form.isControlTransfer : Form → Bool
  | .bra | .brx | .call | .callx | .ret | .rejoin | .exit | .loop | .brk | .trap | .svc | .eret => true
  | _ => false

/-! ## Fields of MOD (R51) -/

/-- MOD[5:3]. -/
def modHi (m : BitVec 6) : Nat := (m.extractLsb' 3 3).toNat
/-- MOD[2:0]. -/
def modLo (m : BitVec 6) : Nat := (m.extractLsb' 0 3).toNat
/-- MOD[2]. -/
def modBit2 (m : BitVec 6) : Bool := m.getLsbD 2
/-- MOD[1:0]. -/
def modLo2 (m : BitVec 6) : Nat := (m.extractLsb' 0 2).toNat
/-- The order code MOD[5:4] of groups 0x8 to 0xA, `fence` and `mcast`. -/
def modOrder (m : BitVec 6) : Nat := (m.extractLsb' 4 2).toNat
/-- The scope code: MOD[3] is its bit 2, MOD[2:1] its bits 1:0. -/
def modScope (m : BitVec 6) : Nat := (m.extractLsb' 3 1).toNat * 4 + (m.extractLsb' 1 2).toNat
/-- The access bit MOD[0]: 1 is `.raw`. -/
def modRaw (m : BitVec 6) : Bool := m.getLsbD 0

/-- The type codes of the 64-bit integer types (R46, R51). -/
def is64 (ty : Nat) : Bool := ty == 2 || ty == 3 || ty == 7

/-- Order and scope are a pair that R53 accepts. -/
def orderOk (orders : List Nat) (m : BitVec 6) : Bool := orders.contains (modOrder m) && modScope m != 7

/-- Check 5: the MOD value is defined (R51 to R53 and each table). -/
def Form.modOk (i : Form) (m : BitVec 6) : Bool :=
  let hi := modHi m
  let lo := modLo m
  let lo2 := modLo2 m
  let b2 := modBit2 m
  let std := hi ≤ 5
  let noI := lo == 0
  let satOnly := lo == 0 || lo == 1
  let any := orderOk [0, 1, 2, 3] m
  let loads := orderOk [0, 1, 2] m
  let stores := orderOk [0, 1, 3] m
  match i with
  | .trywait =>
    let cmp := (m.extractLsb' 2 3).toNat
    !m.getLsbD 5 && ((lo2 == 2 && cmp ≤ 5) || (lo2 ≤ 1 && cmp ≤ 1))
  | .add | .sub | .mul => std && (lo == 0 || lo == 1 || lo == 4 || lo == 5)
  | .min | .max => std && (lo == 0 || lo == 4)
  | .addc | .subb => (hi == 1 || hi == 3) && noI
  | .mulhi | .clamp => std && noI
  | .mulw => (hi == 2 || hi == 3) && noI
  | .mad => std && satOnly
  | .madw => (hi == 2 || hi == 3) && satOnly
  | .div | .rem => hi ≤ 3 && noI
  | .abs | .neg => (hi == 0 || hi == 2 || hi == 4) && satOnly
  | .sad => (hi == 0 || hi == 1 || hi == 4 || hi == 5) && satOnly
  | .dp4 => hi ≤ 1 && satOnly
  | .and | .or | .xor => 6 ≤ hi && (lo == 0 || lo == 4)
  | .not | .bfi | .popc | .clz | .ctz | .brev => 6 ≤ hi && lo == 0
  | .lop3 => 6 ≤ hi
  | .shl | .shr | .sar | .rot | .fsh => 6 ≤ hi && (lo == 0 || lo == 1)
  | .bfx => (hi ≤ 3 || 6 ≤ hi) && lo == 0
  | .bperm => hi == 6 && lo == 0
  | .lea => (hi == 2 || hi == 3 || hi == 7) && !b2
  | .icmp => (hi ≤ 3 && lo ≤ 5) || (6 ≤ hi && lo ≤ 1)
  | .fcmp => hi == 0
  | .sel => true
  | .fadd | .fsub => hi ≤ 3
  | .fmul | .fma | .frnd | .fscale => hi ≤ 2
  | .fmin | .fmax | .fabs | .fcopysign | .fsat => hi ≤ 2 && lo2 == 0
  | .fneg => hi ≤ 3 && lo2 == 0
  | .fdot2 => hi == 1 || hi == 2
  | .cvt =>
    let c := (m.extractLsb' 2 4).toNat
    !(10 ≤ c && c ≤ 13) || lo2 == 0
  | .tenc | .tdec => hi ≤ 1 && lo2 == 0
  | .xcvt | .kcvt => 6 ≤ hi
  | .e8enc => hi == 6
  | .pack | .unpack => hi ≤ 5 && lo == 0
  | .rcp | .divFloat | .sqrt | .rsqrt | .ex2 | .lg2 | .sinpi | .cospi | .tanh => hi ≤ 2
  | .cmul | .cfma => hi == 3
  | .mov | .movi | .movs | .bcast | .rdsr | .wrsr => 6 ≤ hi && lo == 0
  | .shfl => 6 ≤ hi
  | .vote => hi == 6 && !b2
  | .ballot | .blkmov => hi == 6 && lo == 0
  | .matchThreads => 6 ≤ hi && lo ≤ 1
  | .ld | .lds | .ldb | .ldsel | .ldf | .adpeek => loads
  | .st | .sts | .mcast | .adst | .red | .redv | .accflush => stores
  | .atom | .atomv | .cas | .accr | .adld | .adforce | .useadj | .usecnt => any
  | .pf | .copClean | .copFlush | .copDemote | .copZero => orderOk [0] m
  | .beamwait => orderOk [0] m && !modRaw m
  | .acctag => orderOk [0, 3] m
  | .fence => orderOk [2, 3] m && !modRaw m
  | .bwait => hi == 0 && lo ≤ 3
  | .bset => hi == 0 && (lo == 0 || lo == 2)
  | .mma | .tzero => lo == 0
  | .mmap => hi ≤ 3 && lo == 0
  | .tread | .twrite => 6 ≤ hi && (!b2 || (hi == 6 && lo2 == 0))
  | .tdrain => !b2 || (hi == 6 && lo2 == 0)
  | .tdadd => hi == 0 && (lo == 0 || lo == 4)
  | .twait | .trun | .tstop => hi == 0 && lo ≤ 1
  | .tlc => hi == 0 && lo ≤ 3
  | .ipf | .ipin | .iunpin => hi == 0 && lo ≤ 1
  | .regacqTry | .spgrowTry | .replayAll | .tlbiCtx => m == 1
  | .tlbiPage => m == 2
  | _ => m == 0

/-! ## Operand kinds (R39, R40 and each table) -/

/-- The kinds of operand of R39, a memory reference through a vector or a scalar pair apart. -/
inductive Kind where
  | vec | scalar | pred | special | imm | tile | tileC | memV | memS | illegal
  deriving DecidableEq, Repr

/-- The kind bits 15:13 name, whatever the reserved bits hold (R39). -/
def kindOf (x : BitVec 16) : Kind :=
  match (x.extractLsb' 13 3).toNat with
  | 0 => .vec | 1 => .scalar | 2 => .pred | 3 => .special | 4 => .imm
  | 5 => if x.getLsbD 12 then .tileC else .tile
  | 6 => if x.getLsbD 8 then .memS else .memV
  | _ => .illegal

/-- The register number of a vector operand or of a memory reference. -/
def regNo (x : BitVec 16) : Nat := (x.extractLsb' 0 8).toNat

/-- The special register numbers that a chapter assigns (R48). -/
def specialAssigned (n : Nat) : Bool := n ≤ 0x00E || (0x010 ≤ n && n ≤ 0x022) || (0x100 ≤ n && n ≤ 0x110)

/-- The reserved bits of an operand field are zero and its numbers are legal (R39, R48). -/
def reservedOk (x : BitVec 16) : Bool :=
  match kindOf x with
  | .vec => x.extractLsb' 8 5 == 0
  | .scalar => x.extractLsb' 6 7 == 0
  | .pred => x.extractLsb' 3 10 == 0
  | .special => x.extractLsb' 10 3 == 0 && specialAssigned (x.extractLsb' 0 10).toNat
  | .imm => true
  | .tile => x.extractLsb' 5 7 == 0
  | .tileC => x.extractLsb' 10 2 == 0 && x.extractLsb' 5 3 == 0
  | .memV => regNo x % 2 == 0
  | .memS => regNo x % 2 == 0 && regNo x ≤ 62
  | .illegal => false

/-- How a form uses an operand field: not at all (R40), as an operand, as an operand or 0x0000, as half of a 32-bit immediate (R42), or
as the B of `lop3`, which also carries LUT[4:0] (R44). -/
inductive Role where
  | unused | operand | optional | half | lut
  deriving DecidableEq, Repr

/-- What a form demands of one operand field. -/
structure OperandSpec where
  role  : Role := .unused
  kinds : List Kind := []
  sub   : BitVec 4 := 15      -- the largest SUB a memory reference may hold
  align : Nat := 1            -- a scalar register number is a multiple of this ...
  limit : Nat := 63           -- ... and at most this
  immLo : Bool := false       -- an immediate is not negative (bit 12 is zero)
  imm1  : Bool := false       -- an immediate is 0 or 1
  deriving DecidableEq, Repr

/-- An operand of the given kinds. -/
def opnd (kinds : List Kind) : OperandSpec := { role := .operand, kinds }
/-- An operand whose scalar register is a multiple of `k`. -/
def opndA (k : Nat) (kinds : List Kind) : OperandSpec := { role := .operand, kinds, align := k, limit := 64 - k }
/-- A field that the form leaves unused. -/
def zeroF : OperandSpec := {}

/-- The default kinds of a source (R40). -/
def srcKinds : List Kind := [.vec, .scalar, .pred, .special, .imm]
/-- The kinds of a source of groups 0x4 to 0x6 (R168). -/
def fsrcKinds : List Kind := [.vec, .scalar, .special, .imm]
/-- Vector or scalar. -/
def vsKinds : List Kind := [.vec, .scalar]
/-- Vector, scalar or immediate. -/
def vsiKinds : List Kind := [.vec, .scalar, .imm]
/-- Scalar or immediate. -/
def siKinds : List Kind := [.scalar, .imm]
/-- Any memory reference. -/
def memKinds : List Kind := [.memV, .memS]
/-- Any tile operand. -/
def tileKinds : List Kind := [.tile, .tileC]
/-- A memory reference with SUB 0000. -/
def mem0 (kinds : List Kind) : OperandSpec := { role := .operand, kinds, sub := 0 }
/-- A memory reference whose SUB is at most `m`. -/
def memSub (m : BitVec 4) : OperandSpec := { role := .operand, kinds := memKinds, sub := m }

/-- SUB of a memory reference field. -/
def subOf (x : BitVec 16) : Nat := (x.extractLsb' 9 4).toNat

/-- The field that holds a form's memory reference: D of stores and reductions, A of the rest. -/
def Form.memInD : Form → Bool
  | .st | .sts | .mcast | .red | .redv | .accr | .accflush | .acctag | .adst | .useadj | .tdrain => true
  | _ => false

/-- SUB of a form's memory reference. -/
def Form.refSub (i : Form) (r : Raw) : Nat := if i.memInD then subOf r.d else subOf r.a

/-- Operator codes whose element is a register pair: add.i64, add.c32 and exch.b64, which `accr` has not (R46, R54, R279, R333). -/
def wideOp (c : Nat) : Bool := c == 1 || c == 4 || c == 15

/-- The element width in columns that a form gives its vector operands (R45, R46, R174, R176, R182, R204, R279, R333); a word whose
SUB is undefined, which check 7 refuses, meets check 6 first with the width that stands here (DESIGN CHOICE, assumption log 93). -/
def Form.width (i : Form) (r : Raw) : Nat :=
  let hi := modHi r.mod
  match i with
  | .fadd | .fsub | .fneg | .cmul | .cfma => if hi == 3 then 2 else 1
  | .cvt => let c := (r.mod.extractLsb' 2 4).toNat; if 4 ≤ c && c ≤ 7 then 2 else 1
  | .xcvt => 4
  | .kcvt => if hi == 6 then 2 else 4
  | .twosum | .twoprod => 2
  | .ld | .st | .lds | .sts | .ldb | .mcast => match i.refSub r with | 3 => 2 | 4 => 4 | _ => 1
  | .atom | .atomv | .red | .redv => if wideOp (i.refSub r) then 2 else 1
  | .accr => if wideOp (i.refSub r) && i.refSub r != 15 then 2 else 1
  | .cas => if i.refSub r == 0 then 2 else 4
  | .tread | .twrite => if modBit2 r.mod then 4 else if hi == 7 then 2 else 1
  | _ => if i.group ≤ 3 || i.group == 7 then (if is64 hi && i.group != 0 then 2 else 1) else 1

/-- What a form demands of its three operand fields, D, A and B.  The scalar D of `xcvt` and `kcvt` names a multiple of the registers of its element
(DESIGN CHOICE, assumption log 69); a negative immediate of `sleep` or `countb` is legal (DESIGN CHOICE, assumption log 70); the scalar that holds the start cell
of `tread` or `twrite` in .c32 may be an odd one (DEDUCED, assumption log 27). -/
def Form.operands (i : Form) (r : Raw) : OperandSpec × OperandSpec × OperandSpec :=
  let w := i.width r
  let d := opndA w vsKinds
  let src := opndA w srcKinds
  let fsrc := opndA w fsrcKinds
  let off := opnd [.imm]
  let half : OperandSpec := { role := .half }
  let immI := modBit2 r.mod
  let sOr0 : OperandSpec := { role := .optional, kinds := [.scalar] }
  let pairS : OperandSpec := opndA 2 [.scalar]
  let imm12 : OperandSpec := { role := .operand, kinds := [.imm], immLo := true }
  match i with
  | .nop | .exit | .yield => (zeroF, zeroF, zeroF)
  | .bra => (zeroF, opnd [.imm], zeroF)
  | .brx | .ret => (zeroF, opnd vsKinds, zeroF)
  | .call => (opnd vsKinds, opnd [.imm], zeroF)
  | .callx => (opnd vsKinds, opnd vsKinds, zeroF)
  | .rejoin | .sleep | .trap => (zeroF, opnd siKinds, zeroF)
  | .wait => (zeroF, imm12, imm12)
  | .trywait => (opnd [.pred], if modLo2 r.mod == 2 then mem0 [.memS] else opnd siKinds, pairS)
  | .brk => (zeroF, imm12, zeroF)
  | .loop => (opnd [.scalar], opnd [.imm], zeroF)
  | .add | .sub | .mul | .min | .max | .and | .or | .xor => if immI then (d, half, half) else (d, src, src)
  | .addc | .subb | .mulhi | .mulw | .mad | .madw | .div | .rem | .clamp | .sad | .dp4
  | .shl | .shr | .sar | .rot | .fsh | .bfx | .bfi | .bperm | .lea | .sel => (d, src, src)
  | .abs | .neg | .not | .popc | .clz | .ctz | .brev => (d, src, zeroF)
  | .lop3 => (d, src, { role := .lut, kinds := vsKinds, align := w, limit := 64 - w })
  | .icmp => (opnd [.pred], src, src)
  | .fcmp => (opnd [.pred], opnd srcKinds, opnd srcKinds)
  | .fclass => (opnd [.pred], opnd srcKinds, opnd vsiKinds)
  | .pand | .por | .pxor => (opnd [.pred], opnd [.pred], opnd [.pred])
  | .pnot => (opnd [.pred], opnd [.pred], zeroF)
  | .pmov => (opnd [.pred, .vec, .scalar], if kindOf r.d == .pred then opnd srcKinds else opnd [.pred], zeroF)
  | .pany => (opnd [.pred], opnd siKinds, zeroF)
  | .fadd | .fsub | .fmul | .fma | .fmin | .fmax | .fcopysign | .fdot2 | .divFloat | .cmul | .cfma | .twosum | .twoprod => (d, fsrc, fsrc)
  | .fabs | .fneg | .frnd | .fsat | .tenc | .e8enc | .rcp | .sqrt | .rsqrt | .ex2 | .lg2 | .sinpi | .cospi | .tanh => (d, fsrc, zeroF)
  | .fscale => (d, fsrc, opnd vsiKinds)
  | .cvt => let c := (r.mod.extractLsb' 2 4).toNat; (d, fsrc, if c == 8 || c == 9 then fsrc else zeroF)
  | .tdec | .pack | .unpack => (d, fsrc, fsrc)
  | .xcvt | .kcvt => (d, opnd [.vec], zeroF)
  | .mov => (d, src, zeroF)
  | .movi => (d, half, half)
  | .movs => (opndA w [.scalar], opnd [.vec], opndA w siKinds)
  | .bcast => (opnd [.vec], opnd [.vec], opndA w siKinds)
  | .shfl => (opnd [.vec], opnd [.vec], opndA w vsiKinds)
  | .vote => (opnd [.pred], opnd [.pred], if modLo2 r.mod ≤ 1 then opnd siKinds else zeroF)
  | .ballot => (opnd vsKinds, opnd [.pred], zeroF)
  | .matchThreads => (d, opnd [.vec], zeroF)
  | .blkmov => (opnd [.vec], opnd [.vec], zeroF)
  | .rdsr => (d, opnd [.special], zeroF)
  | .wrsr => (opnd [.special], opndA w vsiKinds, zeroF)
  | .ld | .lds | .ldb => (d, memSub 4, off)
  | .st | .sts => (memSub 4, d, off)
  | .ldsel => (opnd vsKinds, mem0 memKinds, off)
  | .pf => (zeroF, mem0 memKinds, off)
  | .copClean | .copFlush | .copDemote | .copZero => (zeroF, memSub 3, off)
  | .beamwait => (zeroF, opnd siKinds, opnd siKinds)
  | .atom => (d, memSub 15, fsrc)
  | .atomv => (opnd [.vec], memSub 15, opndA 8 vsKinds)
  | .red => (memSub 15, fsrc, zeroF)
  | .redv => (memSub 15, opndA 8 vsKinds, zeroF)
  | .cas => (d, memSub 1, d)
  | .accr => (memSub 11, fsrc, zeroF)
  | .accflush => (mem0 memKinds, zeroF, zeroF)
  | .acctag => (mem0 memKinds, opnd siKinds, zeroF)
  | .ldf | .adpeek => (opnd vsKinds, mem0 memKinds, off)
  | .adst | .useadj => (mem0 memKinds, opnd vsiKinds, zeroF)
  | .adld | .adforce => (opnd vsKinds, mem0 memKinds, opnd [.pred])
  | .usecnt => (opnd vsKinds, mem0 memKinds, zeroF)
  | .cmdw | .permx => (sOr0, opndA 8 [.scalar], zeroF)
  | .bwait | .bset => (zeroF, opnd siKinds, zeroF)
  | .bexp => (zeroF, opnd siKinds, pairS)
  | .bstat => (opnd vsKinds, opnd siKinds, zeroF)
  | .countb => (zeroF, opnd vsiKinds, opnd vsiKinds)
  | .relh | .launch => (zeroF, mem0 [.memS], zeroF)
  | .shcancel => (zeroF, opnd siKinds, opnd siKinds)
  | .mma | .mmap => (opnd tileKinds, mem0 [.memS], mem0 [.memS])
  | .tzero | .topen => (opnd tileKinds, opnd siKinds, zeroF)
  | .tread => (opnd [.vec], opnd tileKinds, opnd vsiKinds)
  | .twrite => (opnd tileKinds, opnd [.vec], opnd vsiKinds)
  | .tdrain => (mem0 [.memS], opnd tileKinds, zeroF)
  | .tdadd => (opnd [.scalar], opnd tileKinds, opnd siKinds)
  | .tfence | .twait => (zeroF, opnd siKinds, zeroF)
  | .tlc => (zeroF, opnd siKinds, opnd siKinds)
  | .trun => (zeroF, mem0 [.memS], zeroF)
  | .tstop | .gbar | .fence | .eret | .tlbiAll | .tlbiCtx | .replayAll => (zeroF, zeroF, zeroF)
  | .barv => (sOr0, opnd siKinds, zeroF)
  | .barw => (zeroF, opnd siKinds, zeroF)
  | .bars | .cbar => (zeroF, opnd siKinds, opnd siKinds)
  | .post => (zeroF, mem0 [.memS], opnd [.vec])
  | .regacq | .regrel | .spgrow => (zeroF, opnd siKinds, zeroF)
  | .regacqTry | .spgrowTry => (opnd [.pred], opnd siKinds, zeroF)
  | .score => (zeroF, opndA 2 siKinds, zeroF)
  | .trnd => (sOr0, zeroF, zeroF)
  | .jqstart => ({ role := .optional, kinds := [.pred] }, mem0 [.memS], zeroF)
  | .jqdone => (zeroF, opnd vsKinds, zeroF)
  | .jqstat => (opnd vsKinds, opnd vsiKinds, opnd siKinds)
  | .ipin => (opnd [.pred], opnd siKinds, opnd siKinds)
  | .iunpin | .ipf => (zeroF, opnd siKinds, opnd siKinds)
  | .mcast => (memSub 4, d, pairS)
  | .tlbiPage | .replay => (zeroF, pairS, zeroF)
  | .rdflt => (opndA 4 [.scalar], opnd [.pred], zeroF)
  | .svc => (zeroF, imm12, zeroF)
  | .ctxsv => (zeroF, mem0 [.memS], { role := .operand, kinds := [.imm], imm1 := true })

/-- One operand field meets its demand (check 7). -/
def OperandSpec.ok (o : OperandSpec) (x : BitVec 16) : Bool :=
  let scalarOk := kindOf x != .scalar || ((x.extractLsb' 0 6).toNat % o.align == 0 && (x.extractLsb' 0 6).toNat ≤ o.limit)
  let memOk := (kindOf x != .memV && kindOf x != .memS) || x.extractLsb' 9 4 ≤ o.sub
  let immOk := kindOf x != .imm || ((!o.immLo || !x.getLsbD 12) && (!o.imm1 || x.extractLsb' 1 12 == 0))
  match o.role with
  | .unused => x == 0
  | .half => true
  | .operand => o.kinds.contains (kindOf x) && reservedOk x && scalarOk && memOk && immOk
  | .optional => x == 0 || (o.kinds.contains (kindOf x) && reservedOk x && scalarOk)
  | .lut =>
    let y := x &&& 0xE0FF
    o.kinds.contains (kindOf x) && reservedOk y && scalarOk

/-- The field is an operand of vector kind (R45): a memory reference's pair is not one. -/
def OperandSpec.isVec (o : OperandSpec) (x : BitVec 16) : Bool := o.role != .unused && o.role != .half && o.role != .optional && kindOf x == .vec

/-- A `.b64` special operand names a number whose successor is assigned too (R183). -/
def specialPairOk (i : Form) (r : Raw) : Bool :=
  let pair (x : BitVec 16) := kindOf x != .special || specialAssigned ((x.extractLsb' 0 10).toNat + 1)
  match i with
  | .rdsr | .mov => modHi r.mod != 7 || pair r.a
  | .wrsr => modHi r.mod != 7 || pair r.d
  | _ => true

/-- Check 7: every operand field is legal (DEDUCED, assumption log 27). -/
def Form.operandsOk (i : Form) (r : Raw) : Bool :=
  let (d, a, b) := i.operands r
  d.ok r.d && a.ok r.a && b.ok r.b && specialPairOk i r

/-! ## Extents (check 6) -/

/-- The extents that a form's own table allows when some operand is of vector kind (DEDUCED, assumption log 26). -/
def Form.shapeOk (i : Form) (r : Raw) (rows cols : Nat) : Bool :=
  let one := rows == 1 && cols == 1
  let w := i.width r
  match i with
  | .icmp | .fcmp | .fclass | .pand | .por | .pxor | .pnot | .pany => kindOf r.d != .pred || one
  | .vote | .ballot => one
  | .movs | .matchThreads | .rdsr | .wrsr | .atom | .red | .cas => rows == 1 && cols == w
  | .pmov => kindOf r.d != .pred || one
  | .blkmov => rows == cols
  | .ldsel | .pf | .copClean | .copFlush | .copDemote | .copZero | .beamwait | .accflush | .acctag | .usecnt | .useadj => one
  | .atomv | .redv => rows * cols == 8 && w ≤ cols
  | .post | .countb | .tread | .twrite | .mcast => true
  | _ => if i.group == 0 || 11 ≤ i.group then one else true

/-- Check 6: the extent and the columns of vector operands are legal (R45, R46 and the column rules).  The start cells in B of `tread` and `twrite`
are under the rule of `.c32` and not under that of `.raw`, which R249 gives for the block alone. -/
def Form.extentOk (i : Form) (r : Raw) : Bool :=
  let (d, a, b) := i.operands r
  let rows := 2 ^ r.xr.toNat
  let cols := 2 ^ r.xc.toNat
  let w := i.width r
  let one := rows == 1 && cols == 1
  let inGrid (o : OperandSpec) (x : BitVec 16) := !o.isVec x || (regNo x / 16 + rows ≤ 16 && regNo x % 16 + cols ≤ 16)
  let colOk (o : OperandSpec) (x : BitVec 16) := !o.isVec x || (regNo x % 16 % w == 0 && w ≤ cols)
  let anyVec := d.isVec r.d || a.isVec r.a || b.isVec r.b
  let dScalar := (d.role == .operand || d.role == .optional) && (kindOf r.d == .scalar || kindOf r.d == .pred || kindOf r.d == .special) && r.d != 0
  let inB := ((i == .tread || i == .twrite) && w != 2) || colOk b r.b
  inGrid d r.d && inGrid a r.a && inGrid b r.b
    && colOk d r.d && colOk a r.a && inB
    && (anyVec || one)
    && (!dScalar || one || (rows == 1 && cols == w))
    && (!anyVec || i.shapeOk r rows cols)

/-! ## Uniform (check 8, R35) -/

/-- The forms whose D is also a source (R41). -/
def Form.threeInput (i : Form) (m : BitVec 6) : Bool :=
  match i with
  | .mad | .madw | .sad | .dp4 | .clamp | .bfi | .fsh | .lop3 | .fma | .fdot2 | .cfma => true
  | .add | .sub | .mul | .min | .max | .and | .or | .xor => modBit2 m
  | _ => false

/-- Check 8: U is legal (R35). -/
def Form.uniformOk (i : Form) (r : Raw) : Bool :=
  let (d, a, b) := i.operands r
  let vecSrc (o : OperandSpec) (x : BitVec 16) := o.isVec x || (o.role == .operand && kindOf x == .memV)
  let dSrc := if i.threeInput r.mod then d.isVec r.d else d.role == .operand && kindOf r.d == .memV
  let noVec := !(vecSrc a r.a || vecSrc b r.b || dSrc)
  if r.u == 0 then true
  else match i with
  | .shfl | .vote | .ballot | .matchThreads | .blkmov => false
  | .ldf => noVec
  | _ => if (1 ≤ i.group && i.group ≤ 9) then noVec else false

/-! ## The checks in their order (R56) -/

/-- The first of the checks 4 to 8 that a word of this form fails. -/
def Form.check (i : Form) (r : Raw) : Option Illegal :=
  if (12 ≤ r.setf.toNat && r.setf.toNat ≤ 14) || (i.isControlTransfer && r.setf != 15) then some .setfValue
  else if !i.modOk r.mod then some .modUndefined
  else if !i.extentOk r then some .extent
  else if !i.operandsOk r then some .operandKind
  else if !i.uniformOk r then some .uniform
  else none

/-! ## Operands and fields (R39, R42, R44) -/

/-- The 16 bits of an operand (R39); a half of an immediate stands as it is (R42), LUT[4:0] of `lop3` in bits 12:8 (R44). -/
def Operand.field : Operand → BitVec 16
  | .none => 0
  | .vec n => 0#3 ++ 0#5 ++ n
  | .scalar n => 1#3 ++ 0#7 ++ n
  | .pred n => 2#3 ++ 0#10 ++ n
  | .special n => 3#3 ++ 0#3 ++ n
  | .imm v => 4#3 ++ v
  | .tile n => 5#3 ++ 0#8 ++ n
  | .tileC k e => 5#3 ++ 1#1 ++ 0#2 ++ k ++ 0#3 ++ e
  | .mem s n sub => 6#3 ++ sub ++ BitVec.ofBool s ++ n
  | .lutVec n lut => 0#3 ++ lut ++ n
  | .lutScalar n lut => 1#3 ++ lut ++ 0#2 ++ n
  | .bits v => v

/-- The operand that a legal field holds (R39). -/
def operandOf (x : BitVec 16) : Operand :=
  match kindOf x with
  | .vec => .vec (x.extractLsb' 0 8)
  | .scalar => .scalar (x.extractLsb' 0 6)
  | .pred => .pred (x.extractLsb' 0 3)
  | .special => .special (x.extractLsb' 0 10)
  | .imm => .imm (x.extractLsb' 0 13)
  | .tile => .tile (x.extractLsb' 0 5)
  | .tileC => .tileC (x.extractLsb' 8 2) (x.extractLsb' 0 5)
  | .memV => .mem false (x.extractLsb' 0 8) (x.extractLsb' 9 4)
  | .memS => .mem true (x.extractLsb' 0 8) (x.extractLsb' 9 4)
  | .illegal => .none

/-- The operand of a field in its role. -/
def OperandSpec.read (o : OperandSpec) (x : BitVec 16) : Operand :=
  match o.role with
  | .unused => .none
  | .half => .bits x
  | .operand => operandOf x
  | .optional => if x == 0 then .none else operandOf x
  | .lut => if kindOf x == .vec then .lutVec (x.extractLsb' 0 8) (x.extractLsb' 8 5) else .lutScalar (x.extractLsb' 0 6) (x.extractLsb' 8 5)

/-- The fields of a word of a form. -/
def Form.fields (i : Form) (r : Raw) : Fields :=
  let (d, a, b) := i.operands r
  { wmask := r.wmask, setf := r.setf, dist := r.dist, u := r.u == 1, y := r.y == 1, neg := r.neg == 1, gp := r.gp, mod := r.mod,
    xr := r.xr, xc := r.xc, d := d.read r.d, a := a.read r.a, b := b.read r.b }

/-- The bit fields of an instruction word (R31). -/
def Form.raw (i : Form) (f : Fields) : Raw where
  wmask := f.wmask
  setf := f.setf
  dist := f.dist
  u := BitVec.ofBool f.u
  y := BitVec.ofBool f.y
  neg := BitVec.ofBool f.neg
  gp := f.gp
  opc := i.opc
  mod := f.mod
  xr := f.xr
  xc := f.xc
  d := f.d.field
  a := f.a.field
  b := f.b.field
  low := 0

/-- An operand has the constructor its role asks for. -/
def OperandSpec.shape (o : OperandSpec) : Operand → Bool
  | .none => o.role == .unused || o.role == .optional
  | .bits _ => o.role == .half
  | .lutVec _ _ | .lutScalar _ _ => o.role == .lut
  | x => o.role == .operand || (o.role == .optional && x.field != 0)

/-- The three operands have the constructors the form asks for. -/
def Form.shapes (i : Form) (f : Fields) : Bool :=
  let (d, a, b) := i.operands (i.raw f)
  d.shape f.d && a.shape f.a && b.shape f.b

end Sys2Proof
end

