-- ==== Sys2Proof/WellFormed.lean ====
section
/-! DEFINITION. Sys2Proof/WellFormed.lean: which terms of `Instr` are instructions of the machine: those whose fields the checks 1 to 8 of
R56 accept. -/

namespace Sys2Proof

/-- The fields of a form are legal: MOD and SUB name this row and not a neighbour, the operands have the kinds the form takes, and the
checks 4 to 8 of R56 pass. -/
def Form.wf (i : Form) (f : Fields) : Bool :=
  let r := i.raw f
  i.picks r && i.shapes f && i.check r == none

/-- A well-formed instruction; a step that no word encodes always is one. -/
def Instr.wf (i : Instr) : Bool :=
  match i.word? with
  | some (k, f) => k.wf f
  | none => true

end Sys2Proof
end

