-- ==== Sys2Proof/Decode.lean ====
section
/-! DEFINITION. Sys2Proof/Decode.lean: from bytes to instructions (R31, R32, R49, R56) and back. -/

namespace Sys2Proof

/-- The number that little-endian bytes spell (R5). -/
def wordOfBytes : List Byte → Nat
  | [] => 0
  | b :: bs => b.toNat + 256 * wordOfBytes bs

/-- The `n` little-endian bytes of a number (R5). -/
def bytesOfWord : Nat → Nat → List Byte
  | 0, _ => []
  | n + 1, w => BitVec.ofNat 8 w :: bytesOfWord n (w / 256)

/-- The instruction of a 96-bit word, or the first check of 1 to 8 that it fails (R56) (DEDUCED, assumption log 67). -/
def decodeWord (w : InstrWord) : Except Illegal Instr :=
  let r := Raw.ofWord w
  if r.low != 0 then .error .nonzeroLow
  else if r.opc.extractLsb' 6 4 == 15 then .error .reservedGroup
  else match Form.ofRaw r with
    | none => .error .unassignedSlot
    | some i => match i.check r with
      | some e => .error e
      | none => .ok (i.mk (i.fields r))

/-- Why bytes do not decode: fewer than the twelve of a word (R32), or an illegal word (R56). -/
inductive DecodeError where
  | short
  | illegal (e : Illegal)
  deriving DecidableEq, Repr

/-- The instruction at the head of a list of bytes, with the bytes after it (R32). -/
def decode (bs : List Byte) : Except DecodeError (Instr × List Byte) :=
  if bs.length < 12 then .error .short
  else match decodeWord (BitVec.ofNat 96 (wordOfBytes (bs.take 12))) with
    | .error e => .error (.illegal e)
    | .ok i => .ok (i, bs.drop 12)

/-- The 96-bit word of an instruction (R31); a step that no word encodes gives none. -/
def encodeWord (i : Instr) : Option InstrWord := i.word?.map fun (k, f) => (k.raw f).toWord

/-- The twelve bytes of an instruction, as they stand in memory (R32). -/
def encode (i : Instr) : List Byte :=
  match encodeWord i with
  | some w => bytesOfWord 12 w.toNat
  | none => []

/-- The instruction that the decoder reads from a word whose bits are `w`, bit 0 the lowest of the first byte (R32). -/
def decodeTableWord (_nbits w : Nat) : Option Instr :=
  match decode (bytesOfWord 12 w) with
  | .ok (i, _) => some i
  | .error _ => none

end Sys2Proof
end

