-- ==== Sys2Proof/Config.lean ====
section
/-! DEFINITION. Sys2Proof/Config.lean: the values that the manual leaves open.  None has a body: nothing can be proved of what it is, and a
statement that mentions one holds for every value of it.  Each is applied to `State.tick` or to another counter, so that two uses are
unrelated (assumption log 3). -/

namespace Sys2Proof.Config

/-- Whether a read that comes too early sees the older of two values (R126, R136, R302).  Arguments: the tick, the register's code. -/
opaque earlyRead : Nat → Nat → Bool

/-- Whether the value of an instruction that completes late stands over one written meanwhile (R302). -/
opaque lateWrite : Nat → Nat → Bool

/-- Whether an instruction that its path has gone past reads a source as it stood at its issue (R302).  Arguments: the tick, the register's
code. -/
opaque lateSource : Nat → Nat → Bool

/-- A byte of a flit that has been sent and has not come whole (R261, assumption log 89).  Arguments: the tick, the byte. -/
opaque flitByte : Nat → Nat → BitVec 8

/-- How a request to another device that waits for its answer comes to its end (R264), modulo 3: 0 answered, 1 its timeouts ran out, 2 its tag failed
(assumption log 77).  Arguments: the tick, the address, the thread or element. -/
opaque fabricEnd : Nat → Nat → Nat → Nat

/-- A use-count word that the manual leaves undefined (R340, assumption log 81).  Arguments: the tick, the address. -/
opaque undefCount : Nat → Nat → Nat

/-- An undefined cell or register value of an unordered tile access (R246).  Arguments: the tick, the cell or register. -/
opaque undefCell : Nat → Nat → BitVec 128

end Sys2Proof.Config
end

