-- ==== Sys2Proof/Machine/Sparse.lean ====
section
/-! DEFINITION. Sys2Proof/Machine/Sparse.lean: finite maps from numbers to words, as lists of pairs in one canonical form: keys strictly
rising, no entry that holds zero.  Memory, register files and tile cells are such maps; what is not listed reads zero. -/

namespace Sys2Proof.Machine

/-- A map from numbers to w-bit words; an unlisted key holds zero. -/
abbrev Sparse (w : Nat) := List (Nat × BitVec w)

/-- The word at a key. -/
def Sparse.get {w : Nat} : Sparse w → Nat → BitVec w
  | [], _ => 0
  | (k, v) :: m, n => if n == k then v else Sparse.get m n

/-- The map with the word at one key replaced; storing zero removes the entry. -/
def Sparse.set {w : Nat} : Sparse w → Nat → BitVec w → Sparse w
  | [], n, x => if x == 0 then [] else [(n, x)]
  | (k, v) :: m, n, x =>
    if n < k then (if x == 0 then (k, v) :: m else (n, x) :: (k, v) :: m)
    else if n == k then (if x == 0 then m else (n, x) :: m)
    else (k, v) :: Sparse.set m n x

/-- Every key of the map is above `n` and the keys rise, and no entry holds zero. -/
def Sparse.wfFrom {w : Nat} (n : Nat) : Sparse w → Bool
  | [] => true
  | (k, v) :: m => decide (n ≤ k) && (v != 0) && Sparse.wfFrom (k + 1) m

/-- The canonical form: keys strictly rising, no entry that holds zero. -/
def Sparse.wf {w : Nat} (m : Sparse w) : Bool := Sparse.wfFrom 0 m

/-- The canonical form of memory: addresses strictly rising, no listed byte that holds zero, which is what an unlisted byte reads as
(assumption log 4). -/
def Memory.wf (m : List (Nat × Byte)) : Bool := Sparse.wf m

/-- The map with every key that satisfies `p` removed. -/
def Sparse.drop {w : Nat} (m : Sparse w) (p : Nat → Bool) : Sparse w := m.filter fun kv => !p kv.1

/-- The map with the word at one key replaced, whatever the order of its entries. -/
def Sparse.put {w : Nat} (m : Sparse w) (n : Nat) (x : BitVec w) : Sparse w := Sparse.set (Sparse.drop m fun k => k == n) n x

/-- The entries put one by one into an empty map, the first of two entries of one key standing. -/
def Sparse.canon {w : Nat} (m : Sparse w) : Sparse w := m.foldr (fun kv acc => Sparse.set acc kv.1 kv.2) []

/-- `n` consecutive words from key `k`. -/
def Sparse.range {w : Nat} (m : Sparse w) (k n : Nat) : List (BitVec w) := (List.range n).map fun i => Sparse.get m (k + i)

/-- The map with consecutive words stored from key `k`. -/
def Sparse.setRange {w : Nat} : Sparse w → Nat → List (BitVec w) → Sparse w
  | m, _, [] => m
  | m, k, x :: xs => Sparse.setRange (Sparse.set m k x) (k + 1) xs

/-- Consecutive words stored from key `k`, whatever the order of the entries. -/
def Sparse.putRange {w : Nat} : Sparse w → Nat → List (BitVec w) → Sparse w
  | m, _, [] => m
  | m, k, x :: xs => Sparse.putRange (Sparse.put m k x) (k + 1) xs

end Sys2Proof.Machine
end

