-- ==== Sys2Proof/Machine/State.lean ====
section
/-! DEFINITION. Sys2Proof/Machine/State.lean: the state of one domain of VX9 devices, as plain data, and the state right after reset.
Every record names the rule of spec/ that gives the machine that state; INVENTORY.md lists all of it with the reset values. -/

namespace Sys2Proof.Machine

/-- Why the machine stops.  Nothing of the manual ends a run: traps, faults and errors of the device are next states. -/
inductive Fault where
  /-- Raised by `exec` when an instruction word is executed and `State.issuer` names no path (assumption log 1).  `step` never raises it,
  because it executes a word only for a path it has picked.  Safe: the model stops where the hardware has nothing to execute. -/
  | noIssuer
  deriving DecidableEq, Repr

/-- Why an instruction has no meaning in the model. -/
inductive Refusal where
  /-- Raised by an arm of `exec` that has no meaning yet.  Safe: the model stops. -/
  | notModelled (mnemonic : String)
  deriving DecidableEq, Repr

/-! ## Wefts -/

/-- A register of a weft: a vector register or predicate of one thread, a scalar register, a special register (R108). -/
inductive RegKey where
  | v (n t : Nat)
  | s (n : Nat)
  | p (n t : Nat)
  | sp (n : Nat)
  deriving DecidableEq, Repr

/-- A write of one register, predicates as 0 or 1.  `contested`: another instruction has written the register meanwhile (R302). -/
structure RegWrite where
  key : RegKey
  val : Word
  contested : Bool := false
  deriving DecidableEq, Repr

/-- A fixed-latency result that some path may still read too early (R126, R136): the value it replaced, the threads whose paths are not yet 6
cycles past it, and the cycle in which the producer's last pass entered. -/
structure Young where
  key  : RegKey
  old  : Word
  gap  : Nat
  mask : Mask
  at_  : Nat
  deriving DecidableEq, Repr

/-- An outstanding instruction (R127 to R129): the flag and the counter units it lowers, the registers it writes when it completes, the highest vector
register it names (R112), and the registers that others have written since it issued (R302). -/
structure Out where
  n      : Nat
  setf   : Nat := 15
  ld     : Nat := 0
  st     : Nat := 0
  tl     : Nat := 0
  writes : List RegWrite := []
  top    : Nat := 0
  crossed : List RegKey := []
  deriving DecidableEq, Repr

/-- What holds a path (R130 and the rules named). -/
inductive Why where
  /-- `rejoin` (R142) -/
  | rejoin
  /-- `wait` (R144) -/
  | wait
  /-- `trywait` until the deadline (R145) -/
  | trywait
  /-- `sleep` until the cycle (R146) -/
  | sleep
  /-- `barw` (R289), `cbar` (R290), `gbar` (R291): the phase waited on -/
  | barw
  | cbar
  | gbar
  /-- `regacq` (R112), `spgrow` (R388) in their core's queue -/
  | regacq
  | spgrow
  /-- `regrel` waiting for an outstanding instruction (R112) -/
  | regrel
  /-- `beamwait` (R212) -/
  | beamwait
  /-- `bwait` (R229) -/
  | bwait
  /-- `cmdw` on a full ring (R228) -/
  | cmdw
  /-- `shcancel` (R232) -/
  | shcancel
  /-- `adld` on a count above zero, until the deadline (R349) -/
  | adld
  /-- `post` on a full bin (R92) -/
  | post
  /-- `tfence`, `twait`, `tstop` (R244, R254, R255) -/
  | tfence
  | twait
  | tstop
  /-- `trnd` (R387) -/
  | trnd
  /-- `jqstart` (R371) -/
  | jqstart
  /-- `fence` (R293) -/
  | fence
  /-- `tlbi` (R403) -/
  | tlbi
  /-- a translation fault (R399): no retry before a `replay` -/
  | stall
  /-- a retry is due after a `replay` (R404) -/
  | retry
  /-- withdrawn by a pre-emption: issued again after the restore (R401, R408) -/
  | withdrawn
  /-- an instruction that its path has gone past (R302): it is still to read its sources -/
  | late
  deriving DecidableEq, Repr

/-- What a `trywait` watches, read once at its issue (R145): the mode and the compare code of its modifier, the object or address of A, v, and the deadline. -/
structure Watch where
  mode : Nat
  code : Nat
  src  : DWord
  val  : Word
  due  : Nat
  deriving DecidableEq, Repr

/-- A held path: why, a number (a deadline, a phase or a page, as `why` says), the threads already performed, the name of the outstanding
instruction that carries its flag, the threads its guard selected, the address waited on, and what a `trywait` watches. -/
structure Hold where
  why   : Why
  arg   : Nat := 0
  pmask : Mask := 0
  out   : Nat := 0
  sel   : Mask := 0
  va    : DWord := 0
  test  : Option Watch := none
  deriving DecidableEq, Repr

/-- A path of a weft (R135).  `last` is the cycle in which the last pass of its previous instruction entered (R124), `gap` counts the DIST and
occupancy cycles of R126, `full` is the cycle in which the ageing counter reached 255 (R131), `drain` the cycle before which a merged path does
not issue (R137), `line` the code line in its fetch buffer, by virtual address (R120). -/
structure Path where
  mask  : Mask
  pc    : Word := 0
  age   : BitVec 8 := 0
  full  : Nat := 0
  last  : Nat := 0
  started : Bool := false
  gap   : Nat := 0
  drain : Nat := 0
  yield : Bool := false
  hold  : Option Hold := none
  line  : Option (Nat × List (Option Byte)) := none
  deriving DecidableEq, Repr

/-- A translation held in a TLB (R397): the virtual block, its size as a power of two, the leaf and the address it was read from. -/
structure Tlb where
  dev  : Nat
  ctx  : Nat
  base : Nat
  bits : Nat
  pte  : DWord
  at_  : Nat
  deriving DecidableEq, Repr

/-- An instruction that has issued and has not read its sources yet, while its path goes on (R127, R302): the name of its outstanding record, the
instruction, its path as it issued, what holds it, and the registers and young results as they stood then.  `tlb` holds the translations that its
checks found (R205), `seen` the elements and the scales that its next thread has already read (`Elem.spot`, R74, R208), `passed` the bytes that later accesses of
its path have reached before it (R303), and `old` says that it reads its sources as they stood at its issue. -/
structure Late where
  n     : Nat
  form  : Form := .nop
  f     : Fields := {}
  path  : Path
  hold  : Hold
  v     : Sparse 32 := []
  s     : Sparse 32 := []
  p     : Sparse 16 := []
  young : List Young := []
  tlb   : List Tlb := []
  seen  : List (Nat × List Byte) := []
  passed : List (Nat × Nat) := []
  old   : Bool := false
  deriving DecidableEq, Repr

/-- A weft (R103, R106, R108), or a treadle, which issues as a weft of one thread (R236).  Vector registers are keyed by 16 n + thread.  `acq`
names the matrix operations and tile writes whose completion the weft has acquired, `own` its own completed matrix operations with their flags,
which a wait acquires, and `moved` its own completed tile reads and writes, which its arrivals at barriers release (R246). -/
structure Weft where
  wid    : Nat
  lane   : Nat := 0
  exited : Mask := 0
  paths  : List Path := []
  v      : Sparse 32 := []
  s      : Sparse 32 := []
  p      : Sparse 16 := []
  flags  : Sparse 3 := []
  ld     : Nat := 0
  st     : Nat := 0
  cp     : Nat := 0
  tl     : Nat := 0
  held   : Nat := 0
  outs   : List Out := []
  late   : List Late := []
  young  : List Young := []
  seg    : DWord := 0
  priv   : Bool := false
  epc    : Word := 0
  eseg   : DWord := 0
  ecode  : Word := 0
  acq    : List Nat := []
  own    : List (Nat × Nat) := []
  moved  : List Nat := []
  deriving DecidableEq, Repr

/-! ## Groups -/

/-- A barrier (R286).  `party` is B of the phase's first arrival (R290), `here` the wefts (group name, wid) that have arrived; `carry` names the
matrix operations and tile writes that the arrivals of the phase release, `past` those of the completed phases (R246, R289). -/
structure Barrier where
  phase   : Word := 0
  arrived : Nat := 0
  expect  : Nat := 1
  party   : Option Nat := none
  here    : List (Nat × Nat) := []
  carry   : List Nat := []
  past    : List Nat := []
  deriving DecidableEq, Repr

/-- A bobbin (R224): its state, whether a FAULT's cause is an overrun, its counts and the command that holds it. -/
structure Bobbin where
  st      : BobState := .free
  overrun : Bool := false
  off     : Word := 0
  expect  : Word := 0
  remain  : Word := 0
  holder  : Option Nat := none
  deriving DecidableEq, Repr

/-- The mode tags of a tile (R75, R233). -/
inductive Tag where
  | x128 | k32 | c32k
  deriving DecidableEq, Repr

/-- A tile register (R75, R105, R233): cells by 32 row + column.  Tag and openness stand as of the last accepted operation; `open_` is the number
of sources a `topen` expects with its operation's name (R248), `added` the sources already added.  `lastOp` names the last accepted matrix
operation and `lastWrites` says whether it writes the tile, `tws` lists the tile writes since then by name, first cell and count, `undef` marks
the cells that unordered accesses left undefined (R246). -/
structure Tile where
  n      : Nat
  tag    : Tag := .x128
  nar    : Bool := false
  cells  : Sparse 128 := []
  open_  : Option (Nat × Nat) := none
  added  : List Nat := []
  lastOp : Nat := 0
  lastWrites : Bool := false
  tws    : List (Nat × Nat × Nat) := []
  undef  : BitVec 1024 := 0
  deriving DecidableEq, Repr

/-- A matrix operation that the engine has accepted and not completed (R244, R245): its name, its group and issuer, its kind (`form`), its
modifier, the tag that its tiles have for it, the tiles it names, its references with the drafts they name, the targets of a `tdadd` by `%gid` (R248), the
k-blocks it has completed, for a `tdrain` the next cell, the bytes it has written, the member's offsets (R238), its outstanding record or 0, the page that
pauses it, the bytes of the line under way that it has written, a bit each, the bytes of memory that have changed since the issue of an
operation of a weft, as they stood then (R318), and whether it has met a fault that its trap is still to report (R423). -/
structure TileOp where
  n      : Nat
  g      : Nat
  w      : Nat
  pc     : Word := 0
  form   : Form
  mod    : BitVec 6 := 0
  tag    : Tag := .x128
  tiles  : List Nat := []
  refA   : DWord := 0
  refB   : DWord := 0
  draftA : Option (List Byte) := none
  draftB : Option (List Byte) := none
  word   : Word := 0
  targets : List Nat := []
  src    : Nat := 0
  kblk   : Nat := 0
  cell   : Nat := 0
  bytes  : Nat := 0
  out    : Nat := 0
  rowOff : Nat := 0
  colOff : Nat := 0
  pause  : Option Nat := none
  cover  : Nat × Nat := (0, 0)
  kept   : List (Nat × Byte) := []
  failed : Bool := false
  deriving DecidableEq, Repr

/-- A treadle (R236, R238): the issuing weft stands in `weft`; lcK and ringK; the operations of each batch as last fenced; the operations issued
since the last `tfence`; the stop that a `tstop` asked for. -/
structure Treadle where
  running : Bool := false
  weft    : Weft := { wid := 32 }
  lc      : Sparse 8 := []
  ring    : Sparse 8 := []
  batches : List (Nat × List Nat) := []
  unfenced : List Nat := []
  stopping : Bool := false
  deriving DecidableEq, Repr

/-- A command of a group's ring that has been read and has not ended (R219 to R222): its sequence number, its 32 bytes, the draft bytes it read
at its start, the box and element it has come to, the bytes written at its destination, the bobbin it holds, an overrun of the box under way, the
page it waits for, the granules it has raised, the bytes of the line under way that it has written, a bit each, the partner of a PERMX (its group and
sequence number), whether a cancellation has read it from a ring that is not watched, and the status it will end with. -/
structure Command where
  seq    : Word
  bytes  : List Byte
  started : Bool := false
  cancel : Bool := false
  draft  : List Byte := []
  draft2 : List Byte := []
  box    : Nat := 0
  elem   : Nat := 0
  done   : Nat := 0
  bob    : Option Nat := none
  excess : Bool := false
  pause  : Option Nat := none
  counted : List Nat := []
  cover  : Nat × Nat := (0, 0)
  paired : Option (Nat × Word) := none
  quiet  : Bool := false
  status : Option Nat := none
  deriving DecidableEq, Repr

/-- Where a group is in its life (R106, R408 to R410). -/
inductive Life where
  | placed | saving | saved
  deriving DecidableEq, Repr

/-- A placed or saved group (R99 to R107).  `core` is 64 die + 8 cluster + core (R196), `unit` the cluster group and `grid` the COSCHED grid it belongs to,
`copy` marks the shuttle work of a COPY node, which is no resident group,
`grans` the core granules of its scratchpad window in order, `ntiles` the number of tile registers, `q` its reservation (R110), `cpw` the sequence numbers whose `cmdw` holds a CP unit, with the weft (R129, R228),
`kept` the window's bytes of a saved group. -/
structure Group where
  uid    : Nat
  dev    : Nat
  core   : Nat
  ctx    : Nat
  rid    : Nat
  node   : Nat
  gid    : Nat := 0
  ngroups : Nat := 0
  nrec   : Nat := 0
  recseq : Nat := 0
  batch  : Option Nat := none
  rival  : Option Nat := none
  unit   : Option Nat := none
  grid   : Option Nat := none
  copy   : Bool := false
  member : Nat := 0
  age    : Nat := 0
  placedAt : Nat := 0
  relaunched : Nat := 0
  life   : Life := .placed
  grans  : List Nat := []
  q      : Nat := 0
  ntiles : Nat := 0
  ringcfg : Word := 0
  tdfail : Bool := false
  head   : Nat := 0
  ringDead : Bool := false
  ringUsed : Bool := false
  cpw    : List (Word × Nat) := []
  wefts  : List Weft := []
  tiles  : List Tile := []
  bars   : List Barrier := []
  bobs   : List Bobbin := []
  cmds   : List Command := []
  trd    : Treadle := {}
  pend   : Option TrapInfo := none
  slot   : Option Nat := none
  kept   : List Byte := []
  deriving DecidableEq, Repr

/-- A cluster group or a COSCHED grid (R101, R286, R290, R291): its members in order, the wefts of members that have retired, which count as
arrived (R287), its barriers, its treadle. -/
structure Party where
  uid     : Nat
  members : List Nat := []
  gone    : List (Nat × Nat) := []
  cluster : Bool := true
  cbars   : List Barrier := []
  gbar    : Barrier := {}
  trd     : Treadle := {}
  deriving DecidableEq, Repr

/-- A delivery of `tdadd` on its way (R248): its operation `op`, the issuer, the source index, the target by `%gid` in its grid, the target tile,
the sent cells with their tag and NAR, the cycle of its arrival, and whether its target has been killed (R429). -/
structure Delivery where
  n      : Nat
  op     : TileOp
  tgid   : Nat
  grid   : Nat × Nat
  tile   : Nat
  nar    : Bool
  cells  : Sparse 128
  arrived : Option Nat := none
  lost   : Bool := false
  deriving DecidableEq, Repr

/-! ## Regions -/

/-- One record of a bin, with its arrival number; one that the dobby has no place for stands in the spill area at `slot` (R92). -/
structure Rec where
  seq  : Nat
  data : List Byte
  slot : Option Nat := none
  deriving DecidableEq, Repr

/-- A closed batch (R93), the cycle it closed, and whether a group runs it. -/
structure Batch where
  no    : Nat
  recs  : List Rec
  at_   : Nat := 0
  taken : Bool := false
  kept  : Bool := false
  deriving DecidableEq, Repr

/-- A node of a region as the dobby holds it (R83, R88, R89, R93). -/
structure Node where
  idx     : Nat
  kind    : Nat := 0
  held    : Bool := false
  st      : Nat := 0
  pending : Nat := 0
  succs   : List Nat := []
  len     : Nat := 0
  slot    : Nat := 0
  cluster : Nat := 0
  wefts   : Nat := 0
  entry   : DWord := 0
  params  : DWord := 0
  gspad   : Nat := 0
  gtiles  : Nat := 0
  gxblk   : Nat := 0
  recsz   : Nat := 0
  coal    : Nat := 0
  timer   : Nat := 0
  spillkib : Nat := 0
  spill   : DWord := 0
  readyAt : Nat := 0
  failed  : Bool := false
  isRival : Bool := false
  open_   : List Rec := []
  expiry  : Option Nat := none
  closed  : List Batch := []
  nbatch  : Nat := 0
  nrec    : Nat := 0
  inFlight : Nat := 0
  deriving DecidableEq, Repr

/-- A group that waits for placement in its dobby's queue (R99), with the core that the dobby has chosen for it, if it has (R102). -/
structure Waiting where
  node   : Nat
  gid    : Nat
  age    : Nat
  rival  : Option Nat := none
  batch  : Option Nat := none
  tries  : Nat := 0
  saved  : Option Nat := none
  chosen : Option Nat := none
  deriving DecidableEq, Repr

/-- A region that the dobby walks (R80, R81, R86, R91).  `seen` says that its RCB has been read; `up`, `child` and `sibling` are the RCB's PARENT,
CHILD and SIBLING, `nnodes` its NNODES; `retry` says that a `replay` retries its start (R404). -/
structure Region where
  rid    : Nat
  dev    : Nat
  rcb    : DWord
  ctx    : Nat
  seen   : Bool := false
  up     : DWord := 0
  child  : DWord := 0
  sibling : DWord := 0
  nnodes : Nat := 0
  parent : Option (Nat × Nat) := none
  die    : Nat := 0
  depth  : Nat := 0
  st     : Nat := 0
  killed : Bool := false
  prio   : Nat := 0
  policy : Nat := 0
  cores  : Nat := 0
  spad   : Nat := 0
  xblocks : Nat := 0
  tiles  : Nat := 0
  share  : Nat := 0
  counting : Bool := false
  det    : Bool := false
  idem   : Bool := false
  beam   : Bool := false
  cosched : Bool := false
  elastic : Bool := false
  adjtmo : Nat := 0
  nodesAt : DWord := 0
  nslots : Nat := 0
  cslots : DWord := 0
  faultbuf : DWord := 0
  save   : DWord := 0
  nfault : Nat := 0
  queue  : List Waiting := []
  nodes  : List Node := []
  pause  : Option Nat := none
  retry  : Bool := false
  deriving DecidableEq, Repr

/-- A rival of a tournament scope (R376 to R384). -/
structure Rival where
  idx    : Nat
  node   : Nat := 0
  st     : Nat := 0
  fin    : Nat := 0
  kbytes : Nat := 0
  score  : Option DWord := none
  count  : Nat := 0
  allow  : Nat := 0
  lastIssue : Nat := 0
  parked : Bool := false
  killed : Bool := false
  deriving DecidableEq, Repr

/-- A tournament scope (R376 to R385, R390). -/
structure Tourn where
  sid    : Nat
  rid    : Nat
  node   : Nat
  addr   : DWord
  st     : Nat := 0
  round  : Nat := 0
  allow  : Nat := 0
  base   : Nat := 0
  winner : Nat := 0
  rivals : List Rival := []
  deriving DecidableEq, Repr

/-! ## Cores, clusters and the Jacquard -/

/-- The issuer of a contribution that waits to be published: its path, its word's PC, the ST units that the thread's access `n` lowers once its
last contribution is published (R129), the threads that the guard selected and those whose access it is, for an mcast the member, and the virtual address
of its access (R395). -/
structure QUser where
  path  : PathRef
  pc    : Word := 0
  units : Nat := 0
  n     : Nat := 0
  out   : Nat := 0
  sel   : Mask := 0
  thr   : Mask := 0
  cast  : Option Nat := none
  ctx   : Nat := 0
  grid  : Nat × Nat := (0, 0)
  va    : DWord := 0
  deriving DecidableEq, Repr

/-- An mcast under way (R271): its outstanding record, its path and word, the ST units it holds, whether all its threads have been sent, the
threads that failed and the members that failed. -/
structure Cast where
  n       : Nat
  path    : PathRef
  pc      : Word
  sel     : Mask
  units   : Nat := 0
  closed  : Bool := false
  failed  : Mask := 0
  members : Word := 0
  deriving DecidableEq, Repr

/-- A release of level 1 or 2 that a line's directory entry records (R310). -/
structure RelRec where
  core  : Nat
  dev   : Nat
  epoch : BitVec 16
  level : Nat
  deriving DecidableEq, Repr

/-- One entry of a core's write queue: a line and its contributions in their order, with the cycle it entered (R276, R312), whose they are and
the releases they carry, the core's epoch as it entered (R310), and whether a release's own write is among them (R299). -/
structure QEntry where
  line  : Nat
  conts : List Contrib := []
  users : List QUser := []
  recs  : List RelRec := []
  epoch : BitVec 16 := 0
  sync  : Bool := false
  at_   : Nat := 0
  deriving DecidableEq, Repr

/-- A pinned code line (R122). -/
structure Pin where
  seg   : DWord
  ctx   : Nat
  line  : Nat
  count : Nat
  deriving DecidableEq, Repr

/-- A lane (R124, R131, R132): the cycle from which it is free, its credits by region, the path it last picked. -/
structure Lane where
  n      : Nat
  free   : Nat := 0
  credit : List (Nat × Int) := []
  ptr    : Option (Nat × Nat × Nat) := none
  deriving DecidableEq, Repr

/-- A core (R98, R114, R122, R276, R310, R418). -/
structure Core where
  dev    : Nat
  n      : Nat
  queue  : List QEntry := []
  epoch  : BitVec 16 := 0
  fenced : Nat := 0
  regq   : List PathRef := []
  spq    : List PathRef := []
  pins   : List Pin := []
  stall  : Option Nat := none
  engAt  : Nat := 0
  ops    : List TileOp := []
  lanes  : List Lane := []
  deriving DecidableEq, Repr

/-- One sample of a Jacquard (R360 to R364).  `phase` is 0 while a stage is formed, 1 while its record is posted or awaited, 2 while the step is
evaluated, 3 while an accepted step's rows are moved, 4 while the host decides (R368), 5 before its INIT entry is read; `elem` is the next
element of the phase, `sum` the exact sum of R363 so far in units of 2^-298 with `bad` 1 for an infinite and 2 for a NaN term, `hn` the next
step size, `steps` the steps attempted, `pause` the page it waits for, `rseq` the arrival number of its record in the bin. -/
structure Sample where
  idx   : Nat
  st    : Nat := 0
  last  : Nat := 0
  out   : Nat := 0
  stage : Nat := 0
  rej   : Nat := 0
  acc   : Nat := 0
  t     : Word := 0
  h     : Word := 0
  norm  : Word := 0
  hn    : Word := 0
  phase : Nat := 5
  elem  : Nat := 0
  sum   : Nat := 0
  bad   : Nat := 0
  steps : Word := 0
  pause : Option Nat := none
  rseq  : Nat := 0
  deriving DecidableEq, Repr

/-- A cluster: its instruction-cache pins (R122) and its Jacquard (R355 to R369): whether a run is live, its tag, the pattern's address and bytes,
its context, the JACQ node that owns it and its region, the start that holds it reserved (a node's, or a path's `jqstart`) with the page that
pauses it, and the samples. -/
structure Cluster where
  dev     : Nat
  n       : Nat
  pins    : List Pin := []
  jqLive  : Bool := false
  jqTag   : Nat := 0
  jqPat   : DWord := 0
  jqCtx   : Nat := 0
  jqOwner : Option (Nat × Nat) := none
  jqRid   : Nat := 0
  jqWait  : Bool := false
  jqPath  : Option PathRef := none
  jqPause : Option Nat := none
  jqBuf   : List Byte := []
  samples : List Sample := []
  deriving DecidableEq, Repr

/-! ## Coherence, translation, the fabric -/

/-- A holder's partial of one element of an Accrue line, by the element's byte offset (R322, R329): the element's bits, or the 192-bit N with
its three marks. -/
structure Partial where
  off   : Nat
  v     : Nat := 0
  nan   : Bool := false
  pinf  : Bool := false
  ninf  : Bool := false
  deriving DecidableEq, Repr

/-- The partials of one holder position of a line (R323): `home` says that the holder has evicted its partial to the home (R326), `lost` that an error
has taken it or its request has failed (R327). -/
structure Holder where
  pos   : Nat
  home  : Bool := false
  lost  : Bool := false
  parts : List Partial := []
  deriving DecidableEq, Repr

/-- The states of a line at its home's directory (R310, R322). -/
inductive LineSt where
  | m | o | e | s | i | a
  deriving DecidableEq, Repr

/-- The directory's entry of one 128-byte line, by physical address (R199, R310, R322) (DESIGN CHOICE, assumption log 14). -/
structure Line where
  addr    : Nat
  st      : LineSt := .i
  owner   : Option Nat := none
  sharers : List Nat := []
  op      : MemOp := .addI32
  det     : Bool := false
  holders : List Holder := []
  merging : Option Nat := none
  replies : List Nat := []
  recs    : List RelRec := []
  stat    : List (Nat × Nat × BitVec 2) := []
  deriving DecidableEq, Repr

/-- One entry of a context's fault buffer (R399, R405). -/
structure FaultEntry where
  page    : Nat
  access  : Nat
  agent   : Agent
  reason  : Nat
  waiters : Nat := 1
  read    : Bool := false
  deriving DecidableEq, Repr

/-- A context of a device: the registers that are context state (R407) and its fault buffer (R399). -/
structure Context where
  dev      : Nat
  id       : Nat
  ptbase   : DWord := 0
  dtbase   : DWord := 0
  selbase  : DWord := 0
  twinoff  : DWord := 0
  usebase  : DWord := 0
  adjlo    : DWord := 0
  adjhi    : DWord := 0
  svcbase  : DWord := 0
  dbgen    : Bool := false
  accstat  : BitVec 2 := 0
  twinstat : Bool := false
  twinxa   : DWord := 0
  dropped  : Bool := false
  faults   : List FaultEntry := []
  deriving DecidableEq, Repr

/-- A link of a device (R261, R265, R435): its width (0 full, 1 half, 2 quarter), whether it is up, the cycle by which a retraining ends,
whether a failed lane holds it for the host, the sequence number last received and the one last acknowledged, the flits not yet acknowledged, the
payload of the message that is arriving (R262), the replays asked of it, its command word. -/
structure Link where
  n       : Nat
  width   : Nat := 0
  up      : Bool := true
  retrain : Option Nat := none
  waits   : Bool := false
  lrx     : BitVec 16 := 0
  lack    : BitVec 16 := 0
  replay  : List (List Byte) := []
  rx      : List Byte := []
  tries   : Nat := 0
  cmd     : DWord := 0
  deriving DecidableEq, Repr

/-- A device (R431 to R440).  `id` names it in the domain; it takes the value of DEVID (`devid`, which `named` says has been written) when the fabric is trained.  `bootAt` is the
cycle of its reset (R202), `vendor` the vendor key and `fused` its fused digest, `identity` the secret of the identity key (R437, R438) (DESIGN CHOICE, assumption log 5). -/
structure Device where
  id       : Nat
  devid    : Nat := 0
  named    : Bool := false
  bootAt   : Nat := 0
  st       : Nat := 0
  rwbase   : DWord := 0
  accspill : DWord := 0
  accmib   : Word := 0
  rten     : Bool := false
  root     : Sparse 64 := []
  mode     : Sparse 64 := []
  draftq   : Sparse 8 := []
  err      : Sparse 32 := []
  attest   : Sparse 8 := []
  links    : List Link := []
  l2gen    : BitVec 16 := 0
  l2floor  : BitVec 16 := 0
  mhz      : Nat := 1100
  gen      : Option HostGen := none
  primary  : List Byte := []
  second   : List Byte := []
  vendor   : List Byte := []
  fused    : List Byte := []
  rollback : Nat := 0
  identity : List Byte := []
  runDigest : List Byte := []
  runVersion : Nat := 0
  deriving DecidableEq, Repr

/-- A request whose response has not come (R263, R264), with the releases that its contributions carry, the epoch of the core as they entered its queue
(R310), the links of its route (R259), the narrowest width that its timeout has met (R265), and whether a release's own write is among its contributions
(R299). -/
structure Req where
  msg   : Msg
  kind  : Nat := 0
  at_   : Nat := 0
  tries : Nat := 1
  bad   : Nat := 0
  applied : Bool := false
  users : List QUser := []
  recs  : List RelRec := []
  epoch : BitVec 16 := 0
  route : List (Nat × Nat) := []
  width : Nat := 0
  sync  : Bool := false
  deriving DecidableEq, Repr

/-- A page without a translation that an access of a dobby has met, with the code of the access and the reason (R398, R399).  A step that has met
one is taken back (assumption log 12). -/
structure DFault where
  dev    : Nat
  ctx    : Nat
  va     : DWord
  access : Nat
  reason : Nat
  deriving DecidableEq, Repr

/-- A page for which a dobby waits until a `replay`, with the move that has met it: an event, a path, or the numbers of another (R399, R404). -/
structure DStall where
  dev  : Nat
  ctx  : Nat
  page : Nat
  act  : Option Instr := none
  path : Option PathRef := none
  spot : List Nat := []
  deriving DecidableEq, Repr

/-! ## The machine -/

/-- The state of a domain of devices.  `storing` names the thread's access whose contributions are being made.  `sched`, `rr`, `inputs`, `agenda`, `issuer`, `tick`, `uid` are the model's own (assumption log 2, 3). -/
structure State where
  clk     : Nat := 0
  sched   : List Nat := []
  rr      : Nat := 0
  inputs  : List Instr := []
  agenda  : List (Nat × Instr) := []
  issuer  : Option PathRef := none
  tick    : Nat := 0
  uid     : Nat := 1
  mem     : List Host.Cell := []
  poison  : List Nat := []
  devs    : List Device := []
  ctxs    : List Context := []
  tlb     : List Tlb := []
  lines   : List Line := []
  cores   : List Core := []
  clusters : List Cluster := []
  regions : List Region := []
  tourns  : List Tourn := []
  units   : List Party := []
  groups  : List Group := []
  deliveries : List Delivery := []
  reqs    : List Req := []
  casts   : List Cast := []
  done    : List (Msg × List Byte) := []
  mseq    : List (Nat × Nat × Nat × Word) := []
  msix    : List (Nat × Nat) := []
  dfault  : Option DFault := none
  dstalls : List DStall := []
  storing : Option Nat := none
  deriving DecidableEq, Repr

/-- The machine right after reset: one device in RESET (R433, R439), no context, no group, no work, memory with nothing listed (DESIGN CHOICE, assumption log 66). -/
def State.reset : State := { devs := [{ id := 0 }] }

end Sys2Proof.Machine
end

