-- ==== Sys2Proof/Machine/Access.lean ====
section
/-! DEFINITION. Sys2Proof/Machine/Access.lean: reading and replacing the parts of the state by their names. -/

namespace Sys2Proof.Machine

/-- The list with the elements that satisfy `p` changed. -/
def modIf {α : Type} (p : α → Bool) (f : α → α) : List α → List α
  | [] => []
  | x :: xs => (if p x then f x else x) :: modIf p f xs

/-- The list with the first element that satisfies `p` changed, or with a changed new one at its end. -/
def upsert {α : Type} (p : α → Bool) (new : α) (f : α → α) : List α → List α
  | [] => [f new]
  | x :: xs => if p x then f x :: xs else x :: upsert p new f xs

/-- The element of a list changed. -/
def modAt {α : Type} (f : α → α) : Nat → List α → List α
  | _, [] => []
  | 0, x :: xs => f x :: xs
  | n + 1, x :: xs => x :: modAt f n xs

/-! ## Groups, wefts, paths -/

/-- The group of a name. -/
def State.group? (s : State) (g : Nat) : Option Group := s.groups.find? fun x => x.uid == g
/-- The state with one group changed. -/
def State.modGroup (s : State) (g : Nat) (f : Group → Group) : State := { s with groups := modIf (fun x => x.uid == g) f s.groups }
/-- The cluster group or COSCHED grid of a name. -/
def State.party? (s : State) (u : Nat) : Option Party := s.units.find? fun x => x.uid == u
/-- The state with one cluster group or grid changed. -/
def State.modParty (s : State) (u : Nat) (f : Party → Party) : State := { s with units := modIf (fun x => x.uid == u) f s.units }

/-- The wid that stands for a group's treadle. -/
def treadleWid : Nat := 32
/-- The wid that stands for a cluster treadle. -/
def clusterWid : Nat := 33

/-- A weft of a group, or the treadle that issues as one (R236, R238). -/
def State.weft? (s : State) (g w : Nat) : Option Weft :=
  match s.group? g with
  | none => none
  | some G =>
    if w == treadleWid then some G.trd.weft
    else if w == clusterWid then
      match G.unit with
      | none => none
      | some u => match s.party? u with | none => none | some P => some P.trd.weft
    else G.wefts.find? fun x => x.wid == w

/-- The state with one weft changed. -/
def State.modWeft (s : State) (g w : Nat) (f : Weft → Weft) : State :=
  if w == treadleWid then s.modGroup g fun G => { G with trd := { G.trd with weft := f G.trd.weft } }
  else if w == clusterWid then
    match s.group? g with
    | none => s
    | some G => match G.unit with
      | none => s
      | some u => s.modParty u fun P => { P with trd := { P.trd with weft := f P.trd.weft } }
  else s.modGroup g fun G => { G with wefts := modIf (fun x => x.wid == w) f G.wefts }

/-- The path of a weft that holds a thread. -/
def Weft.path? (wf : Weft) (t : Nat) : Option Path := wf.paths.find? fun p => p.mask.getLsbD t
/-- The weft with the path of a thread changed. -/
def Weft.modPath (wf : Weft) (t : Nat) (f : Path → Path) : Weft := { wf with paths := modIf (fun p => p.mask.getLsbD t) f wf.paths }
/-- An instruction that its path has gone past, as a path held at it (R302).  A path reference names it by 16 and the name of its record. -/
def Late.view (l : Late) : Path := { l.path with hold := some l.hold }
/-- The instruction of that name that a path has gone past. -/
def Weft.late? (wf : Weft) (t : Nat) : Option Late := wf.late.find? fun l => 16 + l.n == t
/-- The weft with such an instruction changed; one that is held no more has ended its issue. -/
def Weft.modLate (wf : Weft) (t : Nat) (f : Path → Path) : Weft :=
  { wf with late := wf.late.filterMap fun l =>
      if 16 + l.n == t then (f l.view).hold.map fun h => { l with path := f l.view, hold := h } else some l }
/-- The weft with what a path reference names changed. -/
def Weft.modRef (wf : Weft) (t : Nat) (f : Path → Path) : Weft := if t < 16 then wf.modPath t f else wf.modLate t f
/-- The state with one path changed. -/
def State.modPath (s : State) (g w t : Nat) (f : Path → Path) : State := s.modWeft g w fun wf => wf.modPath t f

/-- The treadle a wid names. -/
def State.treadle? (s : State) (g w : Nat) : Option Treadle :=
  match s.group? g with
  | none => none
  | some G =>
    if w == clusterWid then
      match G.unit with
      | none => none
      | some u => match s.party? u with | none => none | some P => some P.trd
    else some G.trd

/-- The state with one treadle changed. -/
def State.modTreadle (s : State) (g w : Nat) (f : Treadle → Treadle) : State :=
  if w == clusterWid then
    match s.group? g with
    | none => s
    | some G => match G.unit with
      | none => s
      | some u => s.modParty u fun P => { P with trd := f P.trd }
  else s.modGroup g fun G => { G with trd := f G.trd }

/-! ## Devices, contexts, cores, clusters, regions -/

/-- A device; one that is not in the domain reads as a device in RESET. -/
def State.dev (s : State) (d : Nat) : Device := (s.devs.find? fun x => x.id == d).getD { id := d }
/-- Whether the domain has the device (R196). -/
def State.hasDev (s : State) (d : Nat) : Bool := s.devs.any fun x => x.id == d
/-- The state with one device changed. -/
def State.modDev (s : State) (d : Nat) (f : Device → Device) : State := { s with devs := modIf (fun x => x.id == d) f s.devs }
/-- The cycles since a device's reset (R48, R202). -/
def State.devClk (s : State) (d : Nat) : Nat := s.clk - (s.dev d).bootAt
/-- A context of a device (R192); one that nothing has used holds its reset values. -/
def State.ctx (s : State) (d c : Nat) : Context := (s.ctxs.find? fun x => x.dev == d && x.id == c).getD { dev := d, id := c }
/-- The state with one context changed. -/
def State.modCtx (s : State) (d c : Nat) (f : Context → Context) : State :=
  { s with ctxs := upsert (fun x => x.dev == d && x.id == c) { dev := d, id := c } f s.ctxs }
/-- A core of a device. -/
def State.core (s : State) (d c : Nat) : Core := (s.cores.find? fun x => x.dev == d && x.n == c).getD { dev := d, n := c }
/-- The state with one core changed. -/
def State.modCore (s : State) (d c : Nat) (f : Core → Core) : State :=
  { s with cores := upsert (fun x => x.dev == d && x.n == c) { dev := d, n := c } f s.cores }
/-- A cluster of a device, numbered 8 die + cluster. -/
def State.cluster (s : State) (d c : Nat) : Cluster := (s.clusters.find? fun x => x.dev == d && x.n == c).getD { dev := d, n := c }
/-- The state with one cluster changed. -/
def State.modCluster (s : State) (d c : Nat) (f : Cluster → Cluster) : State :=
  { s with clusters := upsert (fun x => x.dev == d && x.n == c) { dev := d, n := c } f s.clusters }
/-- A lane of a core. -/
def Core.lane (c : Core) (l : Nat) : Lane := (c.lanes.find? fun x => x.n == l).getD { n := l }
/-- The core with one lane changed. -/
def Core.modLane (c : Core) (l : Nat) (f : Lane → Lane) : Core := { c with lanes := upsert (fun x => x.n == l) { n := l } f c.lanes }
/-- A walked region. -/
def State.region? (s : State) (r : Nat) : Option Region := s.regions.find? fun x => x.rid == r
/-- The state with one region changed. -/
def State.modRegion (s : State) (r : Nat) (f : Region → Region) : State := { s with regions := modIf (fun x => x.rid == r) f s.regions }
/-- A node of a region. -/
def Region.node? (R : Region) (n : Nat) : Option Node := R.nodes.find? fun x => x.idx == n
/-- A node of the state. -/
def State.node? (s : State) (r n : Nat) : Option Node := match s.region? r with | none => none | some R => R.node? n
/-- The state with one node changed. -/
def State.modNode (s : State) (r n : Nat) (f : Node → Node) : State :=
  s.modRegion r fun R => { R with nodes := modIf (fun x => x.idx == n) f R.nodes }
/-- A tournament scope. -/
def State.tourn? (s : State) (t : Nat) : Option Tourn := s.tourns.find? fun x => x.sid == t
/-- The state with one tournament scope changed. -/
def State.modTourn (s : State) (t : Nat) (f : Tourn → Tourn) : State := { s with tourns := modIf (fun x => x.sid == t) f s.tourns }
/-- The directory's entry of a line. -/
def State.line (s : State) (a : Nat) : Line := (s.lines.find? fun x => x.addr == a).getD { addr := a }
/-- The state with one directory entry changed. -/
def State.modLine (s : State) (a : Nat) (f : Line → Line) : State := { s with lines := upsert (fun x => x.addr == a) { addr := a } f s.lines }

/-! ## Names, the agenda and free choices -/

/-- A fresh name. -/
def State.fresh (s : State) : Nat × State := (s.uid, { s with uid := s.uid + 1 })
/-- An internal step that is due at a cycle. -/
def State.later (s : State) (due : Nat) (i : Instr) : State := { s with agenda := s.agenda ++ [(due, i)] }
/-- The state with the counter behind the free values advanced (DESIGN CHOICE, assumption log 3). -/
def State.ticked (s : State) : State := { s with tick := s.tick + 1 }

/-! ## Sets of threads -/

/-- The threads of a mask, ascending. -/
def threadsOf (m : Mask) : List Nat := (List.range 16).filter fun t => m.getLsbD t
/-- The mask of one thread. -/
def bitMask (t : Nat) : Mask := BitVec.ofNat 16 (2 ^ t)
/-- The mask of a list of threads. -/
def maskOf (ts : List Nat) : Mask := ts.foldl (fun m t => m ||| bitMask t) 0
/-- The lowest thread of a mask, 16 if it is empty. -/
def lowThread (m : Mask) : Nat := (threadsOf m).headD 16

/-! ## Bytes and words -/

/-- The number that little-endian bytes spell (R5). -/
def leNat : List Byte → Nat
  | [] => 0
  | b :: bs => b.toNat + 256 * leNat bs
/-- The `n` little-endian bytes of a number (R5). -/
def leBytes : Nat → Nat → List Byte
  | 0, _ => []
  | n + 1, x => BitVec.ofNat 8 x :: leBytes n (x / 256)
/-- Bits hi:lo of a number. -/
def bitsOf (x hi lo : Nat) : Nat := x / 2 ^ lo % 2 ^ (hi + 1 - lo)
/-- The low and the high register of a 64-bit value. -/
def loWord (x : DWord) : Word := x.extractLsb' 0 32
/-- The high register of a 64-bit value. -/
def hiWord (x : DWord) : Word := x.extractLsb' 32 32
/-- The 64-bit value of a register pair (R46). -/
def pairOf (lo hi : Word) : DWord := hi ++ lo

end Sys2Proof.Machine
end

