-- ==== Sys2Proof/Machine/Float.lean ====
section
/-! DEFINITION. Sys2Proof/Machine/Float.lean: floating-point values as exact dyadic numbers, and one rounding of an exact value into a
format (R58 to R64, R168 to R171). -/

namespace Sys2Proof

/-- An IEEE format (R61): the widths of its exponent and fraction fields. -/
structure Fmt where
  eb : Nat
  mb : Nat
  deriving DecidableEq, Repr

/-- FP32 (R61). -/
def Fmt.f32 : Fmt := ⟨8, 23⟩
/-- FP16 (R61). -/
def Fmt.f16 : Fmt := ⟨5, 10⟩
/-- BF16 (R61). -/
def Fmt.bf16 : Fmt := ⟨8, 7⟩

/-- The exponent bias. -/
def Fmt.bias (f : Fmt) : Nat := 2 ^ (f.eb - 1) - 1
/-- The bits of +Inf. -/
def Fmt.infBits (f : Fmt) : Nat := (2 ^ f.eb - 1) * 2 ^ f.mb
/-- The bits of the canonical NaN (R61). -/
def Fmt.nanBits (f : Fmt) : Nat := f.infBits + 2 ^ (f.mb - 1)
/-- The sign bit's weight. -/
def Fmt.signBit (f : Fmt) : Nat := 2 ^ (f.eb + f.mb)
/-- The exponent of the least subnormal. -/
def Fmt.qmin (f : Fmt) : Int := 1 - f.bias - f.mb

/-- A floating value: NaN, an infinity, a signed zero, or (-1)^neg m 2^e with m > 0. -/
inductive Num where
  | nan
  | inf (neg : Bool)
  | zero (neg : Bool)
  | fin (neg : Bool) (m : Nat) (e : Int)
  deriving DecidableEq, Repr

/-- The value of a bit pattern; with `.ftz` a subnormal reads as zero of its sign (R63). -/
def Fmt.decode (f : Fmt) (ftz : Bool) (x : Nat) : Num :=
  let neg := x / f.signBit % 2 == 1
  let ex := x / 2 ^ f.mb % 2 ^ f.eb
  let fr := x % 2 ^ f.mb
  if ex == 2 ^ f.eb - 1 then (if fr == 0 then .inf neg else .nan)
  else if ex == 0 then (if fr == 0 || ftz then .zero neg else .fin neg fr f.qmin)
  else .fin neg (fr + 2 ^ f.mb) (f.qmin + (ex - 1 : Nat))

/-- The sign bit in place. -/
def Fmt.withSign (f : Fmt) (neg : Bool) (x : Nat) : Nat := if neg then x + f.signBit else x

/-- Whether a magnitude that lies between two neighbours goes to the larger one: `odd` is the smaller one's last bit, `half` compares the
distance above it with half a step (R58). -/
def roundsUp (rm : Rounding) (neg odd : Bool) (half : Ordering) (exact : Bool) : Bool :=
  match rm with
  | .rn => match half with | .gt => true | .lt => false | .eq => odd
  | .rz => false
  | .rd => neg && !exact
  | .ru => !neg && !exact

/-- The magnitude (m + fraction) 2^e, the fraction below 1 and nonzero when `sticky`, cut to a multiple of 2^q and rounded. -/
def roundAt (rm : Rounding) (neg : Bool) (m : Nat) (e q : Int) (sticky : Bool) : Nat :=
  if q ≤ e then
    let k := m * 2 ^ (e - q).toNat
    if roundsUp rm neg (k % 2 == 1) .lt (!sticky) then k + 1 else k
  else
    let sh := (q - e).toNat
    if sh > m.log2 + 2 then (if roundsUp rm neg false .lt false then 1 else 0)
    else
      let k := m >>> sh
      let rem := m - k * 2 ^ sh
      let half := compare (2 * rem) (2 ^ sh)
      let half := if half == .eq && sticky then .gt else half
      if roundsUp rm neg (k % 2 == 1) half (rem == 0 && !sticky) then k + 1 else k

/-- The result of an overflow (R58). -/
def Fmt.overflow (f : Fmt) (rm : Rounding) (neg : Bool) : Nat :=
  let toInf := match rm with | .rn => true | .rz => false | .rd => neg | .ru => !neg
  f.withSign neg (if toInf then f.infBits else f.infBits - 1)

/-- A nonzero magnitude rounded once into the format, with `.ftz` applied to the result (R58, R63). -/
def Fmt.round (f : Fmt) (rm : Rounding) (ftz neg : Bool) (m : Nat) (e : Int) (sticky : Bool) : Nat :=
  let lead := e + m.log2
  let emin : Int := f.qmin + f.mb
  if lead > f.bias then f.overflow rm neg
  else
    let q := max (lead - f.mb) f.qmin
    let k := roundAt rm neg m e q sticky
    let bits := k + (q - f.qmin).toNat * 2 ^ f.mb
    let tiny := lead < emin &&
      (lead < emin - 1 || roundAt rm neg m e (lead - f.mb) sticky < 2 ^ (f.mb + 1))
    if ftz && tiny then f.withSign neg 0
    else if f.infBits ≤ bits then f.overflow rm neg
    else f.withSign neg bits

/-- A value rounded once into the format; NaN is canonical (R62). -/
def Fmt.encode (f : Fmt) (rm : Rounding) (ftz : Bool) : Num → Nat
  | .nan => f.nanBits
  | .inf neg => f.withSign neg f.infBits
  | .zero neg => f.withSign neg 0
  | .fin neg m e => f.round rm ftz neg m e false

/-- The negated value. -/
def Num.neg : Num → Num
  | .nan => .nan
  | .inf n => .inf (!n)
  | .zero n => .zero (!n)
  | .fin n m e => .fin (!n) m e

/-- The absolute value. -/
def Num.abs : Num → Num
  | .nan => .nan
  | .inf _ => .inf false
  | .zero _ => .zero false
  | .fin _ m e => .fin false m e

/-- The sign, with NaN positive. -/
def Num.isNeg : Num → Bool
  | .nan => false
  | .inf n => n
  | .zero n => n
  | .fin n _ _ => n

/-- The exact product (R169). -/
def Num.mul : Num → Num → Num
  | .nan, _ | _, .nan => .nan
  | .inf _, .zero _ | .zero _, .inf _ => .nan
  | .inf a, .inf b | .inf a, .fin b _ _ | .fin a _ _, .inf b => .inf (a != b)
  | .zero a, .zero b | .zero a, .fin b _ _ | .fin a _ _, .zero b => .zero (a != b)
  | .fin a m e, .fin b n k => .fin (a != b) (m * n) (e + k)

/-- An integer times a power of two, as a value; zero takes the given sign. -/
def Num.ofInt (n e : Int) (negZero : Bool) : Num :=
  if n == 0 then .zero negZero else .fin (decide (n < 0)) n.natAbs e

/-- The least exponent of the finite terms. -/
def minExp : List Num → Int → Int
  | [], a => a
  | .fin _ _ e :: ts, a => minExp ts (min e a)
  | _ :: ts, a => minExp ts a

/-- The exact sum of the finite terms in units of 2^e0. -/
def sumAt (e0 : Int) : List Num → Int
  | [] => 0
  | .fin n m e :: ts => (if n then -1 else 1) * (m * 2 ^ (e - e0).toNat : Nat) + sumAt e0 ts
  | _ :: ts => sumAt e0 ts

/-- The exact sum of terms, with the sign rules of R169 for a zero and the rule of R171 and R181 for NaN and infinite terms. -/
def Num.sum (rm : Rounding) (ts : List Num) : Num :=
  if ts.any (· == .nan) then .nan
  else if ts.any (· == .inf true) && ts.any (· == .inf false) then .nan
  else if ts.any (· == .inf true) then .inf true
  else if ts.any (· == .inf false) then .inf false
  else
    let e0 := minExp ts (match ts.find? (fun t => match t with | .fin .. => true | _ => false) with | some (.fin _ _ e) => e | _ => 0)
    let n := sumAt e0 ts
    if n != 0 then Num.ofInt n e0 false
    else if ts.all (· == .zero true) then .zero true
    else if ts.all (· == .zero false) then .zero false
    else .zero (rm == .rd)

/-- The order of two values that are not NaN, zeros equal. -/
def Num.cmp : Num → Num → Ordering
  | a, b =>
    match Num.sum .rn [a, b.neg] with
    | .zero _ => .eq
    | .inf n => if n then .lt else .gt
    | .fin n _ _ => if n then .lt else .gt
    | .nan => .eq        -- equal infinities

/-- The integer nearest to a finite value in a rounding mode; zero for zero. -/
def Num.toInt (rm : Rounding) : Num → Int
  | .fin n m e => let k : Int := roundAt rm n m e 0 false; if n then -k else k
  | _ => 0

/-! ## FP32 shorthands -/

/-- The value of FP32 bits. -/
def f32v (x : Word) : Num := Fmt.f32.decode false x.toNat

/-- A value rounded into FP32 without flushing. -/
def toF32 (rm : Rounding) (x : Num) : Word := BitVec.ofNat 32 (Fmt.f32.encode rm false x)

/-- RN(a + b) in FP32 (R58). -/
def fadd32 (a b : Word) : Word := toF32 .rn (Num.sum .rn [f32v a, f32v b])

/-- RN(a - b) in FP32. -/
def fsub32 (a b : Word) : Word := toF32 .rn (Num.sum .rn [f32v a, (f32v b).neg])

/-- FP32 bits that are neither an infinity nor a NaN. -/
def finiteF32 (x : Word) : Bool := match f32v x with | .nan | .inf _ => false | _ => true

/-- TwoSum (R60). -/
def twoSum (a b : Word) : Word × Word :=
  let s := fadd32 a b
  let a1 := fsub32 s b
  let b1 := fsub32 s a1
  (s, fadd32 (fsub32 a a1) (fsub32 b b1))

/-- FastTwoSum (R60). -/
def fastTwoSum (a b : Word) : Word × Word :=
  let s := fadd32 a b
  if !finiteF32 s then (s, 0) else (s, fsub32 b (fsub32 s a))

/-- DWADD (R77). -/
def dwAdd (x g : Word × Word) : Word × Word :=
  if !(finiteF32 x.1 && finiteF32 g.1) then (fadd32 x.1 g.1, 0)
  else
    let (s, e) := twoSum x.1 g.1
    if !finiteF32 s then (s, 0) else fastTwoSum s (fadd32 e (fadd32 x.2 g.2))

/-- The group step of R77: the products of a group, reduced to (gh, gl). -/
def groupSum (ps : List Num) : Word × Word :=
  match Num.sum .rn ps with
  | .zero _ => (0, 0)
  | g =>
    let gh := toF32 .rn g
    (gh, if finiteF32 gh then toF32 .rn (Num.sum .rn [g, (f32v gh).neg]) else 0)

end Sys2Proof
end

