-- ==== Sys2Proof/Machine/Formats.lean ====
section
/-! DEFINITION. Sys2Proof/Machine/Formats.lean: the tapered formats T8 and T6, block scales, decoded and encoded elements of pages, and
the cells of tile registers (R65 to R77, R175 to R178). -/

namespace Sys2Proof

/-- The length of the run of bits equal to `bit` from position `k - 1` downward. -/
def runLength (m : Nat) (bit : Bool) : Nat → Nat
  | 0 => 0
  | k + 1 => if m.testBit k == bit then 1 + runLength m bit k else 0

/-- A nonzero tapered magnitude of `w` bits as an integer and a power of two (R65, R66). -/
def taper (w : Nat) (ebit : Bool) (m : Nat) : Nat × Int :=
  let bit := m.testBit (w - 1)
  let l := runLength m bit w
  let left := w - l - 1                         -- bits after the terminator, none if there is no terminator
  let r : Int := if bit then (l : Int) - 1 else -(l : Int)
  let useE := ebit && 0 < left
  let e : Int := if useE && m.testBit (left - 1) then 1 else 0
  let nf := if useE then left - 1 else left
  (2 ^ nf + m % 2 ^ nf, (if ebit then 2 * r + e else r) - nf)

/-- T8VALUE (R65): none is NaR, zero is (0, 0). -/
def t8Value (b : Nat) : Num :=
  let m := b % 128
  let neg := 128 ≤ b % 256
  if m == 0 then (if neg then .nan else .zero false)
  else let (n, e) := taper 7 true m; .fin neg n e

/-- T6VALUE (R66); bits 7:6 are ignored. -/
def t6Value (b : Nat) : Num :=
  let m := b % 32
  let neg := 32 ≤ b % 64
  if m == 0 then (if neg then .nan else .zero false)
  else let (n, e) := taper 5 false m; .fin neg n e

/-- m 2^e in units of 2^-200, for the magnitudes compared here. -/
def unit200 (m : Nat) (e : Int) : Nat := m * 2 ^ (e + 200).toNat

/-- The code of the nearest magnitude among the codes from `c` upward, on a tie the even code (R67). -/
def nearestCode (val : Nat → Nat) (x : Nat) : Nat → Nat → Nat
  | 0, c => c
  | k + 1, c =>
    let lo := val c
    let hi := val (c + 1)
    if 2 * x < lo + hi || (2 * x == lo + hi && c % 2 == 0) then c else nearestCode val x k (c + 1)

/-- TENC8 and TENC6 (R67) of a value: `w` magnitude bits, `top` the exponent of the largest magnitude. -/
def tencNum (w : Nat) (ebit : Bool) (top : Nat) (x : Num) : Nat :=
  match x with
  | .nan | .inf _ => 2 ^ w
  | .zero _ => 0
  | .fin neg m e =>
    let s := if neg then 2 ^ w else 0
    let v := unit200 m e
    let max := unit200 1 top
    let min := unit200 1 (-top)
    if max < v then s + (2 ^ w - 1)
    else if 2 * v < min then 0
    else if v < min then s + 1
    else s + nearestCode (fun c => let (n, k) := taper w ebit c; unit200 n k) v (2 ^ w - 2) 1

/-- TENC8 of FP32 bits. -/
def tenc8 (x : Word) : Nat := tencNum 7 true 12 (f32v x)
/-- TENC6 of FP32 bits. -/
def tenc6 (x : Word) : Nat := tencNum 5 false 4 (f32v x)

/-- The value of an E8 scale byte, NaN for 0xFF (R69). -/
def e8Value (s : Nat) : Num := if s % 256 == 255 then .nan else .fin false 1 ((s % 256 : Nat) - 127)

/-- The E8 byte of a value (R177). -/
def e8Enc (rm : Rounding) (x : Num) : Nat :=
  match x with
  | .nan | .inf _ => 255
  | .zero _ => 0
  | .fin _ m e =>
    let l := m.log2
    let k := e + l
    let one := m == 2 ^ l
    let j := match rm with
      | .rd | .rz => k
      | .ru => if one then k else k + 1
      | .rn => if 2 * m < 3 * 2 ^ l then k else k + 1
    (max 0 (min 254 (j + 127))).toNat

/-- An integer clamped to a range. -/
def clampInt (lo hi x : Int) : Int := max lo (min hi x)

/-- The element bytes of a page format (R71); raw pages have none. -/
def fmtBytes (fmt : Nat) : Nat :=
  match fmt with
  | 8 | 9 | 10 | 11 => 1
  | 12 | 13 => 2
  | 14 => 4
  | 15 => 8
  | _ => 0

/-- FMT and GEOM are a legal pair (R71). -/
def fmtLegal (fmt : Nat) (geom : Bool) : Bool := (fmt == 0 && !geom) || (8 ≤ fmt && fmt ≤ 11) || (12 ≤ fmt && fmt ≤ 15 && !geom)

/-- A decoded element of an unscaled page as register words, lowest first (R72). -/
def decodeElem (fmt : Nat) (x : Nat) : List Word :=
  match fmt with
  | 8 => [toF32 .rn (t8Value x)]
  | 9 => [toF32 .rn (t6Value x)]
  | 10 => [BitVec.ofInt 32 (BitVec.ofNat 8 x).toInt]
  | 11 => [BitVec.ofNat 32 (x % 256)]
  | 12 => [toF32 .rn (Fmt.f16.decode false (x % 65536))]
  | 13 => [toF32 .rn (Fmt.bf16.decode false (x % 65536))]
  | 15 => [BitVec.ofNat 32 x, BitVec.ofNat 32 (x / 2 ^ 32)]
  | _ => [BitVec.ofNat 32 x]

/-- A decoded element of a scaled page (R72). -/
def decodeScaled (fmt x sc : Nat) : List Word :=
  let v : Num := match fmt with
    | 8 => t8Value x
    | 9 => t6Value x
    | 10 => Num.ofInt (BitVec.ofNat 8 x).toInt 0 false
    | _ => Num.ofInt (x % 256 : Nat) 0 false
  [toF32 .rn (match v, e8Value sc with | .nan, _ | _, .nan => .nan | a, b => a.mul b)]

/-- The value an element encoding stores, from its register words (R73). -/
def encodeElem (fmt : Nat) (ws : List Word) : Nat :=
  let x := ws.headD 0
  match fmt with
  | 8 => tenc8 x
  | 9 => tenc6 x
  | 10 => (BitVec.ofInt 8 (clampInt (-128) 127 x.toInt)).toNat
  | 11 => min 255 x.toNat
  | 12 => Fmt.f16.encode .rn false (f32v x)
  | 13 => Fmt.bf16.encode .rn false (f32v x)
  | 15 => x.toNat + (ws.getD 1 0).toNat * 2 ^ 32
  | _ => x.toNat

/-! ## Tile cells (R75, R76) -/

/-- The value of an X128 cell. -/
def x128Value (c : BitVec 128) : Num := Num.ofInt c.toInt (-48) false

/-- The value of an FP32 number as an X128 integer, rounded and clamped (R176). -/
def x128Of (rm : Rounding) (x : Num) : BitVec 128 :=
  match x with
  | .nan | .zero _ => 0
  | .inf n => if n then BitVec.ofInt 128 (-(2 ^ 127 : Nat)) else BitVec.ofInt 128 ((2 ^ 127 : Nat) - 1)
  | .fin n m e =>
    let k : Int := roundAt rm n m e (-48) false
    BitVec.ofInt 128 (clampInt (-(2 ^ 127 : Nat)) ((2 ^ 127 : Nat) - 1) (if n then -k else k))

/-- The exact sum of the two terms of a K32 cell (R75). -/
def k32Value (rm : Rounding) (hi lo : Word) : Num := Num.sum rm [f32v hi, f32v lo]

/-- Bits 31:0, 63:32, 95:64 and 127:96 of a cell. -/
def cellWord (c : BitVec 128) (k : Nat) : Word := c.extractLsb' (32 * k) 32

/-- A cell from its four words, lowest first. -/
def cellOf (w0 w1 w2 w3 : Word) : BitVec 128 := w3 ++ w2 ++ w1 ++ w0

end Sys2Proof
end

