-- ==== Sys2Proof/Machine/Trans.lean ====
section
/-! DEFINITION. Sys2Proof/Machine/Trans.lean: division, roots and the functions of R180.  Each forms the exact value cut to many bits with a
mark for the rest, and rounds once.  Fixed-point values carry 448 fraction bits; the low 24 are given up to the errors of the series
(assumption log 6). -/

namespace Sys2Proof

/-- The integer square root of `n`, from bit `k - 1` downward, added to `r`. -/
def isqrtFrom (n : Nat) : Nat → Nat → Nat
  | 0, r => r
  | k + 1, r => let r' := r + 2 ^ k; isqrtFrom n k (if r' * r' ≤ n then r' else r)

/-- The integer square root. -/
def isqrt (n : Nat) : Nat := isqrtFrom n (n.log2 / 2 + 1) 0

/-- Fraction bits of the fixed-point values. -/
def fxBits : Nat := 448
/-- One in fixed point. -/
def fxOne : Nat := 2 ^ fxBits
/-- The product of two fixed-point values. -/
def fxMul (a b : Nat) : Nat := (a * b) >>> fxBits

/-- x - x^3/3 + x^5/5 … or, without alternation, x + x^3/3 + …; `p` is the current power of x. -/
def oddSeries (alt : Bool) (xx : Nat) : Nat → Nat → Nat → Int
  | 0, _, _ => 0
  | k + 1, i, p => (p / (2 * i + 1) : Nat) + (if alt then -oddSeries alt xx k (i + 1) (fxMul p xx) else oddSeries alt xx k (i + 1) (fxMul p xx))

/-- The area tangent of t ≤ 1/3. -/
def fxAtanh (t : Nat) : Nat := (oddSeries false (fxMul t t) 150 0 t).toNat
/-- The arc tangent of 1/n for n ≥ 5. -/
def fxAtanInv (n : Nat) : Nat := let t := fxOne / n; (oddSeries true (fxMul t t) 110 0 t).toNat
/-- ln 2. -/
def fxLn2 : Nat := 2 * fxAtanh (fxOne / 3)
/-- The circle constant, by 16 atan(1/5) - 4 atan(1/239). -/
def fxPi : Nat := 16 * fxAtanInv 5 - 4 * fxAtanInv 239

/-- 1 + x + x^2/2 + …; `t` is the current term. -/
def expSeries (x : Nat) : Nat → Nat → Nat → Nat
  | 0, _, _ => 0
  | k + 1, i, t => t + expSeries x k (i + 1) (fxMul t x / (i + 1))
/-- The exponential of x < 1 (DEDUCED, assumption log 6). -/
def fxExp (x : Nat) : Nat := expSeries x 110 0 fxOne

/-- x - x^3/6 + x^5/120 …; `t` is the current term. -/
def sinSeries (xx : Nat) : Nat → Nat → Nat → Int
  | 0, _, _ => 0
  | k + 1, i, t => (t : Int) - sinSeries xx k (i + 2) (fxMul t xx / ((i + 1) * (i + 2)))
/-- The sine of x < 1.6. -/
def fxSin (x : Nat) : Nat := (sinSeries (fxMul x x) 60 1 x).toNat

/-- m 2^e in fixed point, for values below 2^64. -/
def fxOf (m : Nat) (e : Int) : Nat := if 0 ≤ e + fxBits then m * 2 ^ (e + fxBits).toNat else m >>> (-(e + fxBits)).toNat

/-- A function's value: a plain one, or a magnitude with a nonzero fraction after it. -/
inductive Fun where
  | exact (x : Num)
  | near (neg : Bool) (m : Nat) (e : Int)
  deriving DecidableEq, Repr

/-- A fixed-point magnitude times 2^k that is not the exact value. -/
def Fun.ofFx (neg : Bool) (a : Nat) (k : Int) : Fun := .near neg (a >>> 24) (k + 24 - fxBits)

/-- A magnitude just above m 2^e. -/
def Fun.above (neg : Bool) (m : Nat) (e : Int) : Fun := .near neg (m * 2 ^ 100) (e - 100)
/-- A magnitude just below m 2^e. -/
def Fun.below (neg : Bool) (m : Nat) (e : Int) : Fun := .near neg (m * 2 ^ 100 - 1) (e - 100)

/-- The value rounded once into a format (R180). -/
def Fun.round (f : Fmt) (rm : Rounding) (ftz : Bool) : Fun → Nat
  | .exact x => f.encode rm ftz x
  | .near neg m e => f.round rm ftz neg m e true

/-- (numerator / denominator) 2^e, cut with a mark. -/
def ratio (neg : Bool) (n d : Nat) (e : Int) : Fun :=
  let q := n * 2 ^ 128 / d
  if q * d == n * 2 ^ 128 then .exact (.fin neg q (e - 128)) else .near neg q (e - 128)

/-- a / b (R180). -/
def funDiv : Num → Num → Fun
  | .nan, _ | _, .nan => .exact .nan
  | .inf _, .inf _ | .zero _, .zero _ => .exact .nan
  | .inf a, .zero b | .inf a, .fin b _ _ | .fin a _ _, .zero b => .exact (.inf (a != b))
  | .zero a, .inf b | .zero a, .fin b _ _ | .fin a _ _, .inf b => .exact (.zero (a != b))
  | .fin a m e, .fin b n k => ratio (a != b) m n (e - k)

/-- 1 / a. -/
def funRcp (a : Num) : Fun := funDiv (.fin false 1 0) a

/-- The square root. -/
def funSqrt : Num → Fun
  | .nan => .exact .nan
  | .zero n => .exact (.zero n)
  | .inf n => .exact (if n then .nan else .inf false)
  | .fin true _ _ => .exact .nan
  | .fin false m e =>
    let odd := e % 2 == 1
    let m2 := (if odd then 2 * m else m) * 2 ^ 128
    let e2 := (if odd then e - 1 else e) / 2 - 64
    let r := isqrt m2
    if r * r == m2 then .exact (.fin false r e2) else .near false r e2

/-- 1 over the square root. -/
def funRsqrt : Num → Fun
  | .nan => .exact .nan
  | .zero n => .exact (.inf n)
  | .inf n => .exact (if n then .nan else .zero false)
  | .fin true _ _ => .exact .nan
  | .fin false m e =>
    let odd := e % 2 == 1
    let m1 := if odd then 2 * m else m
    let e1 := (if odd then e - 1 else e) / 2
    let r := isqrt (2 ^ 256 / m1)
    if r * r * m1 == 2 ^ 256 then .exact (.fin false r (-128 - e1)) else .near false r (-128 - e1)

/-- The whole part of m 2^e and the fraction in fixed point. -/
def splitFx (m : Nat) (e : Int) : Nat × Nat :=
  if 0 ≤ e then (m * 2 ^ e.toNat, 0)
  else
    let sh := (-e).toNat
    let i := m >>> sh
    (i, fxOf (m - i * 2 ^ sh) e)

/-- 2 to the power a. -/
def funEx2 : Num → Fun
  | .nan => .exact .nan
  | .inf n => .exact (if n then .zero false else .inf false)
  | .zero _ => .exact (.fin false 1 0)
  | .fin neg m e =>
    let lead := e + m.log2
    if 20 ≤ lead then .near false 1 (if neg then -1000000 else 1000000)
    else if lead < -80 then (if neg then .below false 1 0 else .above false 1 0)
    else
      let (i, f) := splitFx m e
      if f == 0 then .exact (.fin false 1 (if neg then -i else i))
      else if neg then .ofFx false (fxExp (fxMul (fxOne - f) fxLn2)) (-i - 1)
      else .ofFx false (fxExp (fxMul f fxLn2)) i

/-- The binary logarithm. -/
def funLg2 : Num → Fun
  | .nan => .exact .nan
  | .zero _ => .exact (.inf true)
  | .inf n => .exact (if n then .nan else .inf false)
  | .fin true _ _ => .exact .nan
  | .fin false m e =>
    let k := e + m.log2
    if m == 2 ^ m.log2 then .exact (Num.ofInt k 0 false)
    else
      let z := fxOf m (-(m.log2 : Int))
      let ln := 2 * fxAtanh ((z - fxOne) * fxOne / (z + fxOne))
      let v : Int := k * fxOne + (ln * fxOne / fxLn2 : Nat)
      .ofFx (decide (v < 0)) v.natAbs 0

/-- The sine of π times a value in (0, 1/2], given as n / 2^sh with n ≤ 2^(sh-1). -/
def sinPiSmall (neg : Bool) (n sh : Nat) : Fun :=
  if 2 * n == 2 ^ sh then .exact (.fin neg 1 0)
  else .ofFx neg (fxSin (fxMul (fxOf (n * 2 ^ 8) (-(sh : Int) - 8)) fxPi)) 0

/-- A small argument scaled up before the sine: sin(π x) for x = m 2^e far below 1 is π x cut. -/
def sinPiTiny (neg : Bool) (m : Nat) (e : Int) : Fun :=
  -- π x (1 - (π x)^2 / 6 + …): for x < 2^-60 the factor lies in (1 - 2^-117, 1)
  .ofFx neg (m * (fxPi - (fxPi >>> 116))) e

/-- |a| mod 2 as a count of 2^-sh, for a value with fraction bits. -/
def mod2 (m : Nat) (e : Int) : Nat × Nat :=
  let sh := if 0 ≤ e then 0 else (-e).toNat
  let n := if 0 ≤ e then m * 2 ^ e.toNat else m
  (n % 2 ^ (sh + 1), sh)

/-- The sine of π a. -/
def funSinpi : Num → Fun
  | .nan | .inf _ => .exact .nan
  | .zero n => .exact (.zero n)
  | .fin neg m e =>
    if e + m.log2 < -60 then sinPiTiny neg m e
    else
      let (n, sh) := mod2 m e
      let flip := 2 ^ sh ≤ n
      let n := if flip then n - 2 ^ sh else n
      if n == 0 then .exact (.zero neg)
      else sinPiSmall (neg != flip) (if 2 ^ sh < 2 * n then 2 ^ sh - n else n) sh

/-- The cosine of π a. -/
def funCospi : Num → Fun
  | .nan | .inf _ => .exact .nan
  | .zero _ => .exact (.fin false 1 0)
  | .fin _ m e =>
    if e + m.log2 < -80 then .below false 1 0
    else
      let (n, sh) := mod2 m e
      let n := if 2 ^ sh < n then 2 ^ (sh + 1) - n else n      -- in [0, 1]
      let flip := 2 ^ sh < 2 * n
      let n := if flip then 2 ^ sh - n else n                  -- in [0, 1/2]
      if 2 * n == 2 ^ sh then .exact (.zero false)
      else sinPiSmall flip (2 ^ sh - 2 * n) (sh + 1)

/-- The hyperbolic tangent. -/
def funTanh : Num → Fun
  | .nan => .exact .nan
  | .inf n => .exact (.fin n 1 0)
  | .zero n => .exact (.zero n)
  | .fin neg m e =>
    let lead := e + m.log2
    if 6 ≤ lead then .below neg 1 0
    else if lead < -70 then .below neg m e
    else
      let y := fxOf m (e + 1)
      let k := y / fxLn2
      let q := (fxOne * fxOne / fxExp (y - k * fxLn2)) >>> k
      .ofFx neg ((fxOne - q) * fxOne / (fxOne + q)) 0

end Sys2Proof
end

