-- ==== Sys2Proof/Machine/FloatOps.lean ====
section
/-! DEFINITION. Sys2Proof/Machine/FloatOps.lean: the floating-point, conversion and function instructions on one element (R170 to R182),
and the operators of atomics on one memory element (R280). -/

namespace Sys2Proof

/-- The float type a code names (R51). -/
def fltTy (hi : Nat) : FltTy := match hi with | 0 => .f32 | 1 => .f16x2 | 2 => .bf16x2 | _ => .c32

/-- The rounding a code names (R51). -/
def roundingOf (n : Nat) : Rounding := match n % 4 with | 0 => .rn | 1 => .rz | 2 => .rd | _ => .ru

/-- A function of format and element bits applied to a register: once for FP32, to each half for the packed types (R64). -/
def onElems (ty : FltTy) (g : Fmt → Nat → Nat → Nat → Nat) (a b d : Word) : Word :=
  let halves (f : Fmt) := BitVec.ofNat 32
    (g f (a.toNat % 65536) (b.toNat % 65536) (d.toNat % 65536) + 65536 * g f (a.toNat / 65536) (b.toNat / 65536) (d.toNat / 65536))
  match ty with
  | .f16x2 => halves .f16
  | .bf16x2 => halves .bf16
  | _ => BitVec.ofNat 32 (g .f32 a.toNat b.toNat d.toNat)

/-- fmin and fmax (R171): -0 is below +0; one NaN gives the other operand. -/
def pickNum (larger : Bool) (x y : Num) : Num :=
  match x, y with
  | .nan, y => y
  | x, .nan => x
  | .zero a, .zero b => .zero (if larger then a && b else a || b)
  | x, y => if (x.cmp y == .lt) != larger then x else y

/-- frnd (R171). -/
def roundIntegral (rm : Rounding) : Num → Num
  | .fin n m e => let k := roundAt rm n m e 0 false; if k == 0 then .zero n else .fin n k 0
  | x => x

/-- fsat (R171). -/
def satNum : Num → Num
  | .fin false m e => if (Num.fin false m e).cmp (.fin false 1 0) == .gt then .fin false 1 0 else .fin false m e
  | .inf false => .fin false 1 0
  | _ => .zero false

/-- The FP32 class of R172 as its mask bit. -/
def fclassBit (x : Word) : Nat :=
  match f32v x with
  | .inf n => if n then 0 else 7
  | .zero n => if n then 3 else 4
  | .nan => if x.getLsbD 22 then 9 else 8
  | .fin n _ e =>
    let sub := e == Fmt.f32.qmin && x.toNat / 2 ^ 23 % 256 == 0
    if n then (if sub then 2 else 1) else (if sub then 5 else 6)

/-- fcmp (R172). -/
def fcmpTest (cond : Nat) (a b : Word) : Bool :=
  match f32v a, f32v b with
  | .nan, _ | _, .nan => cond == 1 || cond == 6
  | x, y =>
    let o := x.cmp y
    match cond with
    | 0 => o == .eq
    | 1 => o != .eq
    | 2 => o == .lt
    | 3 => o != .gt
    | 4 => o == .gt
    | 5 => o != .lt
    | 6 => false
    | _ => true

/-- One register of a group 0x4 or 0x6 instruction other than fdot2, fscale and the c32 forms (R171, R180). -/
def floatElem (i : Form) (ty : FltTy) (rm : Rounding) (ftz : Bool) (a b d : Word) : Word :=
  onElems ty (fun f x y z =>
    let va := f.decode ftz x
    let vb := f.decode ftz y
    let vd := f.decode ftz z
    match i with
    | .fadd => f.encode rm ftz (Num.sum rm [va, vb])
    | .fsub => f.encode rm ftz (Num.sum rm [va, vb.neg])
    | .fmul => f.encode rm ftz (va.mul vb)
    | .fma => f.encode rm ftz (Num.sum rm [va.mul vb, vd])
    | .fmin => f.encode .rn ftz (pickNum false va vb)
    | .fmax => f.encode .rn ftz (pickNum true va vb)
    | .fabs => f.encode .rn ftz va.abs
    | .fneg => f.encode .rn ftz va.neg
    | .fcopysign => f.encode .rn ftz (if vb.isNeg then va.abs.neg else va.abs)
    | .frnd => f.encode .rn ftz (roundIntegral rm va)
    | .fsat => f.encode .rn ftz (satNum va)
    | .rcp => (funRcp va).round f rm ftz
    | .divFloat => (funDiv va vb).round f rm ftz
    | .sqrt => (funSqrt va).round f rm ftz
    | .rsqrt => (funRsqrt va).round f rm ftz
    | .ex2 => (funEx2 va).round f rm ftz
    | .lg2 => (funLg2 va).round f rm ftz
    | .sinpi => (funSinpi va).round f rm ftz
    | .cospi => (funCospi va).round f rm ftz
    | .tanh => (funTanh va).round f rm ftz
    | _ => x) a b d

/-- fscale (R171): B is read as `.i32`, or as `.i16x2` per element. -/
def fscaleElem (ty : FltTy) (rm : Rounding) (ftz : Bool) (a n : Word) : Word :=
  let scale (x : Num) (k : Int) : Num := match x with | .fin s m e => .fin s m (e + k) | x => x
  match ty with
  | .f32 => BitVec.ofNat 32 (Fmt.f32.encode rm ftz (scale (Fmt.f32.decode ftz a.toNat) n.toInt))
  | ty => onElems ty (fun f x y _ => f.encode rm ftz (scale (f.decode ftz x) (BitVec.ofNat 16 y).toInt)) a n 0

/-- fdot2 (R171). -/
def fdot2Elem (ty : FltTy) (rm : Rounding) (ftz : Bool) (a b d : Word) : Word :=
  let f := if ty == .f16x2 then Fmt.f16 else Fmt.bf16
  let lo (x : Word) := f.decode ftz (x.toNat % 65536)
  let hi (x : Word) := f.decode ftz (x.toNat / 65536)
  BitVec.ofNat 32 (Fmt.f32.encode rm ftz
    (Num.sum rm [(lo a).mul (lo b), (hi a).mul (hi b), Fmt.f32.decode ftz d.toNat]))

/-- cmul and cfma (R181) on pairs (re, im). -/
def cmulElem (rm : Rounding) (ftz : Bool) (a b : Word × Word) (d : Option (Word × Word)) : Word × Word :=
  let v (x : Word) := Fmt.f32.decode ftz x.toNat
  let out (ts : List Num) := BitVec.ofNat 32 (Fmt.f32.encode rm ftz (Num.sum rm ts))
  let dre := match d with | some d => [v d.1] | none => []
  let dim := match d with | some d => [v d.2] | none => []
  (out ([(v a.1).mul (v b.1), ((v a.2).mul (v b.2)).neg] ++ dre), out ([(v a.1).mul (v b.2), (v a.2).mul (v b.1)] ++ dim))

/-- twoprod (R182). -/
def twoProd (a b : Word) : Word × Word :=
  let p := (f32v a).mul (f32v b)
  let s := toF32 .rn p
  (s, if finiteF32 s then toF32 .rn (Num.sum .rn [p, (f32v s).neg]) else 0)

/-- cvt (R52, R174) on one element: A as (low, high) registers, B's register; the result as (low, high). -/
def cvtElem (code : Nat) (rm : Rounding) (a : Word × Word) (b : Word) : Word × Word :=
  let a64 : DWord := a.2 ++ a.1
  let fromInt (n : Int) : Word × Word := (toF32 rm (Num.ofInt n 0 false), 0)
  let toInt (lo hi : Int) : Int :=
    match f32v a.1 with
    | .nan => 0
    | .inf n => if n then lo else hi
    | v => clampInt lo hi (v.toInt rm)
  let split (x : Int) : Word × Word := ((BitVec.ofInt 64 x).extractLsb' 0 32, (BitVec.ofInt 64 x).extractLsb' 32 32)
  let pack (f : Fmt) : Word := BitVec.ofNat 32 (f.encode rm false (f32v a.1) + 65536 * f.encode rm false (f32v b))
  let half (f : Fmt) (hi : Bool) : Word := toF32 .rn (f.decode false (if hi then a.1.toNat / 65536 else a.1.toNat % 65536))
  let recode (f g : Fmt) : Word := BitVec.ofNat 32
    (g.encode rm false (f.decode false (a.1.toNat % 65536)) + 65536 * g.encode rm false (f.decode false (a.1.toNat / 65536)))
  match code with
  | 0 => fromInt a.1.toInt
  | 1 => fromInt a.1.toNat
  | 2 => (BitVec.ofInt 32 (toInt (-(2 ^ 31 : Nat)) ((2 ^ 31 : Nat) - 1)), 0)
  | 3 => (BitVec.ofInt 32 (toInt 0 ((2 ^ 32 : Nat) - 1)), 0)
  | 4 => fromInt a64.toInt
  | 5 => fromInt a64.toNat
  | 6 => split (toInt (-(2 ^ 63 : Nat)) ((2 ^ 63 : Nat) - 1))
  | 7 => split (toInt 0 ((2 ^ 64 : Nat) - 1))
  | 8 => (pack .f16, 0)
  | 9 => (pack .bf16, 0)
  | 10 => (half .f16 false, 0)
  | 11 => (half .f16 true, 0)
  | 12 => (half .bf16 false, 0)
  | 13 => (half .bf16 true, 0)
  | 14 => (recode .bf16 .f16, 0)
  | _ => (recode .f16 .bf16, 0)

/-- pack (R178). -/
def packElem (fmt : Nat) (a b : Word) : Word :=
  let sat (lo hi x : Int) : Nat := (BitVec.ofInt 8 (clampInt lo hi x)).toNat
  match fmt with
  | 0 => BitVec.ofNat 32 (a.toNat % 256 + 256 * (b.toNat % 256))
  | 1 => BitVec.ofNat 32 (a.toNat % 64 + 256 * (b.toNat % 64))
  | 2 => BitVec.ofNat 32 (sat (-128) 127 a.toInt + 256 * sat (-128) 127 b.toInt)
  | 3 => BitVec.ofNat 32 (min 255 a.toNat + 256 * min 255 b.toNat)
  | _ => BitVec.ofNat 32 (a.toNat % 65536 + 65536 * (b.toNat % 65536))

/-- Byte `k` of a register. -/
def byteOf (a : Word) (k : Nat) : Nat := a.toNat / 2 ^ (8 * (k % 4)) % 256

/-- unpack (R178). -/
def unpackElem (fmt : Nat) (a k : Word) : Word :=
  let byte := byteOf a k.toNat
  match fmt with
  | 0 | 3 => BitVec.ofNat 32 byte
  | 1 => BitVec.ofNat 32 (byte % 64)
  | 2 => (BitVec.ofNat 8 byte).signExtend 32
  | _ => BitVec.ofNat 32 (if k.getLsbD 0 then a.toNat / 65536 else a.toNat % 65536)

/-- tdec (R175). -/
def tdecElem (t6 : Bool) (a k : Word) : Word := toF32 .rn ((if t6 then t6Value else t8Value) (byteOf a k.toNat))

/-! ## Operators on memory (R54, R280) -/

/-- The operator a SUB code names (R54). -/
def memOpOf (c : Nat) : MemOp :=
  match c with
  | 0 => .addI32 | 1 => .addI64 | 2 => .addF32 | 3 => .addBf16x2 | 4 => .addC32 | 5 => .minI32 | 6 => .maxI32 | 7 => .minF32
  | 8 => .maxF32 | 9 => .orB32 | 10 => .andB32 | 11 => .xorB32 | 12 => .minN32 | 13 => .maxN32 | 14 => .exchB32 | _ => .exchB64

/-- Bytes of an operator's element (R280). -/
def MemOp.bytes : MemOp → Nat
  | .addI64 | .addC32 | .exchB64 => 8
  | _ => 4

/-- The new element from the memory element and the operand (R280). -/
def MemOp.apply (op : MemOp) (m v : Nat) : Nat :=
  let x := BitVec.ofNat 32 m
  let y := BitVec.ofNat 32 v
  let f (pick : Bool) : Nat := Fmt.f32.encode .rn false (pickNum pick (f32v x) (f32v y))
  match op with
  | .addI32 => (x + y).toNat
  | .addI64 => (m + v) % 2 ^ 64
  | .addF32 => (fadd32 x y).toNat
  | .addBf16x2 =>
    let h (a b : Nat) := Fmt.bf16.encode .rn false (Num.sum .rn [Fmt.bf16.decode false a, Fmt.bf16.decode false b])
    h (m % 65536) (v % 65536) + 65536 * h (m / 65536 % 65536) (v / 65536 % 65536)
  | .addC32 => (fadd32 x y).toNat + 2 ^ 32 * (fadd32 (BitVec.ofNat 32 (m / 2 ^ 32)) (BitVec.ofNat 32 (v / 2 ^ 32))).toNat
  | .minI32 => if x.toInt ≤ y.toInt then x.toNat else y.toNat
  | .maxI32 => if x.toInt ≤ y.toInt then y.toNat else x.toNat
  | .minF32 => f false
  | .maxF32 => f true
  | .orB32 => (x ||| y).toNat
  | .andB32 => (x &&& y).toNat
  | .xorB32 => (x ^^^ y).toNat
  | .minN32 => min x.toNat y.toNat
  | .maxN32 => max x.toNat y.toNat
  | .exchB32 => y.toNat
  | .exchB64 => v % 2 ^ 64

end Sys2Proof
end

