-- ==== Sys2Proof/Machine/Routes.lean ====
section
/-! DEFINITION. Sys2Proof/Machine/Routes.lean: the routes between devices (R256 to R259) -/

namespace Sys2Proof.Machine

/-- Link `n` of a device is up; a link that nothing has changed is. -/
def State.linkUp (s : State) (d n : Nat) : Bool := s.hasDev d && (((s.dev d).links.find? fun l => l.n == n).map fun l => l.up).getD true
/-- The number of the local link of a device toward a member of its group: the members in ascending order, its own left out (DEDUCED, assumption log 34). -/
def localLink (d m : Nat) : Nat := if m < d % 32 then m else m - 1
/-- Two members of one fabric group reach each other (R256). -/
def State.localHop (s : State) (a b : Nat) : Bool := a == b || (s.linkUp a (localLink a (b % 32)) && s.linkUp b (localLink b (a % 32)))
/-- The port index of group `g` that joins global link `i` toward group `h` (R257). -/
def portIndex (g h i : Nat) : Nat := 2 * ((h + 128 - g) % 128 - 1) + i
/-- The device at the end of a global link. -/
def portDev (g h i : Nat) : Nat := 32 * g + portIndex g h i / 8
/-- The two ends of a global link are up. -/
def State.globalUp (s : State) (g h i : Nat) : Bool :=
  s.linkUp (portDev g h i) (31 + portIndex g h i % 8) && s.linkUp (portDev h g i) (31 + portIndex h g i % 8)
/-- A minimal route over global link `i` between devices of different groups (R258). -/
def State.minimal (s : State) (a b i : Nat) : Bool :=
  s.localHop a (portDev (a / 32) (b / 32) i) && s.globalUp (a / 32) (b / 32) i && s.localHop (portDev (b / 32) (a / 32) i) b
/-- A route through an intermediate group (R258, R259). -/
def State.viaGroup (s : State) (a b k : Nat) : Bool :=
  k != a / 32 && k != b / 32 &&
    [0, 1].any fun i => s.minimal a (portDev k (a / 32) i) i && [0, 1].any fun j => s.minimal (portDev k (a / 32) i) b j
/-- Some route for line-addressed traffic reaches the device (R259, R264). -/
def State.reaches (s : State) (a b : Nat) : Bool :=
  a == b || (if a / 32 == b / 32 then s.localHop a b
    else s.minimal a b 0 || s.minimal a b 1 || (List.range 128).any fun k => s.viaGroup a b k)

/-- Some route for bulk traffic reaches the device: it may pass through another group even within one (R258, R259). -/
def State.reachesBulk (s : State) (a b : Nat) : Bool := s.reaches a b || (List.range 128).any fun k => s.viaGroup a b k

/-- The links, by their ends, that join two members of a group. -/
def localEnds (a b : Nat) : List (Nat × Nat) := if a == b then [] else [(a, localLink a (b % 32)), (b, localLink b (a % 32))]
/-- The ends of a minimal route over global link `i` (R258). -/
def minimalEnds (a b i : Nat) : List (Nat × Nat) :=
  let g := a / 32
  let h := b / 32
  localEnds a (portDev g h i) ++ [(portDev g h i, 31 + portIndex g h i % 8), (portDev h g i, 31 + portIndex h g i % 8)] ++ localEnds (portDev h g i) b

/-- The route of line-addressed traffic for a line from one device to another, by the ends of its links (R259): over the global link that bit 7 of the line
and bit 0 of the source name, over the other where that is cut, or through the lowest group whose links reach both (DEDUCED, assumption log 34). -/
def State.route (s : State) (a b line : Nat) : Option (List (Nat × Nat)) :=
  let i := (line / 128 + a) % 2
  if a == b then some []
  else if a / 32 == b / 32 then (if s.localHop a b then some (localEnds a b) else none)
  else if s.minimal a b i then some (minimalEnds a b i)
  else if s.minimal a b (1 - i) then some (minimalEnds a b (1 - i))
  else
    let via (k : Nat) : Option (List (Nat × Nat)) :=
      if k == a / 32 || k == b / 32 then none
      else [i, 1 - i].findSome? fun x =>
        if !s.minimal a (portDev k (a / 32) x) x then none
        else [i, 1 - i].findSome? fun y =>
          if s.minimal (portDev k (a / 32) x) b y then some (minimalEnds a (portDev k (a / 32) x) x ++ minimalEnds (portDev k (a / 32) x) b y) else none
    (List.range 128).findSome? via

/-- A link carries nothing while it retrains or a failed lane holds it for the host (R265, R435). -/
def State.linkPaused (s : State) (d n : Nat) : Bool :=
  match (s.dev d).links.find? fun l => l.n == n with
  | some l => l.waits || l.retrain.any fun t => s.clk < t
  | none => false
/-- The route of a line's traffic from one device to another waits for a link (R265). -/
def State.paused (s : State) (a b line : Nat) : Bool := ((s.route a b line).getD []).any fun e => s.linkPaused e.1 e.2

/-- The narrowest width among the links of a route (R265): 0 full, 1 half, 2 quarter. -/
def State.widthOf (s : State) (route : List (Nat × Nat)) : Nat :=
  route.foldl (fun n e => max n ((((s.dev e.1).links.find? fun l => l.n == e.2).map fun l => l.width).getD 0)) 0

/-- The end of a link at its other device (R256, R257), if it has one. -/
def linkPeer (d n : Nat) : Option (Nat × Nat) :=
  let g := d / 32
  if n < 31 then
    let m := if n < d % 32 then n else n + 1
    some (32 * g + m, localLink (32 * g + m) (d % 32))
  else
    let p := 8 * (d % 32) + (n - 31)
    let h := (g + p / 2 + 1) % 128
    if 254 ≤ p then none else some (portDev h g (p % 2), 31 + portIndex h g (p % 2) % 8)

end Sys2Proof.Machine
end

