-- ==== Sys2Proof/Machine/Memory.lean ====
section
/-! DEFINITION. Sys2Proof/Machine/Memory.lean: the physical map, the bytes at a line's home, the write queue of a core, publication, the
Accrue state and its merge, and the walk of the page tables (R190 to R199, R276, R309 to R312, R322 to R332, R397). -/

namespace Sys2Proof.Machine

/-! ## The physical map (R196) -/

/-- What a device-local address names. -/
inductive Zone where
  | hbm | tier2 | beam | spad | mmio | none
  deriving DecidableEq, Repr

/-- The device of a physical domain address. -/
def devOf (a : Nat) : Nat := a / 2 ^ 44
/-- The device-local part of a physical domain address. -/
def localOf (a : Nat) : Nat := a % 2 ^ 44
/-- The zone of a device-local address. -/
def zoneOf (l : Nat) : Zone :=
  if l < 0x0C000000000 then .hbm
  else if 0x10000000000 ≤ l && l < 0x30000000000 then .tier2
  else if 0x40000000000 ≤ l && l < 0x40080000000 then .beam
  else if 0x40080000000 ≤ l && l < 0x40090000000 then .spad
  else if 0x50000000000 ≤ l && l < 0x60000000000 then .mmio
  else .none
/-- The home die of a device-local address. -/
def homeDie (l : Nat) : Nat :=
  match zoneOf l with
  | .hbm => l / (192 * 2 ^ 30)
  | .tier2 => (l - 2 ^ 40) / 2 ^ 39
  | .beam => (l - 0x40000000000) / 2 ^ 29
  | .spad => (l - 0x40080000000) / 2 ^ 20 / 64
  | _ => 0
/-- The access does not reach anything (R196, PHYS_UNMAPPED). -/
def State.unmapped (s : State) (a : Nat) : Bool := !s.hasDev (devOf a) || zoneOf (localOf a) == .none
/-- The physical address of a Beam offset of a device. -/
def beamAddr (d off : Nat) : Nat := d * 2 ^ 44 + 0x40000000000 + off
/-- The physical address of a byte of a core's scratchpad. -/
def spadAddr (d core x : Nat) : Nat := d * 2 ^ 44 + 0x40080000000 + core * 2 ^ 20 + x
/-- The physical address of byte `x` of a group's window (R104, R200). -/
def Group.spadAddr (G : Group) (x : Nat) : Nat := Machine.spadAddr G.dev G.core (G.grans.getD (x / 4096) 0 * 4096 + x % 4096)
/-- The bytes of a group's window (R107). -/
def Group.spadsz (G : Group) : Nat := G.grans.length * 4096
/-- The line of an address. -/
def lineOf (a : Nat) : Nat := a / 128 * 128

/-- How a request of a device to the home of an address fails, with the reason, where a route reaches it or none does (R264); at its own device nothing fails.
What else a request may meet is open; one that fails has done nothing at its home (R316) (DESIGN CHOICE, assumption log 77). -/
def State.failOver (s : State) (route : Bool) (d pa k : Nat) : Option Nat :=
  if devOf pa == d then none
  else if !route then some 3
  else match Config.fabricEnd s.tick (lineOf pa) k % 3 with
    | 0 => none
    | n => some n

/-- How a line-addressed request fails (R264). -/
def State.failTo (s : State) (d pa k : Nat) : Option Nat := s.failOver (s.reaches d (devOf pa)) d pa k

/-- A request to the home of an address, or its answer, would wait for a paused link (R265, R435). -/
def State.away (s : State) (d pa : Nat) : Bool := devOf pa != d && (s.paused d (devOf pa) (lineOf pa) || s.paused (devOf pa) d (lineOf pa))

/-! ## Bytes at their home -/

/-- One byte of physical memory; what is not listed reads 0 (DESIGN CHOICE, assumption log 4). -/
def State.byte (s : State) (a : Nat) : Byte := Sparse.get s.mem a
/-- `n` bytes of physical memory. -/
def State.bytes (s : State) (a n : Nat) : List Byte := Sparse.range s.mem a n
/-- Bytes stored in physical memory. -/
def State.setBytes (s : State) (a : Nat) (bs : List Byte) : State := { s with mem := Sparse.setRange s.mem a bs }
/-- A group's window read (R200). -/
def State.spadBytes (s : State) (G : Group) (x n : Nat) : List Byte := (List.range n).map fun i => s.byte (G.spadAddr (x + i))
/-- A group's window written. -/
def State.setSpad (s : State) (G : Group) (x : Nat) : List Byte → State
  | [] => s
  | b :: bs => State.setSpad (s.setBytes (G.spadAddr x) [b]) G (x + 1) bs

/-! ## A group's command ring in its window (R217, R218) -/

/-- The value of `%ringcfg` as it reads: NENT - 1 of 0 to 2 reads as 3 (R217). -/
def ringNorm (x : Word) : Word := if x.extractLsb' 20 8 < 3 then (x &&& 0x100FFFFF) ||| 0x00300000 else x &&& 0x1FFFFFFF
/-- RINGOFF. -/
def Group.ringOff (G : Group) : Nat := G.ringcfg.toNat % 2 ^ 20
/-- NENT. -/
def Group.nent (G : Group) : Nat := (ringNorm G.ringcfg).toNat / 2 ^ 20 % 256 + 1
/-- TAIL. -/
def State.ringTail (s : State) (G : Group) : Word := BitVec.ofNat 32 (leNat (s.spadBytes G G.ringOff 4))
/-- HEAD as it stands in the window. -/
def State.ringHead (s : State) (G : Group) : Word := BitVec.ofNat 32 (leNat (s.spadBytes G (G.ringOff + 4) 4))
/-- The window offset of an entry. -/
def Group.entryAt (G : Group) (q : Word) : Nat := G.ringOff + 32 + 32 * (q.toNat % G.nent)
/-- The ring can be read: none of its commands has failed, and it lies in the window. -/
def Group.ringLive (G : Group) : Bool := !G.ringDead && G.ringOff + 32 * (G.nent + 1) ≤ G.spadsz
/-- The shuttle watches the ring (R217, R222). -/
def Group.watched (G : Group) : Bool := G.ringcfg.getLsbD 28 && G.ringLive
/-- Entries published and not yet read (R217); a ring that no `%ringcfg` has switched on has none. -/
def State.unread (s : State) (G : Group) : Nat := if G.ringUsed && G.ringLive then (s.ringTail G - BitVec.ofNat 32 G.head).toNat else 0
/-- The entry with a sequence number as a command. -/
def State.entryOf (s : State) (G : Group) (q : Word) : Command := { seq := q, bytes := s.spadBytes G (G.entryAt q) 32, quiet := !G.ringcfg.getLsbD 28 }
/-- The entries published and not yet read, in order. -/
def State.unreadCmds (s : State) (G : Group) : List Command := (List.range (min (s.unread G) G.nent)).map fun i => s.entryOf G (BitVec.ofNat 32 (G.head + i))
/-- `%ringcfg` written (R217): a ring that is switched on counts on from the HEAD of its header (DEDUCED, assumption log 25). -/
def State.setRing (s : State) (v : Word) (G : Group) : Group :=
  let G1 : Group := { G with ringcfg := ringNorm v, ringUsed := v.getLsbD 28 || (G.ringUsed && (ringNorm v).extractLsb' 0 28 == (ringNorm G.ringcfg).extractLsb' 0 28) }
  if v.getLsbD 28 && !(G.ringcfg.getLsbD 28) then { G1 with head := (s.ringHead G1).toNat } else G1
/-- A byte of HEAD of a ring that has been switched on: only the shuttle writes it (R8, R217). -/
def Group.headByte (G : Group) (x : Nat) : Bool := G.ringUsed && G.ringOff + 4 ≤ x && x < G.ringOff + 8
/-- A store to a group's window: it has no effect on HEAD (R8, R217). -/
def State.storeSpad (s : State) (G : Group) (x : Nat) : List Byte → State
  | [] => s
  | b :: bs => State.storeSpad (if G.headByte x then s else s.setBytes (G.spadAddr x) [b]) G (x + 1) bs

/-! ## Poison -/

/-- The line's poison set or cleared (R416, R207). -/
def State.setPoison (s : State) (a : Nat) (on : Bool) : State :=
  { s with poison := if on then (if s.poison.contains a then s.poison else s.poison ++ [a]) else s.poison.filter (· != a) }

/-! ## The Accrue state -/

/-- The components of an element under DETM: byte offset in the element and format (R329). -/
def exactParts : MemOp → List (Nat × Fmt)
  | .addF32 => [(0, .f32)]
  | .addC32 => [(0, .f32), (4, .f32)]
  | .addBf16x2 => [(0, .bf16), (2, .bf16)]
  | _ => []

/-- The bits of a component. -/
def partBits (f : Fmt) (off v : Nat) : Nat := v / 2 ^ (8 * off) % 2 ^ (f.eb + f.mb + 1)

/-- One contribution taken in under R329, with WINDOW_HIGH as bit 0 and WINDOW_LOW as bit 1. -/
def takeExact (f : Fmt) (v : Nat) (p : Partial) : Partial × BitVec 2 :=
  match f.decode false v with
  | .nan => ({ p with nan := true }, 0)
  | .inf n => (if n then { p with ninf := true } else { p with pinf := true }, 0)
  | .zero _ => (p, 0)
  | .fin n m e =>
    let put (c : Nat) : Partial :=
      { p with v := (((p.v : Int) + (if n then -(c : Int) else c)) % (2 ^ 192 : Nat)).toNat }
    if 64 < e + m.log2 + 1 then (put (2 ^ 164 - 1), 1)
    else if 0 ≤ e + 100 then (put (m * 2 ^ (e + 100).toNat), 0)
    else
      let sh := (-(e + 100)).toNat
      let c := m >>> sh
      (put c, if c * 2 ^ sh == m then 0 else 2)

/-- The merged element of R329 from its value before the episode and the combined partial. -/
def finalExact (f : Fmt) (v0 : Nat) (p : Partial) : Nat :=
  let x := f.decode false v0
  let pos := p.pinf || x == .inf false
  let neg := p.ninf || x == .inf true
  if p.nan || x == .nan || (pos && neg) then f.nanBits
  else if pos then f.encode .rn false (.inf false)
  else if neg then f.encode .rn false (.inf true)
  else
    let n : Int := (BitVec.ofNat 192 p.v).toInt
    match Num.sum .rn [x, Num.ofInt n (-100) false] with
    | .zero _ => 0
    | y => f.encode .rn false y

/-- Two partials of one component added (R329). -/
def addExact (p q : Partial) : Partial :=
  { p with v := (p.v + q.v) % 2 ^ 192, nan := p.nan || q.nan, pinf := p.pinf || q.pinf, ninf := p.ninf || q.ninf }

/-- One level of the tree of R328: neighbours 2i and 2i + 1 combined, the left one first. -/
def pairUp (op : MemOp) : List (Nat × Nat) → List (Nat × Nat)
  | [] => []
  | [(p, x)] => [(p / 2, x)]
  | (p, x) :: (q, y) :: rest =>
    if p / 2 == q / 2 then (p / 2, op.apply x y) :: pairUp op rest
    else (p / 2, x) :: pairUp op ((q, y) :: rest)

/-- The levels of the tree. -/
def treeUp (op : MemOp) : Nat → List (Nat × Nat) → List (Nat × Nat)
  | 0, l => l
  | k + 1, l => treeUp op k (pairUp op l)

/-- A list of positions and values put in ascending order. -/
def insertPos (x : Nat × Nat) : List (Nat × Nat) → List (Nat × Nat)
  | [] => [x]
  | y :: ys => if x.1 ≤ y.1 then x :: y :: ys else y :: insertPos x ys

/-- The partial elements at a byte offset by holder position, ascending; an EMPTY element is not listed. -/
def Line.leaves (L : Line) (off : Nat) : List (Nat × Nat) :=
  (L.holders.filterMap fun h => (h.parts.find? fun p => p.off == off).map fun p => (h.pos, p.v)).foldr insertPos []

/-- The merged bits of one element outside DETM (R328). -/
def Line.combine (L : Line) (off v0 : Nat) : Nat :=
  match treeUp L.op 17 (L.leaves off) with
  | [] => v0
  | (_, t) :: _ => L.op.apply v0 t

/-- The merged bits of one component under DETM; without a contribution it keeps its value (R328, R329). -/
def Line.combineExact (L : Line) (f : Fmt) (off v0 : Nat) : Nat :=
  match L.holders.filterMap fun h => h.parts.find? fun p => p.off == off with
  | [] => v0
  | ps => finalExact f v0 (ps.foldl addExact { off })

/-- The merged line (R325 step 4). -/
def Line.merged (L : Line) (bs : List Byte) : List Byte :=
  let z := L.op.bytes
  (List.range (128 / z)).flatMap fun k =>
    let v0 := leNat ((bs.drop (k * z)).take z)
    if L.det then
      (exactParts L.op).flatMap fun (o, f) =>
        leBytes ((f.eb + f.mb + 1) / 8) (L.combineExact f (k * z + o) (partBits f o v0))
    else leBytes z (L.combine (k * z) v0)

/-- The window flags of an episode's contributions made visible (R330). -/
def State.showWindow (s : State) : List (Nat × Nat × BitVec 2) → State
  | [] => s
  | (d, c, b) :: rest => State.showWindow (s.modCtx d c fun x => { x with accstat := x.accstat ||| b }) rest

/-- The device of a holder position (R323). -/
def Line.holderDev (L : Line) (pos : Nat) : Nat := if L.det then pos / 4 else pos / 32

/-- A holder's partial cannot be had: an error has taken it, or its device is not reached or the request fails (R264, R327); one that it has evicted stands
at the home (R326). -/
def State.holderLost (s : State) (L : Line) (h : Holder) : Bool :=
  h.lost || (!h.home && (s.failTo (devOf L.addr) (L.holderDev h.pos * 2 ^ 44 + localOf L.addr) h.pos).isSome)

/-- The merge of a line would lose a partial (R327). -/
def State.mergeLost (s : State) (a : Nat) : Bool := (s.line a).st == .a && (s.line a).holders.any (s.holderLost (s.line a))

/-- The merge of a line in A (R325); any other line is left alone.  Without a partial that cannot be had, the line is poisoned (R327). -/
def State.mergeLine (s : State) (a : Nat) : State :=
  let L0 := s.line a
  if L0.st != .a then s
  else
    let L : Line := { L0 with holders := L0.holders.filter fun h => !s.holderLost L0 h }
    let s0 := if s.mergeLost a then s.setPoison a true else s
    let s1 := s0.setBytes a (L.merged (s.bytes a 128))
    let s2 := s1.modLine a fun x => { x with st := .m, owner := none, sharers := [], holders := [], merging := none, replies := [], stat := [] }
    s2.showWindow L.stat

/-- A line brought into A with a tag (R324): an episode of another tag, or one whose merge has begun (R325), is merged first. -/
def State.enterA (s : State) (a : Nat) (op : MemOp) (det : Bool) : State :=
  let L := s.line a
  if L.st == .a && L.op == op && L.det == det && L.merging.isNone then s
  else (s.mergeLine a).modLine a fun x =>
    { x with st := .a, op := op, det := det, owner := none, sharers := [], holders := [], stat := [] }

/-- The holder position of a core's deposits (R323); `core` is 64 die + 8 cluster + core. -/
def holderPos (d core : Nat) (det : Bool) : Nat := if det then 4 * d + core / 64 else 32 * d + core / 8

/-- One holder's partials with one contribution taken in; the window flags it sets. -/
def Holder.take (h : Holder) (op : MemOp) (det : Bool) (off v : Nat) : Holder × BitVec 2 :=
  if det then
    (exactParts op).foldl (fun (acc : Holder × BitVec 2) (o, f) =>
      let p := (acc.1.parts.find? fun p => p.off == off + o).getD { off := off + o }
      let (p', b) := takeExact f (partBits f o v) p
      ({ acc.1 with parts := upsert (fun p => p.off == off + o) p (fun _ => p') acc.1.parts }, acc.2 ||| b)) (h, 0)
  else
    match h.parts.find? fun p => p.off == off with
    | none => ({ h with parts := h.parts ++ [{ off, v := v % 2 ^ (8 * op.bytes) }] }, 0)
    | some p => ({ h with parts := modIf (fun q => q.off == off) (fun q => { q with v := op.apply p.v v }) h.parts }, 0)

/-- A deposit accepted by its holder (R323, R324). -/
def State.deposit (s : State) (d core ctx a : Nat) (op : MemOp) (det : Bool) (off v : Nat) : State :=
  let s1 := s.enterA a op det
  let pos := holderPos d core det
  let h := ((s1.line a).holders.find? fun h => h.pos == pos).getD { pos }
  let (h', b) := h.take op det off v
  s1.modLine a fun L =>
    { L with holders := upsert (fun h => h.pos == pos) h (fun _ => h') L.holders,
             stat := if b == 0 then L.stat else L.stat ++ [(d, ctx, b)] }

/-! ## Contributions and the write queue (R276, R309 to R312) -/

/-- What a contribution makes of the 128 bytes of its line, as the queue's own core sees it. -/
def contOnLine (bs : List Byte) : Contrib → List Byte
  | .bytes off data => bs.take off ++ data ++ bs.drop (off + data.length)
  | .rmw op off v =>
    let z := op.bytes
    bs.take off ++ leBytes z (op.apply (leNat ((bs.drop off).take z)) v) ++ bs.drop (off + z)
  | .deposit .. => bs

/-- A contribution applied at the line's home (R276, R324); `d` and `core` are the depositing core. -/
def State.applyCont (s : State) (d core a : Nat) : Contrib → State
  | .bytes off data => (s.mergeLine a).setBytes (a + off) data
  | .rmw op off v =>
    let s1 := s.mergeLine a
    s1.setBytes (a + off) (leBytes op.bytes (op.apply (leNat (s1.bytes (a + off) op.bytes)) v))
  | .deposit op det ctx off v => s.deposit d core ctx a op det off v

/-- Contributions applied in their order. -/
def State.applyConts (s : State) (d core a : Nat) (cs : List Contrib) : State := cs.foldl (fun s c => s.applyCont d core a c) s

/-- A contribution of the thread's access `n` is still on its way, or still to be made. -/
def State.accessPending (s : State) (n : Nat) : Bool :=
  s.storing == some n || (s.cores.any fun c => c.queue.any fun e => e.users.any fun u => u.n == n) || s.reqs.any fun r => r.users.any fun u => u.n == n

/-- An mcast whose threads have all been sent, with every member store ended (R271): its units fall, it completes, and it traps if a member
failed. -/
def State.castEnd (s : State) (n : Nat) : State :=
  match s.casts.find? fun (c : Cast) => c.n == n with
  | none => s
  | some c =>
    if !c.closed || s.accessPending n then s
    else
      let s1 := ({ s with casts := s.casts.filter fun c => c.n != n } : State).modWeft c.path.g c.path.w fun wf => { wf with st := wf.st - c.units }
      let s2 := s1.later s.clk (.instrComplete c.path.g c.path.w n)
      if c.members == 0 then s2
      else s2.later s.clk (.deferredTrap c.path.g {
        cls := .fabric, reason := 4, agent := .port, precise := false, pc := c.pc, wid := c.path.w, smask := c.sel,
        pmask := c.sel &&& ~~~c.failed, members := c.members })

/-- ST units lowered for the issuers of published contributions, once an access has no contribution left (R129). -/
def State.lowerSt (s : State) : List QUser → State
  | [] => s
  | u :: us =>
    if u.cast.isSome then State.lowerSt (s.castEnd u.n) us
    else if u.units == 0 || (us.any fun x => x.n == u.n) || s.accessPending u.n then State.lowerSt s us
    else State.lowerSt (s.modWeft u.path.g u.path.w fun wf => { wf with st := wf.st - u.units }) us

/-- The next MSEQ of a source die toward a device (R262). -/
def State.nextMseq (s : State) (d die dst : Nat) : Word × State :=
  let p := fun (x : Nat × Nat × Nat × Word) => x.1 == d && x.2.1 == die && x.2.2.1 == dst
  let n := match s.mseq.find? p with | some x => x.2.2.2 | none => 0
  (n, { s with mseq := upsert p (d, die, dst, 0) (fun _ => (d, die, dst, n + 1)) s.mseq })

/-- The remote-write right of a context for a line of another device (R267, R434). -/
def State.remoteAllowed (s : State) (ctx a : Nat) : Bool :=
  let l := localOf a
  let k := match zoneOf l with
    | .hbm => l / 2 ^ 29
    | .tier2 => 1536 + (l - 2 ^ 40) / 2 ^ 29
    | _ => 5632
  k < 5632 && (s.byte ((s.dev (devOf a)).rwbase.toNat + 1024 * ctx + k / 8)).getLsbD (k % 8)

/-- A write of a context of device `d` is refused at the home of its line (R267). -/
def State.refused (s : State) (d ctx pa : Nat) : Bool := devOf pa != d && !s.remoteAllowed ctx (lineOf pa)

/-- What the home makes of a request: it is applied at most once and in MSEQ order, must wait, or is refused (R263, R267, R268). -/
inductive Applied where
  | done | wait | denied
  deriving DecidableEq, Repr

/-- Two messages are the same request (R262, R263). -/
def sameMsg (m n : Msg) : Bool := m.src == n.src && m.die == n.die && m.dst == n.dst && m.mseq == n.mseq

/-! ## Issuers told of a failure (R264, R267, R271, R327) -/

/-- Threads of an access of the same instruction that have not been performed: in write queues, in requests, or failed with this one. -/
def State.openThreads (s : State) (us : List QUser) (out : Nat) : Mask :=
  let all := us ++ (s.cores.flatMap fun c => c.queue.flatMap fun e => e.users) ++ s.reqs.flatMap fun r => r.users
  all.foldl (fun m u => if u.out == out then m ||| u.thr else m) 0

/-- A member store of an mcast that failed noted (R271). -/
def State.failMember (s : State) (n i : Nat) (thr : Mask) : State :=
  { s with
    casts := modIf (fun (c : Cast) => c.n == n) (fun (c : Cast) => { c with failed := c.failed ||| thr, members := c.members ||| BitVec.ofNat 32 (2 ^ i) }) s.casts }

/-- The issuers of a failed request told: each instruction's weft gets one deferred trap, which names its first access among them (R395), an mcast its
member's failure. -/
def State.failUsers (s : State) (cls : TrapClass) (reason : Nat) (us : List QUser) : List QUser → State
  | [] => s
  | u :: rest =>
    (match u.cast with
      | some i => s.failMember u.n i u.thr
      | none =>
        if rest.any fun v => v.out == u.out && v.path == u.path then s
        else s.later s.clk (.deferredTrap u.path.g {
          cls, reason, agent := .port, precise := false, pc := u.pc, addr := ((us.find? fun (v : QUser) => v.out == u.out && v.path == u.path).getD u).va, wid := u.path.w, smask := u.sel, pmask := u.sel &&& ~~~s.openThreads us u.out })).failUsers cls reason us rest

/-- A line stored to leaves every cache (R309); a line in the Accrue state is held by none (R324). -/
def State.uncache (s : State) (a : Nat) : State :=
  { s with lines := modIf (fun (L : Line) => L.addr == a && L.st != .a) (fun (L : Line) => { L with st := .i, owner := none, sharers := [] }) s.lines }

/-- Release records added to a line's entry: a holder has one, at its narrowest level and its latest epoch (R310). -/
def addRecs (old new : List RelRec) : List RelRec :=
  new.foldl (fun rs r =>
    let low := (rs.filter fun q => q.dev == r.dev && q.core == r.core).foldl (fun l q => min l q.level) r.level
    (rs.filter fun q => !(q.dev == r.dev && q.core == r.core)) ++ [{ r with level := low }]) old

/-- Release records put into a line's entry (R310). -/
def State.putRecs (s : State) (a : Nat) (rs : List RelRec) : State :=
  if rs.isEmpty then s else s.modLine a fun L => { L with recs := addRecs L.recs rs }

/-! ## Contributions applied at the home -/

/-- A contribution to a line in A forces its merge (R324). -/
def Line.forcedBy (L : Line) : Contrib → Bool
  | .deposit op det _ _ _ => L.op != op || L.det != det || L.merging.isSome
  | _ => true

/-- The bytes of a line that the stores of one instruction write, as a bit each. -/
def coverOf (out : Nat) (xs : List (Contrib × QUser)) : Nat :=
  xs.foldl (fun m x => match x.1 with | .bytes off data => if x.2.out == out then m ||| (2 ^ data.length - 1) * 2 ^ off else m | _ => m) 0

/-- Some instruction stores the whole line, which clears its poison (R207) (DEDUCED, assumption log 78). -/
def coversLine (xs : List (Contrib × QUser)) : Bool := xs.any fun x => coverOf x.2.out xs == 2 ^ 128 - 1

/-- The issuers among contributions in their order each of which forces a merge that loses a partial (R327). -/
def State.losers (s : State) (d c a : Nat) : List (Contrib × QUser) → List QUser
  | [] => []
  | (k, u) :: rest => (if s.mergeLost a && (s.line a).forcedBy k then [u] else []) ++ (s.applyCont d c a k).losers d c a rest

/-- Contributions of a core and their issuers applied to a line at its home: a merge that loses a partial traps the issuers that forced it (R327)
(DEDUCED, assumption log 68), a whole line stored is poisoned no more (R207), stale copies leave the caches (R309), and the line's entry takes the
release records (R310). -/
def State.applyEntry (s : State) (d c a : Nat) (conts : List Contrib) (us : List QUser) (recs : List RelRec) : State :=
  let lost := s.losers d c a (conts.zip us)
  let s1 := s.applyConts d c a conts
  let s2 := if coversLine (conts.zip us) then s1.setPoison a false else s1
  ((s2.failUsers .uncorrectable 1 lost lost).uncache a).putRecs a recs

/-- A contribution reads the line. -/
def contReads : Contrib → Bool
  | .rmw .. => true
  | _ => false

/-- An earlier request of the same source die to the same line has not been applied (R268); MSEQ counts modulo 2^32 (R262). -/
def State.earlierReq (s : State) (m : Msg) : Bool :=
  s.reqs.any fun r => !r.applied && r.msg.src == m.src && r.msg.die == m.die && r.msg.dst == m.dst && r.msg.line == m.line
    && r.msg.mseq != m.mseq && (m.mseq - r.msg.mseq).toNat < 2 ^ 31

/-- The home's handling of a STORE or ACCRUE_DEPOSIT request (R263, R267, R268); `pre` is what a read of the line at the home does first (R311), by which the
request itself may have been brought to its end. -/
def State.homeStoreWith (pre : State → Nat → Nat → Nat → State) (s : State) (m : Msg) : Applied × State :=
  if s.done.any fun x => sameMsg x.1 m then (.done, s)
  else if s.earlierReq m then (.wait, s)
  else
    let mark (s : State) : State := { s with reqs := modIf (fun r => sameMsg r.msg m) (fun r => { r with applied := true }) s.reqs }
    if m.src != m.dst && !s.remoteAllowed m.ctx m.line then (.denied, mark s)
    else
      let (recs, us) := match s.reqs.find? fun r => sameMsg r.msg m with | some r => (r.recs, r.users) | none => ([], [])
      let s0 := if m.conts.any contReads then pre s m.src m.core m.line else s
      let there (s : State) : Bool := s.reqs.any fun r => sameMsg r.msg m
      if (s0.done.any fun x => sameMsg x.1 m) || (there s && !there s0) then (.done, s0)
      else
      let s1 := mark (s0.applyEntry m.src m.core m.line m.conts us recs)
      (.done, { s1 with done := s1.done ++ [(m, [])] })

/-- A copy of a request on its way. -/
def isCopy (m : Msg) : Instr → Bool
  | .store x | .accrueDeposit x => sameMsg x m
  | _ => false

/-- Copies of a request on their way come to nothing. -/
def State.dropCopies (s : State) (m : Msg) : State := { s with agenda := s.agenda.filter fun x => !isCopy m x.2 }

/-- A write stamped with one epoch comes no later than a release of another, modulo 2^16 (R310). -/
def upTo (stamp epoch : BitVec 16) : Bool := (epoch - stamp).toNat < 2 ^ 15

/-- What a release of a core comes after is not all published: a write of the core itself up to its epoch, or one of another core of the device on its way to
another device, which the release may have to carry (R297, R310) (DEDUCED, assumption log 45). -/
def State.unpublished (s : State) (r : RelRec) : Bool :=
  (s.core r.dev r.core).queue.any (fun e => upTo e.epoch r.epoch)
    || s.reqs.any fun q => q.msg.src == r.dev && (q.msg.core != r.core || upTo q.epoch r.epoch)

/-- The records of a device's releases whose earlier writes are all published are cleared (R310). -/
def State.clearRecs (s : State) (d : Nat) : State :=
  { s with lines := s.lines.map fun L =>
      if L.recs.any fun r => r.dev == d then { L with recs := L.recs.filter fun r => r.dev != d || s.unpublished r } else L }

/-- The response to a request received: the request is over, copies of it still on their way come to nothing (R263), and its ST units fall (R315). -/
def State.endReq (s : State) (m : Msg) : State :=
  let us := match s.reqs.find? fun r => sameMsg r.msg m with | some r => r.users | none => []
  let s1 : State := { s.dropCopies m with reqs := s.reqs.filter (fun r => !sameMsg r.msg m), done := s.done.filter (fun x => !sameMsg x.1 m) }
  (s1.lowerSt us).clearRecs m.src

/-- A request fails: its issuers are told and it is over (R264, R267, R316). -/
def State.failReq (s : State) (m : Msg) (cls : TrapClass) (reason : Nat) : State :=
  let us := match s.reqs.find? fun r => sameMsg r.msg m with | some r => r.users | none => []
  (s.failUsers cls reason us us).endReq m

/-- The source gives a request up (R264): it fails, unless its home has applied it, whose answer then ends it, since no failed write is ever read (R316)
(DESIGN CHOICE, assumption log 77). -/
def State.giveUp (s : State) (m : Msg) (reason : Nat) : State :=
  if s.reqs.any fun r => sameMsg r.msg m && r.applied then s.endReq m else s.failReq m .fabric reason

/-- A request that is still open brought to its end: applied and answered, refused, or failed for want of a route (R264, R267). -/
def State.settleReqWith (pre : State → Nat → Nat → Nat → State) (s : State) (m : Msg) : State :=
  if !(s.reqs.any fun r => sameMsg r.msg m) then s
  else if !s.reaches m.src m.dst then s.giveUp m 3
  else match s.homeStoreWith pre m with
    | (.done, s1) => s1.endReq m
    | (.denied, s1) => s1.failReq m .memoryAccess 15
    | (.wait, s1) => s1

/-- Every request that a device has on its way brought to its end, in the order in which they were sent (R309 level 3). -/
def State.drainWith (pre : State → Nat → Nat → Nat → State) (s : State) (d : Nat) : State :=
  (s.reqs.filter fun r => r.msg.src == d).foldl (fun s r => s.settleReqWith pre r.msg) s

/-- The requests of a device to one line brought to their ends (R268, R297, R309) (DEDUCED, assumption log 29). -/
def State.drainLineWith (pre : State → Nat → Nat → Nat → State) (s : State) (d a : Nat) : State :=
  (s.reqs.filter fun r => r.msg.src == d && r.msg.line == a).foldl (fun s r => s.settleReqWith pre r.msg) s

/-- A contribution is an Accrue deposit. -/
def contDeposits : Contrib → Bool
  | .deposit .. => true
  | _ => false

/-- The message that carries contributions: STORE or ACCRUE_DEPOSIT (R260, R323). -/
def requestOf (m : Msg) : Instr := if m.conts.any contDeposits then .accrueDeposit m else .store m

/-- One request sent to another device, on the route that its line has now (R259, R262, R263). -/
def State.sendStore (s : State) (d c : Nat) (e : QEntry) (conts : List Contrib) (users : List QUser) : State :=
  let (n, s1) := s.nextMseq d (c / 64) (devOf e.line)
  let u := users.headD { path := ⟨0, 0, 0⟩ }
  let m : Msg := { src := d, die := c / 64, dst := devOf e.line, mseq := n, line := e.line, core := c, ctx := u.ctx, conts, path := u.path }
  let route := (s.route d (devOf e.line) e.line).getD []
  ({ s1 with reqs := s1.reqs ++ [{ msg := m, at_ := s.clk, users, recs := e.recs, epoch := e.epoch, route, width := s.widthOf route, sync := e.sync }] } : State).later s.clk
    (requestOf m)

/-- Contributions in their order, cut where the context of their issuer or the kind of their message changes (R260, R267). -/
def ctxRuns : List (Contrib × QUser) → List (List (Contrib × QUser))
  | [] => []
  | x :: xs =>
    match ctxRuns xs with
    | (y :: ys) :: rest =>
      if y.2.ctx == x.2.ctx && contDeposits y.1 == contDeposits x.1 then (x :: y :: ys) :: rest else [x] :: (y :: ys) :: rest
    | rest => [x] :: rest

/-- Some request to the line has gone another route than the line has now; it is answered before a new one is sent (R259). -/
def State.routeChanged (s : State) (d a : Nat) : Bool :=
  s.reqs.any fun r => r.msg.src == d && r.msg.line == a && r.route != (s.route d (devOf a) a).getD []

/-- One entry of a core's queue published, if it is still there (R276, R309): applied at the home, or sent as requests to another device. -/
def State.publishWith (pre : State → Nat → Nat → Nat → State) (s : State) (d c : Nat) (old : QEntry) : State :=
  match (s.core d c).queue.find? fun q => q.line == old.line with
  | none => s
  | some e =>
  let s0 := s.modCore d c fun x => { x with queue := x.queue.filter fun q => q.line != e.line }
  if devOf e.line == d then
    let s1 := if e.conts.any contReads then pre s0 d c e.line else s0
    ((s1.applyEntry d c e.line e.conts e.users e.recs).lowerSt e.users).clearRecs d
  else
    let s1 := if s0.routeChanged d e.line then s0.drainLineWith pre d e.line else s0
    (ctxRuns (e.conts.zip e.users)).foldl (fun s r => s.sendStore d c e (r.map fun x => x.1) (r.map fun x => x.2)) s1

/-- Every entry of a core's queue published, oldest first. -/
def State.publishAllWith (pre : State → Nat → Nat → Nat → State) (s : State) (d c : Nat) : State :=
  (s.core d c).queue.foldl (fun s e => s.publishWith pre d c e) s

/-- A release's record forced, if it is still there: its holder publishes what it has issued, and the record is cleared (R311). -/
def State.forceRecWith (pre : State → Nat → Nat → Nat → State) (s : State) (a : Nat) (r : RelRec) : State :=
  if !(s.line a).recs.contains r then s
  else
    let s1 := s.modLine a fun L => { L with recs := L.recs.filter fun q => q != r }
    (((s1.publishAllWith pre r.dev r.core).drainWith pre r.dev).clearRecs r.dev)

/-- The forced publish of a line's records that lie outside the reach of core `c` of device `d` (R311). -/
def State.forceWith (pre : State → Nat → Nat → Nat → State) (s : State) (d c a : Nat) : State :=
  ((s.line a).recs.filter fun r => r.dev != d || (r.level == 1 && r.core != c)).foldl (fun s r => s.forceRecWith pre a r) s

/-- The forced publish on behalf of a reduction that another forced publish applies, which may apply more of them; the first number bounds how deep. -/
def State.forceDeep : Nat → State → Nat → Nat → Nat → State
  | 0, s, _, _, _ => s
  | k + 1, s, d, c, a => s.forceWith (State.forceDeep k) d c a

/-- Release records on lines, in queues and in requests: each of them can be forced once. -/
def State.recCount (s : State) : Nat :=
  (s.lines.map fun L => L.recs.length).sum + ((s.cores.flatMap fun k => k.queue).map fun e => e.recs.length).sum + (s.reqs.map fun r => r.recs.length).sum

/-- The forced publish on behalf of a reduction. -/
def State.forceRed (s : State) (d c a : Nat) : State := State.forceDeep (s.recCount + 1) s d c a

/-- The home's handling of a request, a reduction's read among them. -/
def State.homeStore (s : State) (m : Msg) : Applied × State := s.homeStoreWith State.forceRed m
/-- A device's requests brought to their ends. -/
def State.drain (s : State) (d : Nat) : State := s.drainWith State.forceRed d
/-- A device's requests to a line brought to their ends. -/
def State.drainLine (s : State) (d a : Nat) : State := s.drainLineWith State.forceRed d a
/-- One entry of a core's queue published. -/
def State.publish (s : State) (d c : Nat) (e : QEntry) : State := s.publishWith State.forceRed d c e
/-- Every entry of a core's queue published. -/
def State.publishAll (s : State) (d c : Nat) : State := s.publishAllWith State.forceRed d c
/-- A record forced. -/
def State.forceRec (s : State) (a : Nat) (r : RelRec) : State := s.forceRecWith State.forceRed a r
/-- The forced publish of R311. -/
def State.force (s : State) (d c a : Nat) : State := s.forceWith State.forceRed d c a

/-- A core's entry of a line published, and brought to its end at a home on another device (R309). -/
def State.publishLine (s : State) (d core a : Nat) : State :=
  let s1 := match (s.core d core).queue.find? fun e => e.line == a with
    | some e => s.publish d core e
    | none => s
  if devOf a == d then s1 else s1.drainLine d a

/-- A core's releases' own writes performed, in its queue and on their way: in the order of R299 they come before a later synchronising read of the core. -/
def State.syncFirst (s : State) (d c : Nat) : State :=
  let s1 := ((s.core d c).queue.filter fun e => e.sync).foldl (fun s e => s.publishLine d c e.line) s
  (s1.reqs.filter fun r => r.msg.src == d && r.msg.core == c && r.sync).foldl (fun s r => s.drainLine d r.msg.line) s1

/-- The earlier writes of a core brought to the level of a release (R309); at level 3 with those of the device's other cores that releases have published. -/
def State.release (s : State) (d c level : Nat) : State :=
  match level with
  | 0 | 1 => s
  | 2 => s.publishAll d c
  | _ => (s.publishAll d c).drain d

/-- Lines with more than four records force the oldest (R310). -/
def State.trimRecs (s : State) : State :=
  (s.lines.filter fun L => 4 < L.recs.length).foldl (fun s L => (L.recs.take (L.recs.length - 4)).foldl (fun s r => s.forceRec L.addr r) s) s

/-- The directory's entry of a line evicted: its records are forced and the copies of its line are invalidated (R266, R310); a line in A stays. -/
def State.evictLine (s : State) (a : Nat) : State :=
  if (s.line a).st == .a then s
  else
    let s1 := (s.line a).recs.foldl (fun s r => s.forceRec a r) s
    { s1 with lines := s1.lines.filter fun L => L.addr != a || L.st == .a || !L.recs.isEmpty }

/-- The contributions of a core to a line of its device that are not published. -/
def State.pendingConts (s : State) (d c a : Nat) : List Contrib := (((s.core d c).queue.find? fun e => e.line == a).map fun e => e.conts).getD []

/-- A die of another device that reads a line is among its holders (R266). -/
def State.noteSharer (s : State) (d c a : Nat) : State :=
  if devOf a == d || (s.line a).st == .a then s
  else
    let h := 4 * d + min (c / 64) 3
    if (s.line a).sharers.contains h then s
    else s.modLine a fun L => { L with st := if L.owner.isSome then .o else .s, sharers := L.sharers ++ [h] }

/-- A line made ready for a read or RMW by a core (R276, R311, R324): what the core itself has to see at the home reaches it first — its deposits and
reductions, and whatever it has for a line of another device —, other cores' releases are forced, and an Accrue episode is merged. -/
def State.reach (s : State) (d c a : Nat) : State :=
  let own := match (s.core d c).queue.find? fun e => e.line == a with
    | some e => devOf a != d || e.conts.any fun k => match k with | .bytes .. => false | _ => true
    | none => devOf a != d
  (((if own then s.publishLine d c a else s).force d c a).mergeLine a).noteSharer d c a

/-- The bytes that a core reads of a line made ready: the home's bytes under its own pending writes (R309). -/
def State.coreBytes (s : State) (d c a n : Nat) : List Byte :=
  match s.pendingConts d c (lineOf a) with
  | [] => s.bytes a n
  | cs => ((cs.foldl contOnLine (s.bytes (lineOf a) 128)).drop (a % 128)).take n

/-- The line is poisoned for a reader of the core: a pending store of the whole line has cleared it (R207, R416). -/
def State.poisoned (s : State) (d c a : Nat) : Bool :=
  s.poison.contains (lineOf a) && !(match (s.core d c).queue.find? fun e => e.line == lineOf a with
    | some e => coversLine (e.conts.zip e.users)
    | none => false)

/-- A line made ready for an agent that is no core, as the walker and the dobby are: releases outside its reach are forced (R311) and an Accrue episode is
merged (R324). -/
def State.settleHome (s : State) (d a : Nat) : State := (s.force d 256 (lineOf a)).mergeLine (lineOf a)

/-- The release record that a core's write leaves: its own `.rel` at level 1 or 2, or without one the core's latest `fence.rel` (R310). -/
def Core.records (Q : Core) (rel : Nat) : List RelRec :=
  let level := if rel == 0 then Q.fenced else rel
  if level == 1 || level == 2 then [{ core := Q.n, dev := Q.dev, epoch := Q.epoch, level }] else []

/-- A core's epoch raised, as every release of level 1 or 2 raises it (R310). -/
def State.raiseEpoch (s : State) (d c : Nat) : State := s.modCore d c fun x => { x with epoch := x.epoch + 1 }

/-- A contribution accepted into a core's queue; a full queue publishes its oldest entry first (R276). -/
def State.enqueue (s : State) (d c a : Nat) (k : Contrib) (u : QUser) (rel : Nat) : State :=
  let Q := s.core d c
  let recs := Q.records rel
  let s1 := if 64 ≤ Q.queue.length && !(Q.queue.any fun e => e.line == a) then
      (match Q.queue with | e :: _ => s.publish d c e | [] => s) else s
  s1.modCore d c fun x =>
    { x with epoch := if rel == 1 || rel == 2 then x.epoch + 1 else x.epoch,
             queue := upsert (fun e => e.line == a) { line := a, at_ := s.clk, epoch := x.epoch }
               (fun e => { e with conts := e.conts ++ [k], users := e.users ++ [u], recs := addRecs e.recs recs, sync := e.sync || rel != 0 }) x.queue }

/-- The contributions of one thread's access `n` made: its ST units fall once none of them is on its way any longer (R129). -/
def State.asAccess (s : State) (u : QUser) (go : State → State) : State :=
  let s1 := go { s with storing := some u.n }
  ({ s1 with storing := none } : State).lowerSt [u]

/-! ## Page tables (R190 to R195, R397) -/

/-- Bits 63:54 of an address are equal (R190). -/
def canonical (x : DWord) : Bool := x.extractLsb' 54 10 == 0 || x.extractLsb' 54 10 == 0x3FF

/-- Fields of a page-table entry (R193). -/
def pteV (e : DWord) : Bool := e.getLsbD 0
/-- LEAF. -/
def pteLeaf (e : DWord) : Bool := e.getLsbD 1
/-- R. -/
def pteR (e : DWord) : Bool := e.getLsbD 2
/-- W. -/
def pteW (e : DWord) : Bool := e.getLsbD 3
/-- X. -/
def pteX (e : DWord) : Bool := e.getLsbD 4
/-- SUP. -/
def pteSup (e : DWord) : Bool := e.getLsbD 5
/-- G. -/
def pteG (e : DWord) : Bool := e.getLsbD 6
/-- A. -/
def pteA (e : DWord) : Bool := e.getLsbD 7
/-- D. -/
def pteD (e : DWord) : Bool := e.getLsbD 8
/-- TWIN. -/
def pteTwin (e : DWord) : Bool := e.getLsbD 9
/-- ACCRUE. -/
def pteAccrue (e : DWord) : Bool := e.getLsbD 10
/-- CPOL. -/
def pteCpol (e : DWord) : Nat := (e.extractLsb' 11 2).toNat
/-- FRAME as a physical domain address. -/
def pteFrame (e : DWord) : Nat := (e.extractLsb' 16 40).toNat * 65536
/-- FMT. -/
def pteFmt (e : DWord) : Nat := (e.extractLsb' 56 4).toNat
/-- GEOM. -/
def pteGeom (e : DWord) : Bool := e.getLsbD 60

/-- ENTRY_INVALID (R194). -/
def pteInvalid (level : Nat) (e : DWord) : Bool :=
  let f := pteFrame e
  let z := zoneOf (localOf f)
  e.extractLsb' 13 3 != 0 || e.extractLsb' 61 3 != 0
    || (!pteLeaf e && (level == 2 || e.extractLsb' 2 14 != 0 || e.extractLsb' 56 5 != 0))
    || (pteLeaf e && ((level == 0 && e.extractLsb' 16 26 != 0) || (level == 1 && e.extractLsb' 16 13 != 0)
        || z == .beam || z == .spad || (z == .mmio && !(pteSup e && pteCpol e == 3))))

/-- What a walk finds: the leaf with its level's block size and where it stands, or the reason of the translation fault (R391). -/
inductive Walk where
  | leaf (bits : Nat) (pte : DWord) (at_ : Nat)
  | fault (reason : Nat)
  deriving DecidableEq, Repr

/-- The 64-bit entry at a physical address. -/
def State.entry (s : State) (a : Nat) : DWord := BitVec.ofNat 64 (leNat (s.bytes a 8))

/-- The walk from a level's table (R191, R194, R71). -/
def State.walkFrom (s : State) (x : DWord) (table : Nat) : Nat → Walk
  | 0 => .fault 2
  | k + 1 =>
    let level := 2 - k
    let bits := 16 + 13 * k
    let a := table + 8 * (x.toNat / 2 ^ bits % 8192)
    let e := s.entry a
    if !pteV e then .fault 1
    else if pteInvalid level e then .fault 2
    else if pteLeaf e then (if fmtLegal (pteFmt e) (pteGeom e) then .leaf bits e a else .fault 3)
    else s.walkFrom x (pteFrame e) k

/-- The walk of an address of a context (R191). -/
def State.walk (s : State) (d c : Nat) (x : DWord) : Walk := s.walkFrom x (s.ctx d c).ptbase.toNat 3

/-- A translation: the leaf in use, its block size, where the leaf stands, and the physical domain address. -/
structure Xlat where
  pa   : Nat
  pte  : DWord
  bits : Nat
  at_  : Nat
  deriving DecidableEq, Repr

/-- The physical address under a leaf (R191). -/
def xlatOf (x : DWord) (bits : Nat) (pte : DWord) (at_ : Nat) : Xlat :=
  { pa := pteFrame pte / 2 ^ bits * 2 ^ bits + x.toNat % 2 ^ bits, pte, bits, at_ }

/-- A held translation of an address (R397). -/
def State.tlbHit (s : State) (d c : Nat) (x : DWord) : Option Tlb :=
  s.tlb.find? fun t => t.dev == d && t.ctx == c && (x.toNat % 2 ^ 55) / 2 ^ t.bits == t.base / 2 ^ t.bits

/-- The entries that a walk reads made ready for it (R311, R324). -/
def State.settleWalk (s : State) (d : Nat) (x : DWord) (table : Nat) : Nat → State
  | 0 => s
  | k + 1 =>
    let a := table + 8 * (x.toNat / 2 ^ (16 + 13 * k) % 8192)
    let s1 := s.settleHome d a
    let e := s1.entry a
    if !pteV e || pteInvalid (2 - k) e || pteLeaf e then s1 else s1.settleWalk d x (pteFrame e) k

/-- The translation of an address: a held one, or a walk, which the TLB then holds (R397). -/
def State.translate (s : State) (d c : Nat) (x : DWord) : Except Nat Xlat × State :=
  match s.tlbHit d c x with
  | some t => (.ok (xlatOf x t.bits t.pte t.at_), s)
  | none =>
    let s := s.settleWalk d x (s.ctx d c).ptbase.toNat 3
    match s.walk d c x with
    | .fault r => (.error r, s)
    | .leaf bits e a =>
      (.ok (xlatOf x bits e a), { s with tlb := s.tlb ++ [⟨d, c, x.toNat % 2 ^ 55 / 2 ^ bits * 2 ^ bits, bits, e, a⟩] })

/-- The translations of one leaf removed from the TLBs. -/
def State.dropTlb (s : State) (d c at_ : Nat) : State := { s with tlb := s.tlb.filter fun t => !(t.dev == d && t.ctx == c && t.at_ == at_) }

/-- A set, and for a write D set, in the leaf before the access is performed (R195): whether the entry still stands.  A leaf on another device whose
remote-write right the context lacks is left as it is (R267) (DESIGN CHOICE, assumption log 91). -/
def State.touch (s : State) (d c : Nat) (t : Xlat) (write : Bool) : Bool × State :=
  if (pteA t.pte && (!write || pteD t.pte)) || s.refused d c t.at_ then (true, s)
  else
    let s := s.settleHome d t.at_
    let e := s.entry t.at_
    if pteV e && pteLeaf e && pteFrame e == pteFrame t.pte then
      let set := (0x80 : DWord) ||| (if write then 0x100 else 0)
      let s1 := (s.setBytes t.at_ (leBytes 8 (e ||| set).toNat)).uncache (lineOf t.at_)
      (true, { s1 with tlb := s1.tlb.map fun x => if x.dev == d && x.ctx == c && x.at_ == t.at_ then { x with pte := x.pte ||| set } else x })
    else (false, s.dropTlb d c t.at_)

/-- The A and D bits that a held translation shows set in its leaf in memory, if the entry still stands; else the translation is discarded (R195, R267). -/
def State.markLeaf (s : State) (e : Tlb) : State :=
  if s.refused e.dev e.ctx e.at_ then s
  else
    let s1 := s.settleHome e.dev e.at_
    let old := s1.entry e.at_
    let new := old ||| (e.pte &&& 0x180)
    if !(pteV old && pteLeaf old && pteFrame old == pteFrame e.pte) then s1.dropTlb e.dev e.ctx e.at_
    else if new == old then s1
    else (s1.setBytes e.at_ (leBytes 8 new.toNat)).uncache (lineOf e.at_)

/-- Two translations are of one block through one leaf. -/
def Tlb.same (a b : Tlb) : Bool := a.dev == b.dev && a.ctx == b.ctx && a.base == b.base && a.bits == b.bits && a.at_ == b.at_
/-- Those of some translations that still stand among others, as they stand there. -/
def standing (old now : List Tlb) : List Tlb := old.filterMap fun e => now.find? e.same

/-- The translations that the checks of an access have found in another state held, with their A and D bits set (R195, R205). -/
def State.adopt (s t : State) : State :=
  (t.tlb.filter fun e => !s.tlb.contains e).foldl (fun s e => s.markLeaf e) { s with tlb := t.tlb }

/-- An address translated and, if the checks of the access allow it, its leaf's A and for a write D set (R195): where the entry has changed since it was
read, the address is walked again. -/
def State.access (s : State) (d c : Nat) (x : DWord) (write : Bool) (allow : Xlat → Bool) : Except Nat Xlat × State :=
  match s.translate d c x with
  | (.error r, s1) => (.error r, s1)
  | (.ok t, s1) =>
    if !allow t then (.ok t, s1)
    else match s1.touch d c t write with
    | (true, s2) => (.ok t, s2)
    | (false, s2) =>
      match s2.translate d c x with
      | (.error r, s3) => (.error r, s3)
      | (.ok t, s3) => (.ok t, if allow t then (s3.touch d c t write).2 else s3)

end Sys2Proof.Machine
end

