-- ==== Sys2Proof/Machine/Mmio.lean ====
section
/-! DEFINITION. Sys2Proof/Machine/Mmio.lean: the registers of the MMIO window as they read and as a write leaves them (R432 to R438) -/

namespace Sys2Proof.Machine

/-- The 64-bit word at an offset of GCTL (R433); WAKE and reserved words read 0. -/
def Device.gctl (D : Device) (o : Nat) : Nat :=
  match o with
  | 0x00 => D.devid
  | 0x08 => D.st
  | 0x18 => D.rwbase.toNat
  | 0x20 => D.accspill.toNat
  | 0x28 => D.accmib.toNat
  | 0x30 => D.rten.toNat
  | _ => 0

/-- The 64-bit word that the device holds at an aligned offset of the window (R432); the word at LINK + 4 KiB × n is the command word of link n. -/
def Device.mmioHeld (D : Device) (o : Nat) : Nat :=
  if o < 0x10000 then D.gctl o
  else if o < 0x11000 then (Sparse.get D.root ((o - 0x10000) / 8)).toNat
  else if 0x20000 ≤ o && o < 0x40000 then (Sparse.get D.mode ((o - 0x20000) / 8)).toNat
  else if 0x40000 ≤ o && o < 0x42000 then leNat (Sparse.range D.draftq (o - 0x40000) 8)
  else if 0x50000 ≤ o && o < 0x60000 then
    (Sparse.get D.err ((o - 0x50000) / 4)).toNat + 2 ^ 32 * (Sparse.get D.err ((o - 0x50000) / 4 + 1)).toNat
  else if 0x60000 ≤ o && o < 0x61000 then leNat (Sparse.range D.attest (o - 0x60000) 8)
  else if 0x100000 ≤ o && o < 0x127000 && o % 4096 == 0 then
    ((D.links.find? fun l => l.n == (o - 0x100000) / 4096).map fun l => l.cmd.toNat).getD 0
  else 0

/-- The 64-bit word that an aligned offset reads as: the reserved bits of a root-table entry read zero (R8, R433). -/
def Device.mmioWord (D : Device) (o : Nat) : Nat :=
  if 0x10000 ≤ o && o < 0x11000 && o % 16 == 8 then D.mmioHeld o % 4096 else D.mmioHeld o

/-- The `n` bytes at an aligned offset of a device's MMIO window. -/
def State.mmioBytes (s : State) (d o n : Nat) : List Byte :=
  (List.range n).map fun i => BitVec.ofNat 8 ((s.dev d).mmioWord ((o + i) / 8 * 8) / 2 ^ (8 * ((o + i) % 8)))

/-- The MMIO offset of a physical address, if it lies in the window. -/
def mmioOff (pa : Nat) : Option Nat := if zoneOf (localOf pa) == .mmio then some (localOf pa - 0x50000000000) else none

/-- GCTL after a write of a word (R433). -/
def Device.putGctl (D : Device) (o new : Nat) : Device :=
  match o with
  | 0x00 => if D.st < 5 then { D with devid := new % 4096, named := true } else D
  | 0x18 => { D with rwbase := BitVec.ofNat 64 new }
  | 0x20 => { D with accspill := BitVec.ofNat 64 new }
  | 0x28 => { D with accmib := BitVec.ofNat 32 new }
  | 0x30 => if D.st == 6 then { D with rten := new.testBit 0 } else D
  | _ => D

/-- MODE after a write of its word `k`: the flags, SVCNODE, FVEC with POSTERR (R435). -/
def Device.putMode (D : Device) (k new : Nat) : Device :=
  let old := (Sparse.get D.mode k).toNat
  let set (v : Nat) : Device := { D with mode := Sparse.put D.mode k (BitVec.ofNat 64 v) }
  match k % 4 with
  | 0 => set (if k == 0 then new % 64 else new % 8 + bitsOf new 5 4 * 16)
  | 1 => set new
  | 2 => set (new % 2048 + (if old.testBit 16 && !new.testBit 16 then 65536 else 0))
  | _ => D

/-- The registers of a device after a write of up to eight bytes within one 64-bit word of the window; reserved offsets and read-only fields ignore it (R432, R439). -/
def Device.mmioSet (D : Device) (o : Nat) (bs : List Byte) : Device :=
  let w := o / 8 * 8
  let held := D.mmioHeld w
  let old := leBytes 8 (if 0x20000 ≤ w && w < 0x40000 && w % 32 == 16 then held % 65536 else held)
  let new := leNat ((old.take (o % 8) ++ bs ++ old.drop (o % 8 + bs.length)).take 8)
  if o < 0x10000 then D.putGctl w new
  else if o < 0x11000 then (if D.st == 6 then { D with root := Sparse.put D.root ((w - 0x10000) / 8) (BitVec.ofNat 64 new) } else D)
  else if 0x20000 ≤ o && o < 0x40000 then (if D.st == 6 then D.putMode ((w - 0x20000) / 8) new else D)
  else if 0x40000 ≤ o && o < 0x42000 then (if D.st == 6 then { D with draftq := Sparse.putRange D.draftq (o - 0x40000) bs } else D)
  else if 0x60000 ≤ o && o < 0x60040 then { D with attest := Sparse.putRange D.attest (o - 0x60000) bs }
  else if w == 0x60FF0 then { D with attest := Sparse.putRange D.attest 0xFF0 (leBytes 8 new) }
  else if 0x100000 ≤ o && o < 0x127000 && w % 4096 == 0 then
    { D with links := upsert (fun l => l.n == (o - 0x100000) / 4096) { n := (o - 0x100000) / 4096 } (fun l => { l with cmd := BitVec.ofNat 64 new }) D.links }
  else D

/-- An element written to a device's registers by a weft or an engine, all its words at once (R194, R198, R208); what the device does on account of
them follows in a step of its own (DESIGN CHOICE, assumption log 79). -/
def State.mmioWrite (s : State) (d o : Nat) (bs : List Byte) : State :=
  (List.range ((bs.length + 7) / 8)).foldl (fun s k =>
    let part := (bs.drop (8 * k)).take 8
    (s.modDev d fun D => D.mmioSet (o + 8 * k) part).later s.clk (.mmioRegisterWrite d (o + 8 * k) part.length (BitVec.ofNat 64 (leNat part)) false)) s

end Sys2Proof.Machine
end

