-- ==== Sys2Proof/Machine/IntOps.lean ====
section
/-! DEFINITION. Sys2Proof/Machine/IntOps.lean: the integer and logic instructions on one element (R151 to R163).  An element is a number
below 2^w. -/

namespace Sys2Proof

/-- The integer type a code names (R51). -/
def intTy (hi : Nat) : IntTy :=
  match hi with
  | 0 => .i32 | 1 => .n32 | 2 => .i64 | 3 => .n64 | 4 => .i16x2 | 5 => .n16x2 | 6 => .b32 | _ => .b64

/-- Types that begin with i read as two's complement (R148). -/
def IntTy.signed : IntTy → Bool
  | .i32 | .i64 | .i16x2 => true
  | _ => false

/-- The element width in bits (R148). -/
def IntTy.width : IntTy → Nat
  | .i64 | .n64 | .b64 => 64
  | .i16x2 | .n16x2 => 16
  | _ => 32

/-- A 64-bit type, whose elements are register pairs (R46). -/
def IntTy.wide (t : IntTy) : Bool := t.width == 64

/-- Two 16-bit elements per register (R148). -/
def IntTy.packed (t : IntTy) : Bool := t.width == 16

/-- The number an element stands for. -/
def intVal (sgn : Bool) (w x : Nat) : Int := if sgn && x.testBit (w - 1) then (x : Int) - (2 ^ w : Nat) else x

/-- The element that an exact value gives (R151). -/
def intOut (sgn sat : Bool) (w : Nat) (x : Int) : Nat :=
  let lo : Int := if sgn then -(2 ^ (w - 1) : Nat) else 0
  let hi : Int := if sgn then (2 ^ (w - 1) : Nat) - 1 else (2 ^ w : Nat) - 1
  let y := if sat then max lo (min hi x) else x
  (y % (2 ^ w : Nat)).toNat

/-- The exact value x of R153. -/
def intExact (i : Form) (w : Nat) (a b d : Int) : Int :=
  match i with
  | .add => a + b
  | .sub => a - b
  | .mul => a * b
  | .mulhi => a * b / (2 ^ w : Nat)
  | .mad => a * b + d
  | .abs => if a < 0 then -a else a
  | .neg => -a
  | .min => min a b
  | .max => max a b
  | .clamp => min (max d a) b
  | _ => 0

/-- div and rem with their exceptional cases (R155). -/
def intDivRem (isRem sgn : Bool) (w : Nat) (a b : Int) : Int :=
  if b == 0 then
    if isRem then a
    else if !sgn then (2 ^ w : Nat) - 1
    else if 0 ≤ a then (2 ^ (w - 1) : Nat) - 1 else -(2 ^ (w - 1) : Nat)
  else if isRem then a.tmod b else a.tdiv b

/-- One element, of the type's width, of R153 or R155. -/
def intElem1 (i : Form) (sgn sat : Bool) (w a b d : Nat) : Nat :=
  let v := intVal sgn w
  match i with
  | .div => intOut sgn false w (intDivRem false sgn w (v a) (v b))
  | .rem => intOut sgn false w (intDivRem true sgn w (v a) (v b))
  | _ => intOut sgn sat w (intExact i w (v a) (v b) (v d))

/-- A function of elements applied to a register or pair, once or to each half (R148). -/
def onInts (t : IntTy) (g : Nat → Nat → Nat → Nat) (a b d : Nat) : Nat :=
  if t.packed then
    g (a % 65536) (b % 65536) (d % 65536) + 65536 * g (a / 65536 % 65536) (b / 65536 % 65536) (d / 65536 % 65536)
  else g a b d

/-- Bytes read as I8 or N8. -/
def dpByte (sgn : Bool) (x k : Nat) : Int := intVal sgn 8 (x / 2 ^ (8 * k) % 256)

/-- A group 0x1 instruction other than addc and subb on one register or pair (R153 to R157). -/
def intElem (i : Form) (t : IntTy) (sat : Bool) (a b d : Nat) : Nat :=
  let sgn := t.signed
  let v32 (x : Nat) := intVal sgn 32 (x % 2 ^ 32)
  match i with
  | .mulw => intOut sgn false 64 (v32 a * v32 b)
  | .madw => intOut sgn sat 64 (v32 a * v32 b + intVal sgn 64 d)
  | .sad =>
    let dist (w x y : Nat) : Int := ((intVal sgn w x - intVal sgn w y).natAbs : Nat)
    let s := if t.packed then dist 16 (a % 65536) (b % 65536) + dist 16 (a / 65536 % 65536) (b / 65536 % 65536) else dist 32 a b
    intOut sgn sat 32 (v32 d + s)
  | .dp4 =>
    let p (k : Nat) := dpByte sgn a k * dpByte sgn b k
    intOut sgn sat 32 (v32 d + p 0 + p 1 + p 2 + p 3)
  | _ => onInts t (intElem1 i sgn sat t.width) a b d

/-- The selected bits of LUT at bit `k` (R159). -/
def lopBit (lut a b d k : Nat) : Bool :=
  lut.testBit (4 * (d.testBit k).toNat + 2 * (b.testBit k).toNat + (a.testBit k).toNat)

/-- A number from its low `k` bits. -/
def fromBits (p : Nat → Bool) : Nat → Nat
  | 0 => 0
  | k + 1 => fromBits p k + (if p k then 2 ^ k else 0)

/-- How many of the low `k` bits satisfy `p`. -/
def countBits (p : Nat → Bool) : Nat → Nat
  | 0 => 0
  | k + 1 => countBits p k + (if p k then 1 else 0)

/-- a rotated left by n < w. -/
def rotl (w a n : Nat) : Nat := (a * 2 ^ n % 2 ^ w) + a / 2 ^ (w - n)

/-- bfx (R161). -/
def bfxElem (sgn : Bool) (w a b : Nat) : Nat :=
  let p := min (b % 256) w
  let l := min (b / 256 % 256) w
  let f : Int := intVal sgn w a / (2 ^ p : Nat)
  let low := (f % (2 ^ l : Nat)).toNat
  if l == 0 then 0 else intOut sgn false w (intVal sgn l low)

/-- Byte `i` of bperm (R162). -/
def bpermByte (a b i : Nat) : Nat :=
  let s := b / 2 ^ (4 * i) % 16
  let byte := a / 2 ^ (8 * (s % 4)) % 256
  match s / 4 with
  | 0 => byte
  | 2 => if 128 ≤ byte then 255 else 0
  | _ => 0

/-- A group 0x2 instruction on one register or pair (R159 to R163); `opt` is MOD[1:0], `lut` the table of lop3. -/
def logicElem (i : Form) (t : IntTy) (opt lut a b d : Nat) : Nat :=
  let w := t.width
  let sgn := t.signed
  let n0 := b % 2 ^ 32
  let n := if opt % 2 == 1 then n0 % w else n0
  match i with
  | .and => a &&& b
  | .or => a ||| b
  | .xor => a ^^^ b
  | .not => 2 ^ w - 1 - a
  | .lop3 => fromBits (lopBit lut a b d) w
  | .shl => if n < w then a * 2 ^ n % 2 ^ w else 0
  | .shr => if n < w then a / 2 ^ n else 0
  | .sar => if n < w then intOut true false w (intVal true w a / (2 ^ n : Nat)) else if a.testBit (w - 1) then 2 ^ w - 1 else 0
  | .rot => let k := n0 % w; rotl w a (if opt % 2 == 1 then (w - k) % w else k)
  | .fsh =>
    let k := d % 2 ^ 32 % w
    let x := a * 2 ^ w + b
    if opt % 2 == 1 then x / 2 ^ k % 2 ^ w else x * 2 ^ k / 2 ^ w % 2 ^ w
  | .bfx => bfxElem sgn w a n0
  | .bfi =>
    let pos := n0 % 256
    let len := n0 / 256 % 256
    fromBits (fun k => if pos ≤ k && k < pos + len then a.testBit (k - pos) else d.testBit k) w
  | .popc => countBits a.testBit w
  | .clz => if a == 0 then w else w - 1 - a.log2
  | .ctz => if a == 0 then w else countBits (fun k => a % 2 ^ (k + 1) == 0) w
  | .brev => fromBits (fun k => a.testBit (w - 1 - k)) w
  | .bperm => bpermByte a b 0 + 2 ^ 8 * bpermByte a b 1 + 2 ^ 16 * bpermByte a b 2 + 2 ^ 24 * bpermByte a b 3
  | .lea =>
    let ext : Int := match t with | .b64 => b | .i64 => intVal true 32 n0 | _ => n0
    ((a + ext * (match opt with | 0 => 1 | 1 => 4 | 2 => 8 | _ => 16)) % (2 ^ 64 : Nat)).toNat
  | _ => 0

end Sys2Proof
end

