-- ==== Sys2Proof/Machine/Flags.lean ====
section
/-! DEFINITION. Sys2Proof/Machine/Flags.lean: the carry predicate (R154), the conditions of compares (R165, R140) and the predicate
instructions (R167).  The VX9 keeps no flag register: a predicate is the only flag, and only addc, subb and shfl.pv write p6 implicitly. -/

namespace Sys2Proof

/-- One element of addc or subb with the carry or borrow in and out (R154). -/
def carryElem (isSub : Bool) (w a b : Nat) (c : Bool) : Nat × Bool :=
  let x : Int := if isSub then (a : Int) - b - (c.toNat : Int) else (a : Int) + b + (c.toNat : Int)
  ((x % (2 ^ w : Nat)).toNat, if isSub then decide (x < 0) else decide ((2 ^ w : Nat) ≤ x))

/-- The chain through the elements of a block, ascending (R154). -/
def carryChain (isSub : Bool) (w : Nat) : List (Nat × Nat) → Bool → List Nat × Bool
  | [], c => ([], c)
  | (a, b) :: xs, c =>
    let (x, c1) := carryElem isSub w a b c
    let (ys, c2) := carryChain isSub w xs c1
    (x :: ys, c2)

/-- icmp (R165) by its condition code (R51). -/
def icmpTest (sgn : Bool) (w cond a b : Nat) : Bool :=
  let x := intVal sgn w a
  let y := intVal sgn w b
  match cond with
  | 0 => x == y
  | 1 => x != y
  | 2 => decide (x < y)
  | 3 => decide (x ≤ y)
  | 4 => decide (y < x)
  | _ => decide (y ≤ x)

/-- The compare of trywait by its code (R140, R51). -/
def tryTest (cmp : Nat) (x v : Word) : Bool :=
  match cmp with
  | 0 => x == v
  | 1 => x != v
  | 2 => decide (x.toInt < v.toInt)
  | 3 => decide (v.toInt ≤ x.toInt)
  | 4 => decide (x.toNat < v.toNat)
  | _ => decide (v.toNat ≤ x.toNat)

/-- pand, por, pxor and pnot (R167). -/
def predElem (i : Form) (a b : Bool) : Bool :=
  match i with
  | .pand => a && b
  | .por => a || b
  | .pxor => a != b
  | _ => !a

end Sys2Proof
end

