-- ==== Sys2Proof/Machine/Regions.lean ====
section
/-! DEFINITION. Sys2Proof/Machine/Regions.lean: the dobby's reads and writes of its structures, the fault buffers and their signal, bins, the
fault record, the start of a region and the dependence walk (R80 to R97, R377, R394 to R400, R442). -/

namespace Sys2Proof.Machine

/-! ## Bins (R92, R93) -/

/-- Bytes of a BIN node's record. -/
def Node.recBytes (N : Node) : Nat := 16 * (N.recsz + 1)
/-- Records that the bin holds: those of the open batch, of closed batches that no group has taken, and of those that a relaunch may need. -/
def Node.held_ (N : Node) : Nat := N.open_.length + (N.closed.filter fun b => !b.taken || b.kept).foldl (fun n b => n + b.recs.length) 0
/-- The records that the bin holds, in arrival order. -/
def Node.records (N : Node) : List Rec := (N.closed.filter fun b => !b.taken || b.kept).flatMap (fun b => b.recs) ++ N.open_
/-- The places of the spill area, one record each from its start (DESIGN CHOICE, assumption log 71). -/
def Node.places (N : Node) : Nat := N.spillkib * 1024 / N.recBytes
/-- The lowest place of the spill area that holds no record of the bin. -/
def Node.freePlace (N : Node) : Option Nat := (List.range N.places).find? fun k => !N.records.any fun x => x.slot == some k
/-- The dobby's own 32 places are taken. -/
def Node.crowded (N : Node) : Bool := 32 ≤ (N.records.filter fun x => x.slot.isNone).length
/-- The dobby's 32 places and the spill area are full. -/
def Node.full (N : Node) : Bool := N.crowded && N.freePlace.isNone

/-- The open batch closed: it becomes a group that waits for placement, with the age of the cycle in which it closed. -/
def State.closeBatch (s : State) (r n : Nat) : State :=
  match s.node? r n with
  | none => s
  | some N =>
    if N.open_.isEmpty then s
    else
      let at_ := match N.expiry with | some e => min e s.clk | none => s.clk
      let b : Batch := { no := N.nbatch, recs := N.open_, at_ }
      let s1 := s.modNode r n fun N =>
        { N with open_ := [], expiry := none, closed := N.closed ++ [b], nbatch := (N.nbatch + 1) % 2 ^ 32, inFlight := N.inFlight + 1 }
      s1.modRegion r fun R => { R with queue := R.queue ++ [{ node := n, gid := b.no, age := at_, batch := some b.no }] }

/-- The open batch whose expiry cycle has passed closed (R93). -/
def State.expireBatch (s : State) (r n : Nat) : State :=
  match s.node? r n with
  | some N => match N.expiry with
    | some e => if e < s.clk then s.closeBatch r n else s
    | none => s
  | none => s

/-- A record joined to the open batch, with its place in the spill area if it has one (R92, R93). -/
def State.binAdd (s : State) (r n : Nat) (data : List Byte) (slot : Option Nat) : State :=
  let s0 := s.expireBatch r n
  match s0.node? r n with
  | none => s0
  | some N =>
    let s1 := s0.modNode r n fun N =>
      { N with open_ := N.open_ ++ [{ seq := N.nrec, data, slot }], nrec := (N.nrec + 1) % 2 ^ 32,
               expiry := if N.open_.isEmpty && N.timer != 0 then some (s.clk + N.timer) else N.expiry }
    if N.coal ≤ N.open_.length then s1.closeBatch r n else s1

/-- A region's node array covers an address: the node's index (R83). -/
def Region.indexOf (R : Region) (va : DWord) : Option Nat :=
  let o := (va - R.nodesAt).toNat
  if R.seen && o % 64 == 0 && o / 64 < R.nnodes then some (o / 64) else none

/-- The node whose descriptor lies at an address, in some region of a context (R83). -/
def State.nodeAt (s : State) (d c : Nat) (va : DWord) : Option (Nat × Nat) :=
  s.regions.findSome? fun R => if R.dev == d && R.ctx == c then (R.indexOf va).map fun i => (R.rid, i) else none

/-! ## Mode records (R435) -/

/-- A bit of a context's mode record. -/
def State.modeBit (s : State) (d c k : Nat) : Bool := (Sparse.get (s.dev d).mode (4 * c)).getLsbD k

/-! ## Translation faults (R398 to R400, R442) -/

/-- The number of an agent in records (R394). -/
def agentCode : Agent → Nat
  | .weft => 0 | .treadle => 1 | .shuttle => 2 | .engine => 3 | .jacquard => 4 | .dobby => 5 | .port => 6

/-- Entries not yet read. -/
def Context.unread (C : Context) : Nat := (C.faults.filter fun e => !e.read).length
/-- `%fltstat` (R399). -/
def Context.fltstat (C : Context) : Word := BitVec.ofNat 32 (C.faults.length % 16 + 16 * (C.unread % 16) + 256 * C.dropped.toNat)
/-- The first three words of a buffer entry (R405). -/
def FaultEntry.words (e : FaultEntry) (c : Nat) : List Word :=
  [BitVec.ofNat 32 (e.access + 4 * agentCode e.agent + 32 * e.reason + e.page % 2 ^ 16 * 65536),
   BitVec.ofNat 32 (e.page / 2 ^ 16), BitVec.ofNat 32 (e.waiters + 65536 * c)]
/-- Word 3 (R405). -/
def Context.word3 (C : Context) : Word := BitVec.ofNat 32 (C.unread % 16 + 16 * C.dropped.toNat)

/-- The little-endian bytes of words. -/
def wordBytes (ws : List Word) : List Byte := ws.flatMap fun w => leBytes 4 w.toNat

/-- The access of a dobby meets a page without a translation: the first one of a step is kept, and the step is taken back (R399)
(DESIGN CHOICE, assumption log 12). -/
def State.dstop (s : State) (d c : Nat) (va : DWord) (access reason : Nat) : State :=
  { s with dfault := some (s.dfault.getD ⟨d, c, va, access, reason⟩) }

/-! ## The dobby's accesses -/

/-- Bits hi:lo of the 64-bit word at a physical address replaced. -/
def State.physBits (s : State) (d a hi lo v : Nat) : State :=
  let s1 := s.settleHome d a
  let x := leNat (s1.bytes a 8)
  (s1.setBytes a (leBytes 8 (x - bitsOf x hi lo * 2 ^ lo + v % 2 ^ (hi + 1 - lo) * 2 ^ lo))).uncache (lineOf a)

/-- Bits hi:lo of the 64-bit word at a virtual address written by the dobby (R399); an address that is not canonical, that no device holds, or
whose line's home denies the context's writes (R267) takes none (DESIGN CHOICE, assumption log 72). -/
def State.dput (s : State) (d c : Nat) (va : DWord) (hi lo v : Nat) : State :=
  if !canonical va then s
  else match s.access d c va true fun x => !s.unmapped x.pa && !s.refused d c x.pa with
    | (.ok x, s1) => if s1.unmapped x.pa || s1.refused d c x.pa then s1 else s1.physBits d x.pa hi lo v
    | (.error r, s1) => s1.dstop d c va 1 r

/-- The dobby's stalled accesses of a context may be tried again (R404); `page` limits them to one page. -/
def State.retryDobby (s : State) (d c : Nat) (page : Option Nat) : State :=
  { s with dstalls := s.dstalls.filter fun w => !(w.dev == d && w.ctx == c && (match page with | none => true | some p => w.page == p)) }

/-- How an access to a structure fails: for good (DESC_ACCESS), or with a translation fault of a page. -/
inductive Dacc where
  | bad
  | fault (va : DWord) (reason : Nat)
  deriving DecidableEq, Repr

/-- Pages `k` of `n` from an address checked (R84, DESC_ACCESS). -/
def State.dcheckPages (s : State) (d c : Nat) (va : DWord) (write : Bool) : Nat → Except Dacc Unit × State
  | 0 => (.ok (), s)
  | n + 1 =>
    if !canonical va then (.error .bad, s)
    else match s.translate d c va with
      | (.error r, s1) => (.error (.fault va r), s1)
      | (.ok x, s1) =>
        if !pteR x.pte || (write && !pteW x.pte) || s1.unmapped x.pa then (.error .bad, s1)
        else s1.dcheckPages d c (BitVec.ofNat 64 ((va.toNat / 65536 + 1) * 65536)) write n

/-- The lines of `n` bytes settled at their homes, as the dobby's read of them asks (R311, R324). -/
def State.dsettle (s : State) (d c : Nat) (va : DWord) (n : Nat) : State :=
  (List.range ((va.toNat % 128 + n + 127) / 128)).foldl (fun s k =>
    match s.translate d c (BitVec.ofNat 64 (va.toNat / 128 * 128 + 128 * k)) with
    | (.ok x, s1) => s1.settleHome d x.pa
    | (.error _, s1) => s1) s

/-- The `n` bytes of a structure checked; a dobby that may read them finds them settled. -/
def State.dcheck (s : State) (d c : Nat) (va : DWord) (n : Nat) (write : Bool) : Except Dacc Unit × State :=
  if n == 0 then (.ok (), s)
  else match s.dcheckPages d c va write ((va.toNat % 65536 + n + 65535) / 65536) with
    | (.ok _, s1) => (.ok (), s1.dsettle d c va n)
    | e => e

/-- The dobby needs the `n` bytes of a structure: a page that does not translate stops it (R399). -/
def State.dneed (s : State) (d c : Nat) (va : DWord) (n : Nat) : State :=
  match s.dcheck d c va n false with
  | (.error (.fault a r), s1) => s1.dstop d c a 0 r
  | (_, s1) => s1

/-- A byte of a context's memory as the dobby reads it, once `State.dneed` or `State.dcheck` has found its page and settled its line. -/
def State.vbyte (s : State) (d c : Nat) (va : DWord) : Byte :=
  match s.translate d c va with
  | (.ok x, _) => s.byte x.pa
  | (.error _, _) => 0
/-- The number in `n` bytes of a context's memory. -/
def State.vnum (s : State) (d c : Nat) (va : DWord) (n : Nat) : Nat :=
  leNat ((List.range n).map fun i => s.vbyte d c (va + BitVec.ofNat 64 i))
/-- The 64-bit words of a structure. -/
def State.vwords (s : State) (d c : Nat) (va : DWord) (n : Nat) : List Nat :=
  (List.range n).map fun i => s.vnum d c (va + BitVec.ofNat 64 (8 * i)) 8

/-! ## Records (R394 to R396) -/

/-- The number of a class (R391). -/
def classCode : TrapClass → Nat
  | .illegalInstruction => 1 | .privilege => 2 | .operand => 3 | .memoryAccess => 4 | .translation => 5 | .twin => 6 | .bobbin => 7
  | .tile => 8 | .fabric => 9 | .deadlock => 10 | .uncorrectable => 11 | .engineReset => 12 | .region => 13

/-- The eight 64-bit words of a fault record (R394). -/
def recordWords (t : TrapInfo) (ctx gid core node : Nat) (rcb : DWord) : List Nat :=
  [classCode t.cls + 16 * t.reason + 4096 * agentCode t.agent + 32768 * t.precise.toNat + 65536 * ctx + 2 ^ 32 * t.pc.toNat,
   t.addr.toNat, t.pmask.toNat + 65536 * t.smask.toNat + 2 ^ 32 * gid,
   t.wid % 32 + 32 * core + 8192 * node + 2 ^ 32 * t.info.toNat, t.bytes % 2 ^ 48, t.seq.toNat + 2 ^ 32 * (t.kblk % 65536),
   t.members.toNat, rcb.toNat]

/-- A list of 64-bit words written by the dobby. -/
def State.dputWords (s : State) (d c : Nat) (va : DWord) : List Nat → State
  | [] => s
  | w :: ws => (s.dput d c va 63 0 w).dputWords d c (va + 8) ws

/-- Bytes written by the dobby in 64-bit words. -/
def State.dputBytes (s : State) (d c : Nat) (va : DWord) (bs : List Byte) : State :=
  (List.range ((bs.length + 7) / 8)).foldl (fun s k => s.dput d c (va + BitVec.ofNat 64 (8 * k)) 63 0 (leNat ((bs.drop (8 * k)).take 8))) s

/-- The address of a place of a node's spill area. -/
def Node.placeAddr (N : Node) (k : Nat) : DWord := N.spill + BitVec.ofNat 64 (N.recBytes * k)

/-- A record accepted by a bin: in one of the dobby's places, or beyond them written to the spill area (R92, R93). -/
def State.binAccept (s : State) (r n : Nat) (data : List Byte) : State :=
  match s.region? r, s.node? r n with
  | some R, some N =>
    match (if N.crowded then N.freePlace else none) with
    | some k => (s.dputBytes R.dev R.ctx (N.placeAddr k) data).binAdd r n data (some k)
    | none => s.binAdd r n data none
  | _, _ => s

/-! ## The entry of a translation fault (R398 to R400, R442) -/

/-- The service agent signalled (R400, R435): a record for the service node, beyond the dobby's places in its spill area (R92), or the fault interrupt; a record
for whose place there is no page or no room stays with the dobby (DEDUCED, assumption log 13). -/
def State.signal (s : State) (d c sig : Nat) (entry : List Word) : State :=
  if s.modeBit d c 0 then { s with msix := s.msix ++ [(d, (Sparse.get (s.dev d).mode (4 * c + 2)).toNat % 2048)] }
  else match s.nodeAt d c (Sparse.get (s.dev d).mode (4 * c + 1)) with
    | none => s
    | some (r, n) =>
      let data := wordBytes (BitVec.ofNat 32 (sig + 65536 * c) :: (s.ctx d c).fltstat :: entry ++ [0, 0])
      let s1 := s.binAccept r n data
      if s1.dfault == s.dfault then s1 else s.binAdd r n data none

/-- A translation fault entered, coalesced or dropped (R398, R399). `access` is 0 read, 1 write, 2 fetch, 3 RMW; `page` the address over 64 KiB. -/
def State.raiseFault (s : State) (d c : Nat) (va : DWord) (access : Nat) (agent : Agent) (reason : Nat) : State :=
  let page := va.toNat / 65536
  let C := s.ctx d c
  if C.faults.any fun e => e.page == page then
    s.modCtx d c fun C => { C with faults := modIf (fun e => e.page == page) (fun e => { e with waiters := min 65535 (e.waiters + 1) }) C.faults }
  else if C.faults.length < 8 then
    let s1 := s.modCtx d c fun C => { C with faults := C.faults ++ [{ page, access, agent, reason }] }
    if C.unread == 0 then
      let C1 := s1.ctx d c
      let e : FaultEntry := { page, access, agent, reason }
      s1.signal d c 1 (e.words c ++ [C1.word3])
    else s1
  else
    let s1 := s.modCtx d c fun C => { C with dropped := true }
    if C.dropped then s1 else s1.signal d c 2 [0, 0, 0, 0]

/-- What a dobby waits with for a page: the event, the path or the spot of the move that has met the fault (R399). -/
abbrev DWait := Option Instr × Option PathRef × List Nat

/-- A dobby waits for a page: the fault is entered once, as one waiter, until a `replay` (R398, R399). -/
def State.stallDobby (s : State) (x : DFault) (w : DWait) : State :=
  let p : DStall := { dev := x.dev, ctx := x.ctx, page := x.va.toNat / 65536, act := w.1, path := w.2.1, spot := w.2.2 }
  if s.dstalls.contains p then s
  else
    let s1 := s.raiseFault x.dev x.ctx x.va x.access .dobby x.reason
    { s1 with dstalls := s1.dstalls ++ [p] }

/-- A move of a dobby waits for a page (R400). -/
def State.dobbyWaits (s : State) (w : DWait) : Bool := s.dstalls.any fun p => p.act == w.1 && p.path == w.2.1 && p.spot == w.2.2

/-! ## Records in their places (R92, R394 to R396) -/

/-- A record's bytes: the dobby's, or those of its place in the spill area (R92). -/
def State.recBytes (s : State) (R : Region) (N : Node) (x : Rec) : List Byte :=
  match x.slot with
  | none => x.data
  | some k => (List.range N.recBytes).map fun i => s.vbyte R.dev R.ctx (N.placeAddr k + BitVec.ofNat 64 i)

/-- The spill area's pages that hold some records are there, or stop the dobby. -/
def State.needRecs (s : State) (R : Region) (N : Node) (xs : List Rec) : State :=
  xs.foldl (fun s x => match x.slot with | none => s | some k => s.dneed R.dev R.ctx (N.placeAddr k) N.recBytes) s

/-- A fault record written in a region and NFAULT raised (R396); a region whose RCB cannot be read has no place for one (DESIGN CHOICE, assumption log 72). -/
def State.record (s : State) (r : Nat) (t : TrapInfo) (gid core node : Nat) (rcb : DWord) : State :=
  match s.region? r with
  | none => s
  | some R =>
    if !R.seen then s else
    let s1 := if R.nfault < 64 then s.dputWords R.dev R.ctx (R.faultbuf + BitVec.ofNat 64 (64 * R.nfault)) (recordWords t R.ctx gid core node rcb) else s
    let n := min 65535 (R.nfault + 1)
    (s1.modRegion r fun R => { R with nfault := n }).dput R.dev R.ctx (R.rcb + 0x40) 31 16 n

/-! ## Nodes (R83, R88, R91) -/

/-- The address of a node's descriptor. -/
def Region.nodeAddr (R : Region) (n : Nat) : DWord := R.nodesAt + BitVec.ofNat 64 (64 * n)

/-- A node's STATE in the dobby and in its descriptor. -/
def State.setNodeSt (s : State) (r n st : Nat) : State :=
  match s.region? r with
  | none => s
  | some R => (s.modNode r n fun N => { N with st }).dput R.dev R.ctx (R.nodeAddr n) 11 8 st

/-- A node's PENDING in the dobby and in its descriptor. -/
def State.setPending (s : State) (r n p : Nat) : State :=
  match s.region? r with
  | none => s
  | some R => (s.modNode r n fun N => { N with pending := p }).dput R.dev R.ctx (R.nodeAddr n) 47 32 p

/-- A node that has become READY, or stays (R88, R377, R435). -/
def State.readyCheck (s : State) (r n : Nat) : State :=
  match s.region? r with
  | none => s
  | some R => match R.node? n with
    | none => s
    | some N =>
      if N.st == 0 && N.pending == 0 && !N.held && !N.isRival && R.st == 1 && !R.killed && !s.modeBit R.dev R.ctx 1 then
        (s.modNode r n fun N => { N with readyAt := s.clk }).setNodeSt r n 1
      else s

/-- A predecessor's end or a `launch` counted (R88). -/
def State.decrement (s : State) (r n : Nat) : State :=
  match s.node? r n with
  | none => s
  | some N => if N.pending == 0 then s else (s.setPending r n (N.pending - 1)).readyCheck r n

/-- Every node of a region has ended and every child region has finished (R91). -/
def State.regionOver (s : State) (R : Region) : Bool :=
  R.nodes.all (fun N => 3 ≤ N.st) && !s.regions.any fun C => (match C.parent with | some (p, _) => p == R.rid | none => false) && C.st ≤ 1

/-- A region finishes: STATE, then FIN and OUTCOME (R91) (DEDUCED, assumption log 15). -/
def State.finishRegion (s : State) (r st : Nat) : State :=
  match s.region? r with
  | none => s
  | some R =>
    if !R.seen then s.modRegion r fun R => { R with st } else
    let s1 := (s.modRegion r fun R => { R with st }).dput R.dev R.ctx (R.rcb + 0x20) 19 16 st
    s1.dput R.dev R.ctx (R.rcb + 0x40) 3 0 (1 + 2 * (st - 2))

/-- The node ends that follow from node ends, in their order (R88, R89, R91).  An entry is a region, a node and the state it ends in. -/
def State.endNodes : Nat → List (Nat × Nat × Nat) → State → State
  | 0, _, s => s
  | _, [], s => s
  | k + 1, (r, n, st) :: rest, s =>
    match s.node? r n with
    | none => State.endNodes k rest s
    | some N =>
      if 3 ≤ N.st then State.endNodes k rest s
      else
        let s1 := s.setNodeSt r n st
        let s2 := if st == 3 then N.succs.foldl (fun s m => s.decrement r m) s1 else s1
        let skips := if st == 3 then [] else (N.succs.filter fun m => match s2.node? r m with | some M => M.st == 0 | none => false).map fun m => (r, m, 5)
        match s2.region? r with
        | none => State.endNodes k (skips ++ rest) s2
        | some R =>
          if R.st == 1 && s2.regionOver R then
            let out := if R.killed then 4 else if R.nodes.any (fun N => N.st == 4) then 3 else 2
            let s3 := s2.finishRegion r out
            let up := match R.parent with | some (p, m) => [(p, m, if out == 4 then 4 else 3)] | none => []
            State.endNodes k (skips ++ up ++ rest) s3
          else State.endNodes k (skips ++ rest) s2

/-- A node ends. -/
def State.endNode (s : State) (r n st : Nat) : State :=
  s.endNodes (2 * s.regions.foldl (fun k R => k + R.nodes.length * R.nodes.length + R.nodes.length + 2) 8) [(r, n, st)]

/-- A BIN node's end (R89). -/
def State.binEnd (s : State) (r n : Nat) : State :=
  match s.node? r n with
  | none => s
  | some N =>
    if N.kind == 1 && N.st == 2 && N.pending == 0 && !N.held && N.open_.isEmpty && N.inFlight == 0 then
      s.endNode r n (if N.failed then 4 else 3)
    else s

/-! ## The start of a region (R81, R84, R86, R377) -/

/-- A node of words 0 to 7 of its descriptor, with its successor list. -/
def nodeOf (i : Nat) (w : List Nat) (succs : List Nat) : Node :=
  let x k := w.getD k 0
  { idx := i, kind := bitsOf (x 0) 3 0, held := (x 0).testBit 4, pending := bitsOf (x 0) 31 16, succs,
    len := bitsOf (x 2) 31 0, slot := bitsOf (x 2) 43 32, cluster := bitsOf (x 2) 46 44, wefts := bitsOf (x 2) 51 47,
    entry := BitVec.ofNat 64 (x 3), params := BitVec.ofNat 64 (x 4), gspad := bitsOf (x 5) 9 0, gtiles := bitsOf (x 5) 15 10,
    gxblk := bitsOf (x 5) 23 16, recsz := bitsOf (x 6) 3 0, coal := bitsOf (x 6) 12 4, timer := bitsOf (x 6) 36 13,
    spillkib := bitsOf (x 6) 52 37, spill := BitVec.ofNat 64 (x 7) }

/-- A node's reserved fields and codes are zero. -/
def nodeFormatOk (w : List Nat) (nnodes : Nat) (succs : List Nat) : Bool :=
  let x k := w.getD k 0
  bitsOf (x 0) 7 5 == 0 && bitsOf (x 0) 15 12 == 0 && bitsOf (x 0) 3 0 ≤ 5 && bitsOf (x 0) 11 8 ≤ 5 && bitsOf (x 2) 63 52 == 0
    && bitsOf (x 5) 63 24 == 0 && (if bitsOf (x 0) 3 0 == 1 then bitsOf (x 6) 63 53 == 0 else x 6 == 0 && x 7 == 0)
    && succs.all fun m => m < nnodes

/-- An RCB's reserved fields and codes are zero and its counts are in range. -/
def rcbFormatOk (w : List Nat) (rootCtx : Option Nat) : Bool :=
  let x k := w.getD k 0
  bitsOf (x 4) 19 16 ≤ 4 && bitsOf (x 4) 37 36 != 3 && !(x 4).testBit 47 && bitsOf (x 4) 63 62 == 0 && bitsOf (x 5) 63 58 == 0
    && bitsOf (x 6) 63 53 == 0 && x 7 / 2 == 0 && bitsOf (x 8) 3 1 ≤ 3 && bitsOf (x 8) 15 4 == 0 && bitsOf (x 8) 63 32 == 0
    && x 12 == 0 && x 13 == 0 && x 14 == 0 && x 15 == 0
    && 1 ≤ bitsOf (x 4) 15 0 && bitsOf (x 4) 15 0 ≤ 4096 && bitsOf (x 5) 8 0 != 0 && bitsOf (x 6) 7 0 != 0
    && (match rootCtx with | none => true | some c => bitsOf (x 4) 31 20 == c)

/-- The region with the fields of its RCB (R80), resolved against its parent (R81). -/
def Region.resolve (R : Region) (w : List Nat) (P : Option Region) : Region :=
  let x k := w.getD k 0
  let inh (k : Nat) : Bool := (x 4).testBit k
  let plain (k own : Nat) (par : Region → Nat) : Nat := match P with | some P => if inh k then par P else own | none => own
  let flag (k j : Nat) (par : Region → Bool) : Bool := match P with | some P => if inh k then par P else (x 4).testBit j | none => (x 4).testBit j
  let budget (k own : Nat) (par : Region → Nat) : Nat := match P with | some P => if inh k then par P else min own (par P) | none => own
  { R with
    seen := true, up := BitVec.ofNat 64 (x 0), child := BitVec.ofNat 64 (x 1), sibling := BitVec.ofNat 64 (x 2), nnodes := bitsOf (x 4) 15 0,
    prio := plain 48 (bitsOf (x 4) 35 32) (·.prio), policy := plain 49 (bitsOf (x 4) 37 36) (·.policy),
    cores := budget 50 (bitsOf (x 5) 8 0) (·.cores), spad := budget 51 (bitsOf (x 5) 27 9) (·.spad),
    xblocks := budget 52 (bitsOf (x 5) 43 28) (·.xblocks), tiles := budget 53 (bitsOf (x 5) 57 44) (·.tiles),
    share := budget 54 (bitsOf (x 6) 7 0) (·.share), counting := flag 55 41 (·.counting), det := flag 56 42 (·.det),
    idem := flag 57 43 (·.idem), beam := flag 58 44 (·.beam), cosched := flag 59 45 (·.cosched), elastic := flag 60 46 (·.elastic),
    adjtmo := plain 61 (bitsOf (x 6) 39 8) (·.adjtmo), nodesAt := BitVec.ofNat 64 (x 3), nslots := bitsOf (x 6) 52 40,
    cslots := BitVec.ofNat 64 (x 11), faultbuf := BitVec.ofNat 64 (x 9), save := BitVec.ofNat 64 (x 10), nfault := bitsOf (x 8) 31 16 }

/-- The nodes reachable from a list of nodes, by repeated expansion. -/
def reachFrom (nodes : List Node) : Nat → List Nat → List Nat → List Nat
  | 0, seen, _ => seen
  | _, seen, [] => seen
  | k + 1, seen, n :: todo =>
    if seen.contains n then reachFrom nodes k seen todo
    else reachFrom nodes k (n :: seen) (((nodes.find? fun N => N.idx == n).map fun N => N.succs).getD [] ++ todo)

/-- Edges and nodes together bound the expansion. -/
def reachFuel (nodes : List Node) : Nat := nodes.foldl (fun k N => k + N.succs.length + 1) 1

/-- The rows of R84 from GRAPH_CYCLE on, with the failing node. -/
def Region.firstFault (R : Region) (preds : Nat → Nat) : Option (Nat × Nat) :=
  let row (reason : Nat) (p : Node → Bool) : Option (Nat × Nat) := (R.nodes.find? p).map fun N => (reason, N.idx)
  let work (N : Node) : Bool := N.kind ≤ 1
  let listed (n : Nat) : Nat := R.nodes.foldl (fun k N => k + (if N.succs.contains n then 1 else 0)) 0
  (row 3 fun N => (reachFrom R.nodes (reachFuel R.nodes) [] N.succs).contains N.idx)
  <|> (row 4 fun N => preds N.idx < listed N.idx)
  <|> (row 5 fun N => work N && (256 < N.gspad || 32 < N.gtiles || 128 < N.gxblk || R.spad < 4 * N.gspad || R.tiles < N.gtiles || R.xblocks < N.gxblk))
  <|> (row 6 fun N => R.cosched && N.kind == 0 && (R.spad < N.len * 4 * N.gspad || R.tiles < N.len * N.gtiles || R.xblocks < N.len * N.gxblk))
  <|> (row 7 fun N => N.kind == 1 && N.gspad * 4096 < (N.coal + 1) * N.recBytes)
  <|> (row 8 fun N => N.held && R.nslots ≤ N.slot)
  <|> (if 8 ≤ R.depth then some (9, 0) else none)

/-- A tournament record's header and rivals: words 0 and 1, then two per rival (R376). -/
def tournOk (w : List Nat) : Bool :=
  let x k := w.getD k 0
  let m := bitsOf (x 0) 2 0
  bitsOf (x 0) 7 3 == 0 && bitsOf (x 0) 15 13 == 0 && bitsOf (x 0) 31 22 == 0 && x 0 / 2 ^ 32 == 0 && x 1 / 2 ^ 32 == 0
    && x 3 == 0 && x 4 == 0 && x 5 == 0 && x 6 == 0 && x 7 == 0 && 1 ≤ m && m ≤ 6 && bitsOf (x 1) 31 0 != 0
    && (List.range (2 ^ m)).all fun i => bitsOf (x (8 + 2 * i)) 31 22 == 0

/-- The rival nodes a record names. -/
def tournRivals (w : List Nat) : List Nat := (List.range (2 ^ bitsOf (w.getD 0 0) 2 0)).map fun i => bitsOf (w.getD (8 + 2 * i) 0) 15 0

/-- A rival node is what R377 asks of it. -/
def Region.rivalOk (R : Region) (preds : Nat → Nat) (n : Nat) : Bool :=
  match R.node? n with
  | none => false
  | some N => N.kind == 0 && !N.held && preds n == 0 && N.succs.isEmpty && !R.nodes.any fun M => M.succs.contains n

/-- R377 scope by scope: `ts` are the TOURN nodes with their records, `all` those of the whole region. -/
def Region.scopeFault (R : Region) (preds : Nat → Nat) (all : List (Node × List Nat)) : List (Node × List Nat) → Option (Nat × Nat)
  | [] => none
  | (N, w) :: ts =>
    let rs := tournRivals w
    let others := (all.filter fun x => x.1.idx != N.idx).flatMap fun x => tournRivals x.2
    if !tournOk w || (R.nodes.filter fun M => M.kind == 4 && M.entry == N.entry).length != 1 then some (10, N.idx)
    else if !(rs.all (R.rivalOk preds)) || rs.any (fun n => others.contains n) || !decide rs.Nodup then some (11, N.idx)
    else R.scopeFault preds all ts

/-- How a start ends: the region with its nodes ready to be walked, a descriptor fault, or a translation fault that pauses it, with what has been
read of the region. -/
inductive Start where
  | ok (R : Region)
  | fail (R : Region) (reason node : Nat)
  | pause (R : Region) (va : DWord) (reason : Nat)
  deriving DecidableEq, Repr

/-- The accesses of the structures of a region: each address with its length and whether the dobby writes it, and the node that names it. -/
def State.dcheckAll (s : State) (d c : Nat) : List (DWord × Nat × Bool × Nat) → Except (Dacc × Nat) Unit × State
  | [] => (.ok (), s)
  | (va, n, w, node) :: rest =>
    match s.dcheck d c va n w with
    | (.ok _, s1) => s1.dcheckAll d c rest
    | (.error e, s1) => (.error (e, node), s1)

/-- What each node names checked, node by node (R84, DESC_ACCESS): its successor list, the whole record of its scope, its child's RCB. -/
def State.dcheckNodes (s : State) (d c : Nat) : List (Nat × List Nat) → Except (Dacc × Nat) Unit × State
  | [] => (.ok (), s)
  | (i, x) :: rest =>
    let kind := bitsOf (x.getD 0 0) 3 0
    let entry := BitVec.ofNat 64 (x.getD 3 0)
    let heads : List (DWord × Nat × Bool × Nat) := (BitVec.ofNat 64 (x.getD 1 0), 2 * bitsOf (x.getD 0 0) 63 48, false, i) ::
      (if kind == 4 then [(entry, 64, false, i)] else if kind == 5 then [(entry, 128, false, i)] else [])
    match s.dcheckAll d c heads with
    | (.error e, s1) => (.error e, s1)
    | (.ok _, s1) =>
      match s1.dcheckAll d c (if kind == 4 then [(entry, 64 + 16 * 2 ^ (s1.vnum d c entry 1 % 8), false, i)] else []) with
      | (.error e, s2) => (.error e, s2)
      | (.ok _, s2) => s2.dcheckNodes d c rest

/-- The successor list of a node's words. -/
def State.succsOf (s : State) (d c : Nat) (w : List Nat) : List Nat :=
  (List.range (bitsOf (w.getD 0 0) 63 48)).map fun k => s.vnum d c (BitVec.ofNat 64 (w.getD 1 0 + 2 * k)) 2

/-- The checks of R84 and R377 in their order. -/
def State.checkRegion (s : State) (R : Region) (P : Option Region) : Start × State :=
  let d := R.dev
  let c := R.ctx
  let bad (R : Region) (node : Nat) : Dacc → Start
    | .bad => .fail R 13 node
    | .fault va r => .pause R va r
  match s.dcheck d c R.rcb 128 false with
  | (.error e, s1) => (bad R 0 e, s1)
  | (.ok _, s1) =>
    let w := s1.vwords d c R.rcb 16
    let R1 := R.resolve w P
    let nn := R1.nnodes
    let named := ([R1.up, R1.child, R1.sibling].filter fun a => a != 0).map fun a => (a, 128, false, 0)
    match s1.dcheckAll d c ((R.rcb, 128, true, 0) :: named ++ [(R1.nodesAt, 64 * nn, true, 0), (R1.cslots, 4 * R1.nslots, false, 0)]) with
    | (.error (e, _), s2) => (bad R1 0 e, s2)
    | (.ok _, s2) =>
      let ws := (List.range nn).map fun i => (i, s2.vwords d c (R1.nodeAddr i) 8)
      match s2.dcheckNodes d c ws with
      | (.error (e, i), s3) => (bad R1 i e, s3)
      | (.ok _, s3) =>
        let tw (N : Node) : List Nat := s3.vwords d c N.entry (8 + 2 * 2 ^ (s3.vnum d c N.entry 1 % 8))
        let nodes := ws.map fun (i, x) => nodeOf i x (s3.succsOf d c x)
        let R2 := { R1 with nodes }
        let preds n := ((nodes.find? fun N => N.idx == n).map fun N => N.pending).getD 0
        if !rcbFormatOk w (if R.parent.isNone then some c else none) then (.fail R2 1 0, s3)
        else match ws.find? fun (_, x) => !nodeFormatOk x nn (s3.succsOf d c x) with
          | some (i, _) => (.fail R2 2 i, s3)
          | none => match R2.firstFault preds with
            | some (reason, i) => (.fail R2 reason i, s3)
            | none =>
              let ts := (nodes.filter fun N => N.kind == 4).map fun N => (N, tw N)
              match R2.scopeFault preds ts ts with
              | some (reason, i) => (.fail R2 reason i, s3)
              | none =>
                let rivals := ts.flatMap fun (_, w) => tournRivals w
                (.ok { R2 with nodes := nodes.map fun N => { N with isRival := rivals.contains N.idx } }, s3)

/-- The RCB of a region whose start has not come to it read, so that its FAULTBUF is known (R97). -/
def State.readRcb (s : State) (r : Nat) : State :=
  match s.region? r with
  | none => s
  | some R =>
    if R.seen then s
    else match s.dcheck R.dev R.ctx R.rcb 128 false with
      | (.error (.fault va e), s1) => s1.dstop R.dev R.ctx va 0 e
      | (.error .bad, s1) => s1
      | (.ok _, s1) =>
        s1.modRegion r fun R => R.resolve (s1.vwords R.dev R.ctx R.rcb 16) (match R.parent with | some (p, _) => s1.region? p | none => none)

/-- A region started, or faulted, or paused (R84, R86). -/
def State.startRegion (s : State) (r : Nat) : State :=
  match s.region? r with
  | none => s
  | some R =>
    let P := match R.parent with | some (p, _) => s.region? p | none => none
    let up (s : State) (st : Nat) : State := match R.parent with | some (p, m) => s.endNode p m st | none => s
    match s.checkRegion R P with
    | (.pause R1 va reason, s1) =>
      (s1.modRegion r fun _ => { R1 with pause := some (va.toNat / 65536) }).raiseFault R.dev R.ctx va 0 .dobby reason
    | (.fail R1 reason node, s1) =>
      let s2 := s1.modRegion r fun _ => { R1 with pause := none, nodes := [] }
      let s3 := s2.record r { cls := .region, reason, agent := .dobby } 0 0 node R.rcb
      up (s3.finishRegion r 3) 4
    | (.ok R1, s1) =>
      let s2 := s1.modRegion r fun _ => { R1 with pause := none, st := 1 }
      let s3 := s2.dput R.dev R.ctx (R.rcb + 0x20) 40 38 R.depth
      let s4 := R1.nodes.foldl (fun s N => (s.setPending r N.idx N.pending).setNodeSt r N.idx 0) s3
      let s5 := s4.dput R.dev R.ctx (R.rcb + 0x20) 19 16 1
      R1.nodes.foldl (fun s N => s.readyCheck r N.idx) s5

/-! ## Trees of regions -/

/-- A region lies in the tree below another, or is it. -/
def State.inTree (s : State) (root : Nat) : Nat → Nat → Bool
  | 0, r => r == root
  | k + 1, r => r == root || (match s.region? r with | some R => (match R.parent with | some (p, _) => s.inTree root k p | none => false) | none => false)

/-- A region and its ancestors, nearest first. -/
def State.ancestors (s : State) : Nat → Nat → List Nat
  | 0, r => [r]
  | k + 1, r => r :: (match s.region? r with | some R => (match R.parent with | some (p, _) => s.ancestors k p | none => []) | none => [])

/-- The node of the issuing region or of a descendant that has been started, whose descriptor lies at an address (R96). -/
def State.nodeInTree (s : State) (root : Nat) (va : DWord) : Option (Nat × Nat) :=
  s.regions.findSome? fun R => if s.inTree root 8 R.rid then (R.indexOf va).map fun i => (R.rid, i) else none

/-- The region, as its RCB in memory gives it, and the index of the node whose descriptor lies at an address, by the CHILD and SIBLING of the RCBs from
some on (R80); `k` bounds the RCBs. -/
def State.findBelow (s : State) (d c : Nat) (va : DWord) : Nat → List DWord → Option (Region × Nat) × State
  | 0, _ => (none, s)
  | _, [] => (none, s)
  | k + 1, a :: as =>
    if a == 0 then s.findBelow d c va k as
    else
      let s1 := s.dneed d c a 128
      let R := Region.resolve { rid := 0, dev := d, rcb := a, ctx := c } (s1.vwords d c a 16) none
      match R.indexOf va with
      | some i => (some (R, i), s1)
      | none => s1.findBelow d c va k (as ++ [R.child, R.sibling])

/-- The node of a descendant that has not been started, whose descriptor lies at an address (R96). -/
def State.unstarted (s : State) (R : Region) (va : DWord) : Option (Region × Nat) × State := s.findBelow R.dev R.ctx va 65536 [R.child]

/-- The node of a region of a context that has not been started, in the trees below the RCBs that the dobby has read, whose descriptor lies at an address (R96)
(DESIGN CHOICE, assumption log 90). -/
def State.unstartedIn (s : State) (d c : Nat) (va : DWord) : Option (Region × Nat) × State :=
  s.findBelow d c va 65536 ((s.regions.filter fun R => R.dev == d && R.ctx == c && R.seen).map fun R => R.child)

end Sys2Proof.Machine
end

