-- ==== Sys2Proof/Machine/Kill.lean ====
section
/-! DEFINITION. Sys2Proof/Machine/Kill.lean: how a group ends: the kill clean-up (R429), the taking of a trap (R393) with its record and the
region's POLICY (R90), the kill of a region (R97), and what retirement leaves (R427). -/

namespace Sys2Proof.Machine

/-! ## Tournament lookups -/

/-- The scope and the rival of a rival group (R376). -/
def State.tournOf (s : State) (G : Group) : Option (Tourn × Rival) :=
  match G.rival with
  | none => none
  | some i => s.tourns.findSome? fun T =>
      if T.rid == G.rid then (T.rivals.find? fun r => r.idx == i && r.node == G.node).map fun r => (T, r) else none

/-- A rival's RSTATE in the scope and in its record (R376). -/
def State.setRivalSt (s : State) (T : Tourn) (i st : Nat) : State :=
  match s.region? T.rid with
  | none => s
  | some R =>
    (s.modTourn T.sid fun T => { T with rivals := modIf (fun r => r.idx == i) (fun r => { r with st }) T.rivals }).dput R.dev R.ctx
      (T.addr + BitVec.ofNat 64 (0x40 + 16 * i)) 17 16 st

/-! ## Removing a group -/

/-- The groups of a core that hold resources there; the shuttle work of a COPY node is none. -/
def State.resident (s : State) (d c : Nat) : List Group := s.groups.filter fun G => G.dev == d && G.core == c && G.life != .saved && !G.copy

/-- The segments that a weft runs: in supervisor mode also the one that it returns to (R406). -/
def Weft.segs (w : Weft) : List DWord := if w.priv then [w.seg, w.eseg] else [w.seg]
/-- The segments that the wefts of some groups run. -/
def segsOf (gs : List Group) : List (DWord × Nat) := gs.flatMap fun G => G.wefts.flatMap fun w => w.segs.map fun x => (x, G.ctx)

/-- Pins of segments that no group runs any longer cleared at both levels (R122). -/
def State.clearPins (s : State) (d c : Nat) : State :=
  let keep (gs : List Group) (p : Pin) : Bool := (segsOf gs).contains (p.seg, p.ctx)
  let here := s.resident d c
  let near := s.groups.filter fun G => G.dev == d && G.core / 8 == c / 8 && G.life != .saved && !G.copy
  let s1 := if (s.core d c).pins.isEmpty then s else s.modCore d c fun x => { x with pins := x.pins.filter (keep here) }
  if (s1.cluster d (c / 8)).pins.isEmpty then s1 else s1.modCluster d (c / 8) fun x => { x with pins := x.pins.filter (keep near) }

/-- The completion word of a command (R222), if its entry asks for one. -/
def State.cword (s : State) (G : Group) (cmd : Command) (status : Nat) : State :=
  let w0 := leNat (cmd.bytes.take 4)
  let off := leNat ((cmd.bytes.drop 4).take 4) % 2 ^ 20
  if w0.testBit 5 && off % 8 == 0 && off + 8 ≤ G.spadsz then s.storeSpad G off (leBytes 8 (status + 65536 * (cmd.done % 2 ^ 48))) else s

/-- A group's name removed with everything that waits in its name; its resources are free (R427), which ends a stall of its core (R115). -/
def State.dropGroup (s : State) (G : Group) : State :=
  let out (P : Party) : Party := if P.members.contains G.uid then { P with members := P.members.filter (· != G.uid), gone := P.gone ++ G.wefts.map fun w => (G.uid, w.wid) } else P
  let s1 : State := { s with groups := s.groups.filter (fun x => x.uid != G.uid),
                             dstalls := s.dstalls.filter (fun w => !(w.path.any fun r => r.g == G.uid)),
                             units := (s.units.map out).filter fun P => !P.members.isEmpty }
  (s1.modCore G.dev G.core fun c => { c with stall := none }).clearPins G.dev G.core

/-- The writes of a group published: those that wait in its core's queue, and those on their way to other devices (R312). -/
def State.publishGroup (s : State) (G : Group) : State :=
  let mine (us : List QUser) : Bool := us.any fun u => u.path.g == G.uid
  let s1 := ((s.core G.dev G.core).queue.filter fun e => mine e.users).foldl (fun s e => s.publishLine G.dev G.core e.line) s
  (s1.reqs.filter fun r => mine r.users).foldl (fun s r => s.drainLine r.msg.src r.msg.line) s1

/-- The slot of a saved group freed in its region's save area (R410, R414). -/
def State.dropSlot (s : State) (G : Group) : State :=
  match G.slot, s.region? G.rid with
  | some k, some R => s.dput R.dev R.ctx (R.save + BitVec.ofNat 64 (8 + k / 64 * 8)) (k % 64) (k % 64) 0
  | _, _ => s

/-- A killed group's name taken out of the deliveries addressed to it, whose sources get TDFAIL, and a saved one's out of its region's queue (R414, R429). -/
def State.unaddress (s : State) (G : Group) : State :=
  let toward (e : Delivery) : Bool := e.grid == (G.rid, G.node) && e.tgid == G.gid && e.op.g != G.uid && !G.copy
  let s1 := (s.deliveries.filter toward).foldl (fun s e => s.modGroup e.op.g fun H => { H with tdfail := true }) s
  ({ s1 with deliveries := modIf toward (fun e => { e with lost := true }) s1.deliveries } : State).modRegion G.rid fun R =>
    { R with queue := R.queue.filter fun W => W.saved != some G.uid }

/-- The kill clean-up of one group (R429); the second component is the bytes its cancelled commands have written. -/
def State.killGroup (s : State) (g : Nat) : State × Nat :=
  match s.group? g with
  | none => (s, 0)
  | some G =>
    let mine (r : PathRef) : Bool := r.g == g
    let s1 := s.modCore G.dev G.core fun c =>
      { c with regq := c.regq.filter (fun r => !mine r), spq := c.spq.filter (fun r => !mine r), ops := c.ops.filter fun o => o.g != g }
    let s2 := s1.publishGroup G
    let live := G.cmds.filter fun c => c.status.isNone || (c.cancel && c.status == some 1)
    let s3 := (G.cmds ++ s2.unreadCmds G).foldl (fun s (c : Command) => s.cword G c (c.status.getD 1)) s2
    let free (C : Cluster) : Cluster := match C.jqPath with
      | some r => if mine r then { C with jqPath := none, jqPause := none } else C
      | none => C
    let s4 := ({ s3 with deliveries := s3.deliveries.filter (fun x => x.op.g != g), clusters := s3.clusters.map free } : State).dropSlot G
    ((s4.unaddress G).dropGroup G, live.foldl (fun n c => n + c.done) 0)

/-- Several kills, with their bytes. -/
def State.killGroups (s : State) : List Nat → State × Nat
  | [] => (s, 0)
  | g :: gs =>
    let (s1, a) := s.killGroup g
    let (s2, b) := s1.killGroups gs
    (s2, a + b)

/-! ## The Jacquard's samples of a lost batch (R367) -/

/-- One sample fails; the run ends with its last (R365). -/
def State.failSample (s : State) (d jq i : Nat) : State :=
  s.modCluster d jq fun C => { C with samples := modIf (fun x => x.idx == i && x.st == 1) (fun x => { x with st := 3, out := 0, pause := none }) C.samples }

/-- A run without RUNNING and uninitialised samples ends; a JACQ node with a failed sample under a fault ends FAILED (R365, R369, R89). -/
def State.jqEnd (s : State) (d jq : Nat) : State :=
  let C := s.cluster d jq
  if C.jqLive && !C.samples.isEmpty && !C.samples.any fun x => x.st == 1 || (x.st == 0 && x.phase == 5) then
    let s1 := s.modCluster d jq fun C => { C with jqLive := false, jqOwner := none }
    match C.jqOwner with
    | none => s1
    | some (r, n) => s1.endNode r n (match s.node? r n with | some N => if N.failed then 4 else 3 | none => 3)
  else s

/-- The samples whose outstanding records were in a batch that is lost fail (R367); `rseq` tells such a record from an earlier one of its stage. -/
def State.loseRecords (s : State) (d r n : Nat) (recs : List Rec) : State :=
  recs.foldl (fun s x =>
    let w := leNat (x.data.take 4)
    let jq := bitsOf w 17 13
    let C := s.cluster d jq
    let node := match s.region? r with | some R => R.nodeAddr n | none => 0
    if C.jqLive && C.jqTag == bitsOf w 31 18 && leNat ((C.jqBuf.drop 0x38).take 8) == node.toNat
        && C.samples.any (fun y => y.idx == bitsOf w 8 0 && y.st == 1 && y.out == 1 && y.stage == bitsOf w 12 9 && y.rseq == x.seq) then
      (s.failSample d jq (bitsOf w 8 0)).jqEnd d jq
    else s) s

/-! ## The end of a group in its node -/

/-- A group of a node has ended: its batch leaves the bin, and the node may end (R89, R92, R428). -/
def State.groupEnded (s : State) (G : Group) (failed : Bool) : State :=
  let s1 := s.modNode G.rid G.node fun N =>
    { N with inFlight := N.inFlight - 1, failed := N.failed || failed,
             closed := match G.batch with | some b => N.closed.filter (fun x => x.no != b || !x.taken) | none => N.closed }
  s1.binEnd G.rid G.node

/-- The records of a group's batch. -/
def State.batchRecs (s : State) (G : Group) : List Rec :=
  match G.batch, s.node? G.rid G.node with
  | some b, some N => match N.closed.find? fun x => x.no == b && x.taken with | some x => x.recs | none => []
  | _, _ => []

/-- The end of a group whose fault is contained (R90, R367, R382). -/
def State.contain (s : State) (G : Group) : State :=
  let recs := s.batchRecs G
  let s1 := match s.tournOf G with
    | some (T, r) => if r.st == 1 then s.setRivalSt T r.idx 3 else s
    | none => s
  if G.copy then s1.endNode G.rid G.node 4 else (s1.groupEnded G true).loseRecords G.dev G.rid G.node recs

/-! ## The kill of a region (R97) -/

/-- A region with its descendants killed: work stopped, bins discarded with the records of other regions' samples in them, nodes ended, one KILLED
record each; a tournament scope is left in memory as it stands (DEDUCED, assumption log 20), and a sample whose record a discarded bin held fails
(DEDUCED, assumption log 86). -/
def State.killRegion : Nat → Nat → State → State
  | 0, _, s => s
  | k + 1, r, s =>
    match (s.readRcb r).region? r with
    | none => s
    | some R =>
      if 2 ≤ R.st || R.killed then s
      else
        let s0 := (s.readRcb r).modRegion r fun R => { R with killed := true, queue := [], pause := none, retry := false }
        let kids := (s0.regions.filter fun C => match C.parent with | some (p, _) => p == r | none => false).map fun C => C.rid
        let s1 := kids.foldl (fun s c => State.killRegion k c s) s0
        let (s2, bytes) := s1.killGroups ((s1.groups.filter fun G => G.rid == r).map fun G => G.uid)
        let dropped := R.nodes.foldl (fun n N => n + N.held_) 0
        let s3 := s2.modRegion r fun R => { R with nodes := R.nodes.map fun N => { N with open_ := [], expiry := none, closed := [], inFlight := 0 } }
        let s4 : State := { s3 with
          tourns := s3.tourns.filter (fun T => T.rid != r),
          clusters := s3.clusters.map fun C =>
            if C.dev == R.dev && C.jqLive && C.jqRid == r then
              { C with jqLive := false, jqOwner := none,
                       samples := C.samples.map fun x => if x.st == 1 then { x with st := 3, out := 0, pause := none } else x }
            else if C.dev == R.dev && C.jqWait && C.jqRid == r then { C with jqWait := false, jqPause := none, jqOwner := none }
            else C }
        let lost := R.nodes.foldl (fun s N => s.loseRecords R.dev r N.idx (N.closed.flatMap (fun b => b.recs) ++ N.open_)) s4
        let s5 := lost.record r { cls := .region, reason := 12, agent := .dobby, info := BitVec.ofNat 32 (min (2 ^ 32 - 1) dropped), bytes } 0 0 0 R.rcb
        let s6 := if R.st == 0 then s5.finishRegion r 4 else s5
        (R.nodes.map fun N => N.idx).foldl (fun s n =>
          match s.node? r n with
          | some N => s.endNode r n (if N.st == 2 then 4 else 5)
          | none => s) s6

/-! ## POLICY (R90) -/

/-- The domains that a fault passed up reaches, each with its REGION node, nearest first: every parent up to the first that does not propagate
(R90, R396). -/
def State.faultPath (s : State) : Nat → Nat → List (Region × Nat)
  | 0, _ => []
  | k + 1, r =>
    match s.region? r with
    | none => []
    | some R => match R.parent with
      | none => []
      | some (p, m) => match s.region? p with
        | none => []
        | some P => (P, m) :: (if P.policy == 1 then s.faultPath k p else [])

/-- A fault passed up from a region (R90): it is recorded in every domain that it reaches, and the topmost region that propagates it is killed with
everything below, so that its REGION node ends FAILED in the domain where the fault stops. -/
def State.passUp (s : State) (r : Nat) (t : TrapInfo) (gid core node : Nat) (rcb : DWord) : State :=
  let up := s.faultPath 8 r
  let top := ((up.filter fun x => x.1.policy == 1).map fun x => x.1.rid).getLastD r
  let s1 := (up.foldl (fun s x => s.record x.1.rid t gid core node rcb) s).killRegion 9 top
  match up.getLast? with
  | some (P, m) => if P.policy == 1 then s1 else s1.modNode P.rid m fun N => { N with failed := true }
  | none => s1

/-- A killed group queued again (R90): it keeps its index, its batch and its age. -/
def State.relaunch (s : State) (G : Group) : State :=
  s.modRegion G.rid fun R =>
    { R with queue := R.queue ++ [{ node := G.node, gid := G.gid, age := G.age, rival := G.rival, batch := G.batch, tries := G.relaunched + 1 }] }

/-- What the region's POLICY does about a fault whose record is written: the killed groups of the unit are relaunched or have ended. -/
def State.applyPolicy (s : State) (r : Nat) (t : TrapInfo) (node core gid : Nat) (killed : List Group) : State :=
  match s.region? r with
  | none => s
  | some R =>
    if R.policy == 1 then s.passUp r t gid core node R.rcb
    else if R.policy == 2 && R.idem && !s.modeBit R.dev R.ctx 4 && !R.killed && !killed.isEmpty && killed.all fun G => G.relaunched < 3 && !G.copy then
      killed.foldl (fun s G => s.relaunch G) s
    else
      let s1 := s.modNode r node fun N => { N with failed := true }
      killed.foldl (fun s G => s.contain G) s1

/-! ## Taking a trap (R393) -/

/-- The groups that fall with a group: its cluster group and its COSCHED grid (R393). -/
def State.unitOf (s : State) (G : Group) : List Nat :=
  let part (u : Option Nat) : List Nat := match u with
    | some u => (match s.party? u with | some P => P.members | none => [])
    | none => []
  let direct := G.uid :: part G.unit ++ part G.grid
  (direct ++ direct.flatMap fun g => match s.group? g with | some H => part H.unit | none => []).eraseDups

/-- A trap of a group: the record, the kill of the group or its whole unit, and POLICY. -/
def State.trapTaken (s : State) (g : Nat) (t : TrapInfo) : State :=
  match s.group? g with
  | none => s
  | some G =>
    match s.region? G.rid with
    | none => (s.killGroup g).1
    | some R =>
      let us := s.unitOf G
      let killed := us.filterMap s.group?
      let s1 := s.record G.rid t G.gid G.core G.node R.rcb
      let s2 := (s1.killGroups us).1
      s2.applyPolicy G.rid t G.node G.core G.gid killed

/-- A trap of a group taken; while a page that its record needs does not translate, the group stands still with the trap pending (R393, R399)
(DESIGN CHOICE, assumption log 12). -/
def State.takeTrap (s : State) (g : Nat) (t : TrapInfo) : State :=
  let u := s.trapTaken g t
  match s.dfault, u.dfault with
  | none, some x =>
    let t1 := ((s.group? g).bind fun G => G.pend).getD t
    (s.stallDobby x (some (.deferredTrap g t1), none, [])).modGroup g fun G => { G with pend := some t1 }
  | _, _ => u

end Sys2Proof.Machine
end

