-- ==== Sys2Proof/Machine/Place.lean ====
section
/-! DEFINITION. Sys2Proof/Machine/Place.lean: the placement of groups (R98 to R107, R286), retirement (R423 to R428), and the pre-emption, save
and restore of groups (R116, R117, R408 to R414). -/

namespace Sys2Proof.Machine

/-! ## What a core has free (R98, R100, R110) -/

/-- The weft still holds its lane slot (R143). -/
def Weft.onLane (w : Weft) : Bool := w.exited != 0xFFFF || !w.outs.isEmpty
/-- The wefts on a lane of a core. -/
def State.laneLoad (s : State) (d c l : Nat) : Nat :=
  (s.resident d c).foldl (fun n G => n + (G.wefts.filter fun w => w.lane == l && w.onLane).length) 0
/-- The wefts resident on a core. -/
def State.coreLoad (s : State) (d c : Nat) : Nat := (s.resident d c).foldl (fun n G => n + (G.wefts.filter Weft.onLane).length) 0
/-- Granules of a core that no group holds. -/
def State.freeGrans (s : State) (d c : Nat) : List Nat :=
  let used := (s.resident d c).flatMap fun G => G.grans
  (List.range 256).filter fun k => !used.contains k
/-- Extended blocks that a group's wefts hold (U). -/
def Group.inUse (G : Group) : Nat := G.wefts.foldl (fun n w => n + w.held) 0
/-- Pool blocks that a group reserves or holds. -/
def Group.blocks (G : Group) : Nat := max G.q G.inUse
/-- Free unreserved pool blocks of a core. -/
def State.freePool (s : State) (d c : Nat) : Nat := 128 - (s.resident d c).foldl (fun n G => n + G.blocks) 0
/-- The region with its ancestors admits more of a resource: cores, scratchpad KiB, tiles, blocks (R81, R100). -/
def State.budgetFits (s : State) (r d c grans tiles blocks : Nat) : Bool :=
  (s.ancestors 8 r).all fun a => match s.region? a with
    | none => true
    | some A =>
      let gs := s.groups.filter fun G => G.life != .saved && !G.copy && s.inTree a 8 G.rid
      let cores := ((d, c) :: gs.map fun G => (G.dev, G.core)).eraseDups
      cores.length ≤ A.cores && gs.foldl (fun n G => n + 4 * G.grans.length) (4 * grans) ≤ A.spad
        && gs.foldl (fun n G => n + G.ntiles) tiles ≤ A.tiles && gs.foldl (fun n G => n + G.blocks) blocks ≤ A.xblocks

/-- A core fits a group (R100). -/
def State.coreFits (s : State) (d c lanes grans tiles blocks : Nat) : Bool :=
  (s.resident d c).length < 16 && lanes ≤ ((List.range 32).filter fun l => s.laneLoad d c l < 8).length
    && grans ≤ (s.freeGrans d c).length && (s.resident d c).foldl (fun n G => n + G.ntiles) tiles ≤ 32 && blocks ≤ s.freePool d c
    && (s.core d c).regq.isEmpty && (grans == 0 || (s.core d c).spq.isEmpty)

/-- An admitted BEAMWR of the device is in progress (R201). -/
def State.beamWriting (s : State) (d : Nat) : Bool :=
  s.groups.any fun G => G.dev == d && G.cmds.any fun (c : Command) => leNat (c.bytes.take 4) % 16 == 4 && c.started && c.status.isNone

/-- A group of a node fits a core, its region's budgets included. -/
def State.nodeFits (s : State) (R : Region) (N : Node) (c : Nat) : Bool :=
  !(R.beam && s.beamWriting R.dev) && s.coreFits R.dev c (N.wefts + 1) N.gspad N.gtiles N.gxblk && s.budgetFits R.rid R.dev c N.gspad N.gtiles N.gxblk

/-! ## One group placed (R103 to R107) -/

/-- The lanes for `n` wefts: the least loaded first, the lowest number on a tie (R103). -/
def State.pickLanes (s : State) (d c n : Nat) : List Nat :=
  ((List.range 8).flatMap fun k => (List.range 32).filter fun l => s.laneLoad d c l == k).take n

/-- A new weft (R106). -/
def newWeft (wid lane : Nat) (seg params : DWord) (priv : Bool) : Weft :=
  { wid, lane, paths := [{ mask := 0xFFFF }], seg, priv, s := Sparse.set (Sparse.set [] 0 (loWord params)) 1 (hiWord params) }

/-- A group of a node is placed on a core, which ends a stall of the core (R115); the records of its batch come from the bin (R92).  Its
wefts start at ENTRY as it stands, a multiple of 4 KiB or not (R32) (DESIGN CHOICE, assumption log 94). -/
def State.placeAt (s : State) (R : Region) (N : Node) (W : Waiting) (c : Nat) (unit grid : Option Nat) (member : Nat) : State :=
  let (g, s1) := (s.modCore R.dev c fun k => { k with stall := none }).fresh
  let grans := (s1.freeGrans R.dev c).take N.gspad
  let batch : Option Batch := match W.batch with | some b => N.closed.find? (fun x => x.no == b) | none => none
  let recs : List Rec := match batch with | some b => b.recs | none => []
  let svc := !s.modeBit R.dev R.ctx 0 && Sparse.get (s.dev R.dev).mode (4 * R.ctx + 1) == R.nodeAddr N.idx
  let wefts := ((s1.pickLanes R.dev c (N.wefts + 1)).zipIdx).map fun (l, w) => newWeft w l N.entry N.params svc
  let G : Group :=
    { uid := g, dev := R.dev, core := c, ctx := R.ctx, rid := R.rid, node := N.idx, gid := W.gid, ngroups := N.len,
      nrec := recs.length, recseq := (match recs with | x :: _ => x.seq | [] => 0), batch := W.batch, rival := W.rival,
      unit := unit, grid := grid, member := member,
      age := W.age, placedAt := s.clk, relaunched := W.tries, grans := grans, q := N.gxblk, ntiles := N.gtiles, wefts,
      tiles := (List.range N.gtiles).map (fun n => { n }), bars := List.replicate 16 { expect := N.wefts + 1 }, bobs := List.replicate 64 {} }
  let mine (a : Nat) : Bool := zoneOf (localOf a) == .spad && devOf a == R.dev && (localOf a - 0x40080000000) / 2 ^ 20 == c
    && grans.contains ((localOf a - 0x40080000000) % 2 ^ 20 / 4096)
  let s2 : State := { s1.needRecs R N recs with groups := s1.groups ++ [G], mem := Sparse.drop s1.mem mine }
  let s3 := s2.setSpad G 0 (recs.flatMap fun x => s1.recBytes R N x)
  (s3.modRegion R.rid fun R => { R with queue := R.queue.filter fun x => !(x.node == W.node && x.gid == W.gid) }).modNode R.rid N.idx fun N =>
    { N with closed := N.closed.map fun b => if W.batch == some b.no then { b with taken := true, kept := R.policy == 2 && R.idem && !s.modeBit R.dev R.ctx 4 } else b }

/-! ## Units and the choice of a core (R99, R101) -/

/-- The first of two candidates by load. -/
def State.lighter (s : State) (d : Nat) : List Nat → Option Nat
  | [] => none
  | c :: cs => match s.lighter d cs with
    | none => some c
    | some b => if s.coreLoad d c ≤ s.coreLoad d b then some c else some b

/-- The fitting core of a die with the fewest wefts. -/
def State.chooseOn (s : State) (R : Region) (N : Node) (cores : List Nat) : Option Nat := s.lighter R.dev (cores.filter fun c => s.nodeFits R N c)

/-- The dies in the order of a region's search. -/
def Region.dies (R : Region) : List Nat := (List.range 4).map fun k => (R.die + k) % 4

/-- The core of a single group among some cores (R101). -/
def State.chooseCore (s : State) (R : Region) (N : Node) (cores : List Nat) : Option Nat :=
  R.dies.findSome? fun die => s.chooseOn R N (cores.filter fun c => c / 64 == die)

/-- The core that a waiting group gets: the one chosen for it if that still fits (R102), else the choice of R101. -/
def State.coreFor (s : State) (R : Region) (N : Node) (W : Waiting) (cores : List Nat) : Option Nat :=
  match W.chosen with
  | some c => if cores.contains c && s.nodeFits R N c then some c else s.chooseCore R N cores
  | none => s.chooseCore R N cores

/-- The members of a cluster group placed on distinct cores of a list. -/
def State.placeMembers (s : State) (R : Region) (N : Node) (unit grid : Option Nat) : List Waiting → List Nat → Nat → Option State
  | [], _, _ => some s
  | W :: Ws, cores, m =>
    match s.coreFor R N W cores with
    | none => none
    | some c => (s.placeAt R N W c unit grid m).placeMembers R N unit grid Ws (cores.filter (· != c)) (m + 1)

/-- The clusters in the order in which a cluster group tries them: the one chosen for it first (R102), then in the order of the dies (the order of a
die's clusters: DESIGN CHOICE, assumption log 7). -/
def Region.clusterOrder (R : Region) (Ws : List Waiting) : List Nat :=
  let all := R.dies.flatMap fun die => (List.range 8).map fun k => 8 * die + k
  match Ws.head?.bind fun W => W.chosen with
  | some c => c / 8 :: all.filter (· != c / 8)
  | none => all

/-- A cluster group placed whole in the first cluster that takes it, on some cores (R101). -/
def State.placeCluster (s : State) (R : Region) (N : Node) (grid : Option Nat) (cores : List Nat) (Ws : List Waiting) : Option State :=
  let (u, s1) := s.fresh
  let P : Party := { uid := u, cbars := List.replicate 4 {}, trd := { weft := { wid := clusterWid } } }
  (R.clusterOrder Ws).findSome? fun cl =>
    (s1.placeMembers R N (some u) grid Ws (cores.filter fun c => c / 8 == cl) 0).map fun t =>
      { t with units := t.units ++ [{ P with members := (t.groups.filter fun G => G.unit == some u).map fun G => G.uid }] }

/-- Waiting groups placed on some cores in chunks of cluster groups, or one by one, all or none (DEDUCED, assumption log 21); each
takes the core that R99 gives it after those before it, and no other choice of cores is tried (R101) (DESIGN CHOICE, assumption log 95). -/
def State.placeAll (s : State) (R : Region) (N : Node) (grid : Option Nat) (cores : List Nat) : Nat → List Waiting → Option State
  | 0, _ => some s
  | _, [] => some s
  | k + 1, W :: Ws =>
    if N.kind == 0 && 0 < N.cluster then
      match s.placeCluster R N grid cores ((W :: Ws).take (N.cluster + 1)) with
      | none => none
      | some t => t.placeAll R N grid cores k ((W :: Ws).drop (N.cluster + 1))
    else match s.coreFor R N W cores with
      | none => none
      | some c => (s.placeAt R N W c none grid 0).placeAll R N grid cores k Ws

/-- Whether a waiting group comes before another of its region (R99); groups equal in its keys stand in the order of their nodes (DESIGN CHOICE,
assumption log 75). -/
def Waiting.before (x y : Waiting) : Bool :=
  if x.age != y.age then x.age < y.age else if x.gid != y.gid then x.gid < y.gid else x.node ≤ y.node
/-- The head of a region's queue. -/
def headOf : List Waiting → Option Waiting
  | [] => none
  | x :: xs => match headOf xs with
    | none => some x
    | some y => if x.before y then some x else some y
/-- Whether a region's head comes before another's in a dobby's queue (R99); heads equal in its keys stand in the order of their regions' starts
(DESIGN CHOICE, assumption log 75). -/
def headBefore (x y : Region × Waiting) : Bool :=
  if x.1.prio != y.1.prio then y.1.prio < x.1.prio
  else if x.2.age != y.2.age then x.2.age < y.2.age
  else if x.2.gid != y.2.gid then x.2.gid < y.2.gid else x.1.rid ≤ y.1.rid
/-- A head put in its place. -/
def insertHead (x : Region × Waiting) : List (Region × Waiting) → List (Region × Waiting)
  | [] => [x]
  | y :: ys => if headBefore x y then x :: y :: ys else y :: insertHead x ys
/-- The heads of a dobby's queue by region, in queue order: a group that cannot be placed holds back those behind it in its region only. -/
def State.heads (s : State) (d die : Nat) : List (Region × Waiting) :=
  (s.regions.filterMap fun R => if R.dev == d && R.die == die then (headOf R.queue).map fun W => (R, W) else none).foldr insertHead []

/-- The waiting groups that are placed in one step with a head: its whole COSCHED grid, its cluster group, or itself (R101). -/
def Region.unitWaiting (R : Region) (N : Node) (W : Waiting) : List Waiting :=
  let same := (R.queue.filter fun x => x.node == W.node && x.saved.isNone).foldr (fun x l => (l.takeWhile fun y => y.gid < x.gid) ++ x :: l.dropWhile fun y => y.gid < x.gid) []
  if R.cosched && N.kind == 0 then same
  else if N.kind == 0 && 0 < N.cluster then same.filter fun x => x.gid / (N.cluster + 1) == W.gid / (N.cluster + 1)
  else [W]

/-- The cores of a device. -/
def deviceCores : List Nat := List.range 256

/-- A waiting unit placed on some cores, if it can be. -/
def State.placeUnit (s : State) (R : Region) (N : Node) (W : Waiting) (cores : List Nat) : Option State :=
  let Ws := R.unitWaiting N W
  if R.cosched && N.kind == 0 then
    let (u, s1) := s.fresh
    (s1.placeAll R N (some u) cores Ws.length Ws).map fun t =>
      { t with units := t.units ++ [{ uid := u, cluster := false, members := (t.groups.filter fun G => G.grid == some u).map fun G => G.uid,
                                      gbar := { expect := N.len * (N.wefts + 1) } }] }
  else s.placeAll R N none cores Ws.length Ws

/-! ## Retirement (R423 to R428) -/

/-- The group's treadle, and for member 0 the cluster treadle, is stopped (R423). -/
def State.treadlesOff (s : State) (G : Group) : Bool :=
  !G.trd.running && !(G.member == 0 && (match G.unit with | some u => (match s.party? u with | some P => P.trd.running | none => false) | none => false))

/-- Every weft of the group has exited. -/
def Group.exited (G : Group) : Bool := G.wefts.all fun w => w.exited == 0xFFFF

/-- Some outstanding instructions of a weft completed at a stop or an end (R145, R408, R425). -/
def Weft.finishOuts (w : Weft) (now : List Nat) : Weft :=
  let done := w.outs.filter fun o => now.contains o.n
  let lower (w : Weft) (o : Out) : Weft :=
    let put (w : Weft) (x : RegWrite) : Weft := match x.key with
      | .v n t => { w with v := Sparse.set w.v (16 * n + t) x.val }
      | .s n => { w with s := Sparse.set w.s n x.val }
      | .p n t => { w with p := Sparse.set w.p n (if x.val == 0 then Sparse.get w.p n &&& ~~~(bitMask t) else Sparse.get w.p n ||| bitMask t) }
      | .sp _ => w
    { o.writes.foldl put w with
      ld := w.ld - o.ld, st := w.st - o.st, tl := w.tl - o.tl,
      flags := if o.setf < 12 then Sparse.set w.flags o.setf (Sparse.get w.flags o.setf - 1) else w.flags }
  { done.foldl lower w with outs := w.outs.filter fun o => !now.contains o.n }

/-- The wefts of a group as they stand once its open `topen`s have completed without their missing sources (R425). -/
def State.closedWefts (s : State) (G : Group) : List Weft :=
  let opens := ((s.core G.dev G.core).ops.filter fun o => o.g == G.uid && o.form == .topen).map fun o => o.out
  G.wefts.map fun w => w.finishOuts opens

/-- The conditions of R423; an open `topen` completes with them (R425). -/
def State.canRetire (s : State) (G : Group) : Bool :=
  G.exited && !G.copy && G.life == .placed && s.treadlesOff G
    && (s.closedWefts G).all (fun w => w.outs.isEmpty && w.flags.isEmpty && w.ld == 0 && w.st == 0 && w.cp == 0 && w.tl == 0)
    && !(s.core G.dev G.core).queue.any (fun e => e.users.any fun u => u.path.g == G.uid)
    && !s.deliveries.any (fun x => x.op.g == G.uid)
    && !((s.core G.dev G.core).ops.any fun o => o.g == G.uid && o.form != .topen)
    && G.cmds.isEmpty
    && s.unread G == 0
    && G.pend.isNone

/-- The resources of a retired group freed as one event (R425, R427), and its node one step closer to its end. -/
def State.retire (s : State) (G : Group) : State :=
  let s1 := s.modCore G.dev G.core fun c => { c with ops := c.ops.filter fun o => o.g != G.uid }
  (s1.dropGroup G).groupEnded G false

/-- GROUP_RETIRE (R423). -/
def State.groupRetire (s : State) (g : Nat) : State :=
  match s.group? g with
  | none => s
  | some G => if s.canRetire G then s.retire G else s

/-- Every write of the groups of a grid is published at level 3 (R428). -/
def State.gridPublished (s : State) (r n : Nat) : Bool :=
  !(s.reqs.any fun q => q.users.any fun u => u.grid == (r, n)) && !(s.cores.any fun c => c.queue.any fun e => e.users.any fun u => u.grid == (r, n))

/-- A rival's grid has completed: FIN, and the end of its node (R380, R383, R385). -/
def State.rivalDone (s : State) (T : Tourn) (i : Nat) : State :=
  match s.region? T.rid with
  | none => s
  | some R =>
    (s.modTourn T.sid fun T => { T with rivals := modIf (fun r => r.idx == i) (fun r => { r with fin := 1 }) T.rivals }).dput R.dev R.ctx
      (T.addr + BitVec.ofNat 64 (0x40 + 16 * i)) 18 18 1

/-- The end of a scope with its winner's grid: the TOURN node ends by the winner's RSTATE as it is now, and STATE says the same (R385). -/
def State.tournOver (s : State) (T : Tourn) : State :=
  match T.rivals.find? fun r => r.idx == T.winner with
  | none => s
  | some w =>
    if T.st < 2 || w.fin != 1 then s
    else
      let st := if w.st == 1 then 2 else 3
      let s1 : State := { s with tourns := s.tourns.filter fun x => x.sid != T.sid }
      let s2 := match s.region? T.rid with | some R => if st == T.st then s1 else s1.dput R.dev R.ctx T.addr 12 11 st | none => s1
      s2.endNode T.rid T.node (if st == 2 then 3 else 4)

/-- GRID_COMPLETE (R428): every group of the grid has ended and its writes are published. -/
def State.gridComplete (s : State) (r n : Nat) : State :=
  match s.region? r with
  | none => s
  | some R => match R.node? n with
    | none => s
    | some N =>
      if N.kind == 0 && N.st == 2 && N.inFlight == 0 && s.gridPublished r n then
        let s1 := s.endNode r n (if N.failed then 4 else 3)
        match s1.tourns.findSome? fun T => if T.rid == r then (T.rivals.find? fun x => x.node == n).map fun x => (T, x) else none with
        | none => s1
        | some (T, x) =>
          let s2 := s1.rivalDone T x.idx
          match s2.tourn? T.sid with | some T1 => s2.tournOver T1 | none => s2
      else s

/-! ## Pre-emption (R116, R408 to R414) -/

/-- A held instruction at a pre-emption (R408): 0 it is withdrawn, 1 it ends without its effect, 3 it completes first, 2 it stays held (DEDUCED,
DEDUCED, assumption log 59). -/
def Why.atPreempt : Why → Nat
  | .regacq | .spgrow | .beamwait | .bwait | .adld | .twait | .stall | .retry | .withdrawn | .regrel | .fence | .tlbi | .shcancel | .tfence | .tstop => 0
  | .trywait | .sleep => 1
  | .post | .cmdw | .jqstart => 3
  | _ => 2

/-- A path at the stop of a pre-emption; one that does not stay held fetches anew. -/
def Path.stop (p : Path) : Path :=
  match p.hold with
  | none => { p with line := none }
  | some h =>
    match h.why.atPreempt with
    | 0 => { p with hold := some { h with why := .withdrawn, arg := 0, test := none }, line := none }
    | 1 => { p with hold := none, pc := p.pc + 1, line := none }
    | _ => p

/-- The paths of a weft at the stop of a pre-emption. -/
def Weft.stop (w : Weft) : Weft := { w with paths := w.paths.map Path.stop, young := [] }

/-- The instructions that stay outstanding in a saved group: those of held paths. -/
def Weft.heldOuts (w : Weft) : List Nat := w.paths.filterMap fun p => p.hold.map fun h => h.out
/-- The instructions that a stop ends: held `trywait`s and `sleep`s. -/
def Weft.endedOuts (w : Weft) : List Nat := w.paths.filterMap fun p => p.hold.bind fun h => if h.why.atPreempt == 1 then some h.out else none

/-- The stalled paths of a group leave the waiter counts of their pages, those for which a dobby waits among them (R401). -/
def State.leaveWaits (s : State) (G : Group) : State :=
  let mine (w : DStall) : Bool := w.path.any fun r => r.g == G.uid
  let s0 := (s.dstalls.filter mine).foldl (fun s w =>
    s.modCtx w.dev w.ctx fun C => { C with faults := modIf (fun e => e.page == w.page) (fun e => { e with waiters := e.waiters - 1 }) C.faults }) s
  (G.wefts.flatMap fun w => w.paths.filterMap fun p => p.hold).foldl (fun s h =>
    if h.why == .stall && h.va == 1 then
      s.modCtx G.dev G.ctx fun C => { C with faults := modIf (fun e => e.page == h.arg) (fun e => { e with waiters := e.waiters - 1 }) C.faults }
    else s) { s0 with dstalls := s0.dstalls.filter fun w => !mine w }

/-- A group stopped at an instruction boundary (R408): requests leave their queues, stores are published, held waits are withdrawn, ended or kept. -/
def State.stopGroup (s : State) (g : Nat) : State :=
  match s.group? g with
  | none => s
  | some G =>
    let mine (r : PathRef) : Bool := r.g == g
    let s1 := (s.modCore G.dev G.core fun c => { c with regq := c.regq.filter (fun r => !mine r), spq := c.spq.filter (fun r => !mine r) }).publishGroup G
    (s1.leaveWaits G).modGroup g fun G =>
      { G with life := .saving,
               wefts := G.wefts.map fun w => w.stop.finishOuts w.endedOuts,
               trd := { G.trd with weft := G.trd.weft.stop } }

/-- Slot `k` of a region's save area holds a saved group, or is given to one: what USED says of it, which nothing but the dobby writes (R8, R410). -/
def State.slotUsed (s : State) (R : Region) (k : Nat) : Bool :=
  s.groups.any fun G => G.slot == some k && G.dev == R.dev && G.ctx == R.ctx && ((s.region? G.rid).map fun x => x.save) == some R.save

/-- The lowest free slot of a region's save area (R410). -/
def State.freeSlot (s : State) (R : Region) : Option Nat :=
  (List.range (min 4096 (s.vnum R.dev R.ctx R.save 2))).find? fun k => !s.slotUsed R k

/-- Slots given to groups in turn; none if one region has too few.  A control block that does not translate stops the dobby (R399). -/
def State.takeSlots (s : State) : List Nat → Option State
  | [] => some s
  | g :: gs => match s.group? g with
    | none => s.takeSlots gs
    | some G => match s.region? G.rid with
      | none => none
      | some R =>
        let s0 := s.dneed R.dev R.ctx R.save 0x208
        if s0.dfault.isSome then some s0
        else match s0.freeSlot R with
        | none => none
        | some k =>
          ((s0.modGroup g fun G => { G with slot := some k }).dput R.dev R.ctx (R.save + BitVec.ofNat 64 (8 + k / 64 * 8)) (k % 64) (k % 64) 1).takeSlots gs

/-- The groups that a removal from some cores would take, until what waits fits: lowest priority first, then latest placed, a restore counting as a
placement and the later of the list among equals (R116; DESIGN CHOICE, assumption log 76); a group whose region has no free slot for it stays (R410). -/
def State.victims (s : State) (prio : Nat) (d : Nat) (cores : List Nat) (fits : State → Bool) : Nat → List Nat → Option (List Nat)
  | 0, _ => none
  | k + 1, gone =>
    let t : State := { s with groups := s.groups.filter fun G => !gone.contains G.uid }
    if fits t then some gone
    else
      let prioOf (G : Group) : Nat := match s.region? G.rid with | some x => x.prio | none => 15
      let out (G : Group) : List Nat := gone ++ (s.unitOf G).filter fun g => !gone.contains g
      let better (G H : Group) : Bool := prioOf G < prioOf H || (prioOf G == prioOf H && H.placedAt ≤ G.placedAt)
      match (cores.flatMap fun c => t.resident d c).filter fun G => G.life == .placed && prioOf G < prio && (s.takeSlots (out G)).isSome with
      | [] => none
      | G :: Gs =>
        let v := Gs.foldl (fun b G => if better G b then G else b) G
        s.victims prio d cores fits k (out v)

/-- The removed wefts of a list of groups, those that have exited among them (R116) (DESIGN CHOICE, assumption log 76). -/
def State.weftsOf (s : State) (gs : List Nat) : Nat := gs.foldl (fun n g => n + (match s.group? g with | some G => G.wefts.length | none => 0)) 0

/-- The state once the saves in progress have freed their groups' resources. -/
def State.afterSaves (s : State) : State := { s with groups := s.groups.filter fun G => G.life != .saving }

/-- A tag as it is coded in a save area (R412). -/
def Tag.code : Tag → Nat
  | .x128 => 0 | .k32 => 1 | .c32k => 2

/-- Bytes of a list of numbers of `n` bytes each. -/
def packBytes (n : Nat) (xs : List Nat) : List Byte := xs.flatMap fun x => leBytes n x

/-- A bobbin's state code (R51, R231). -/
def bobCode : BobState → Nat
  | .free => 0 | .filling => 1 | .full => 2 | .draining => 3 | .faulted => 4

/-- The group header (R412). -/
def Group.header (G : Group) : List Byte :=
  let t := G.trd
  let cmd (c : Command) : List Byte := leBytes 4 c.seq.toNat ++ leBytes 8 (c.done % 2 ^ 48) ++ leBytes 4 c.box
  let pcOf (w : Weft) : Nat := match w.paths with | p :: _ => p.pc.toNat | [] => 0
  packBytes 4 [G.node + 4096 * G.core, G.gid, G.spadsz, G.ringcfg.toNat]
  ++ leBytes 8 (G.tiles.foldl (fun n x => n + x.tag.code * 4 ^ x.n) 0)
  ++ packBytes 4 [G.tiles.foldl (fun n x => n + x.nar.toNat * 2 ^ x.n) 0, t.running.toNat + 2 * G.tdfail.toNat]
  ++ G.bars.flatMap (fun b => packBytes 4 [b.phase.toNat, b.arrived, b.expect])
  ++ G.bobs.flatMap (fun b => packBytes 4 [bobCode b.st + 8 * b.overrun.toNat, b.off.toNat, b.expect.toNat, b.remain.toNat])
  ++ (((G.cmds.filter fun (c : Command) => c.started && c.status.isNone).flatMap cmd ++ List.replicate 128 0).take 128)
  ++ (leBytes 4 (pcOf t.weft) ++ [BitVec.ofNat 8 t.running.toNat]
      ++ (List.range 4).flatMap (fun k => [Sparse.get t.lc k, Sparse.get t.ring k]) ++ [0, 0, 0]
      ++ (List.range 64).flatMap (fun n => leBytes 4 (Sparse.get t.weft.s n).toNat))
  ++ (match G.pend with
      | some x => packBytes 4 [classCode x.cls + 16 * x.reason, x.pc.toNat, x.info.toNat, 0]
      | none => List.replicate 16 0)

/-- A weft's record (R413). -/
def Weft.record (w : Weft) : List Byte :=
  let withdrawn (p : Path) : Bool := match p.hold with | some h => h.why == .withdrawn | none => false
  let rejoins (p : Path) : Bool := match p.hold with | some h => h.why == .rejoin | none => false
  let path (p : Path) : List Byte :=
    leBytes 4 p.pc.toNat ++ leBytes 2 p.mask.toNat ++ [p.age] ++ [BitVec.ofNat 8 ((rejoins p).toNat + 2 * (withdrawn p).toNat)]
  (List.range 64).flatMap (fun n => leBytes 4 (Sparse.get w.s n).toNat)
  ++ (List.range 7).flatMap (fun n => leBytes 2 (Sparse.get w.p n).toNat) ++ leBytes 2 w.exited.toNat
  ++ ((w.paths.flatMap path ++ List.replicate 128 0).take 128)
  ++ leBytes 8 ((List.range 12).foldl (fun n k => n + (Sparse.get w.flags k).toNat * 8 ^ k) 0
      + 2 ^ 36 * (w.ld + 64 * w.st + 64 ^ 2 * w.cp + 64 ^ 3 * w.tl) + 2 ^ 60 * w.held + 2 ^ 62 * w.priv.toNat)
  ++ (((w.paths.filter withdrawn).flatMap (fun (p : Path) => leBytes 2 (match p.hold with | some h => h.pmask.toNat | none => 0)) ++ List.replicate 32 0).take 32)
  ++ leBytes 4 w.epc.toNat ++ leBytes 4 w.ecode.toNat ++ leBytes 8 w.eseg.toNat ++ [BitVec.ofNat 8 w.lane]

/-- The image of a group in its slot (R409, R411) (DEDUCED, assumption log 19). -/
def State.saveImage (s : State) (R : Region) (G : Group) (k : Nat) : State :=
  let base := R.save + BitVec.ofNat 64 (0x10000 + 0x210000 * k)
  let put (s : State) (off : Nat) (bs : List Byte) : State := s.dputBytes R.dev R.ctx (base + BitVec.ofNat 64 off) bs
  let s1 := G.tiles.foldl (fun s t => put s (0x4000 * t.n) ((List.range 1024).flatMap fun c => leBytes 16 (Sparse.get t.cells c).toNat)) s
  let s2 := put s1 0x80000 (s1.spadBytes G 0 G.spadsz)
  let s3 := G.wefts.foldl (fun s w => put s (0x180000 + 4096 * w.wid)
    ((List.range 16).flatMap fun t => (List.range 64).flatMap fun n => leBytes 4 (Sparse.get w.v (16 * n + t)).toNat)) s2
  let s4 := G.wefts.foldl (fun s w => (List.range w.held).foldl (fun s b => put s (0x1A0000 + 12288 * w.wid + 4096 * b)
    ((List.range 16).flatMap fun t => (List.range 64).flatMap fun n => leBytes 4 (Sparse.get w.v (16 * (n + 64 * (b + 1)) + t)).toNat)) s) s3
  let s5 := put s4 0x200000 G.header
  G.wefts.foldl (fun s w => put s (0x201000 + 512 * w.wid) w.record) s5

/-- A stopped group has instructions that complete before it is saved (R408). -/
def Group.finishing (G : Group) : Bool :=
  G.wefts.any fun w => w.outs.any (fun o => !w.heldOuts.contains o.n) || w.paths.any fun p => match p.hold with | some h => h.why.atPreempt == 3 | none => false

/-- SAVE_COMPLETE (R409): the image is written, the resources are free and the group waits for its core with its age. -/
def State.saveComplete (s : State) (g : Nat) : State :=
  match s.group? g with
  | none => s
  | some G =>
    if G.life != .saving || (s.core G.dev G.core).ops.any (fun o => o.g == g && o.form != .topen) || s.deliveries.any (fun x => x.op.g == g)
      || G.finishing then s
    else match s.region? G.rid, G.slot with
      | some R, some k =>
        let s1 := (s.modCore G.dev G.core fun c => { c with stall := none }).saveImage R G k
        (s1.modGroup g fun G => { G with life := .saved, kept := s.spadBytes G 0 G.spadsz }).modRegion G.rid fun R =>
          { R with queue := R.queue ++ [{ node := G.node, gid := G.gid, age := G.age, rival := G.rival, batch := G.batch, tries := G.relaunched, saved := some g }] }
      | _, _ => s

/-- A saved group's core fits it again, without the lanes it keeps (R117). -/
def State.restoreFits (s : State) (G : Group) : Bool :=
  (s.resident G.dev G.core).length < 16 && (G.wefts.filter Weft.onLane).all (fun w => s.laneLoad G.dev G.core w.lane < 8)
    && G.grans.length ≤ (s.freeGrans G.dev G.core).length && (s.resident G.dev G.core).foldl (fun n H => n + H.ntiles) G.ntiles ≤ 32
    && G.blocks ≤ s.freePool G.dev G.core && (s.core G.dev G.core).regq.isEmpty && (G.grans.isEmpty || (s.core G.dev G.core).spq.isEmpty)
    && s.budgetFits G.rid G.dev G.core G.grans.length G.ntiles G.blocks

/-- One saved group restored on its core and lanes from the slot it leaves (R409, R410); its window's bytes are as they were saved, since a store to a
slot has no effect (R8, R117, R411). -/
def State.restoreOne (s : State) (g : Nat) : Option State :=
  match s.group? g with
  | none => none
  | some G => match s.region? G.rid, G.slot with
    | some R, some k =>
      if G.life == .saved && s.restoreFits G then
        let grans := (s.freeGrans G.dev G.core).take G.grans.length
        let base := R.save + BitVec.ofNat 64 (0x10000 + 0x210000 * k + 0x80000)
        let G1 := { G with life := .placed, slot := none, kept := [], grans, placedAt := s.clk }
        let s0 := (s.dneed R.dev R.ctx base G.spadsz).modCore G.dev G.core fun c => { c with stall := none }
        let s1 := (s0.modGroup g fun _ => G1).setSpad G1 0 G.kept
        let s2 := s1.dput R.dev R.ctx (R.save + BitVec.ofNat 64 (8 + k / 64 * 8)) (k % 64) (k % 64) 0
        some (s2.modRegion G.rid fun R => { R with queue := R.queue.filter fun W => W.saved != some g })
      else none
    | _, _ => none

/-- Saved groups restored, all or none. -/
def State.restoreAll (s : State) : List Nat → Option State
  | [] => some s
  | g :: gs => match s.restoreOne g with
    | none => none
    | some t => t.restoreAll gs

/-! ## The dobby's queue served (R99, R102, R116) -/

/-- One head placed on some cores, or its saved unit restored on its own, if it can be. -/
def State.placeHead (s : State) (R : Region) (W : Waiting) (cores : List Nat) : Option State :=
  match W.saved with
  | some h => match s.group? h with
    | some G => s.restoreAll (s.unitOf G)
    | none => none
  | none => match R.node? W.node with
    | some N => s.placeUnit R N W cores
    | none => none

/-- The first head of a dobby's queue that can be placed, and the state that its placement leaves (R99). -/
def State.firstHead (s : State) (d die : Nat) : Option (Waiting × State) :=
  (s.heads d die).findSome? fun (R, W) => (s.placeHead R W deviceCores).map fun t => (W, t)

/-- GROUP_PLACE: the first head of a dobby's queue that can be placed is placed, unless it is a saved group, which RESTORE resumes (R99 to R106). -/
def State.groupPlace (s : State) (d die : Nat) : State :=
  match s.firstHead d die with
  | some (W, t) => if W.saved.isNone then t else s
  | none => s

/-- RESTORE (R117): the unit of a saved group that is the first head of its dobby's queue that can be placed resumes on its cores. -/
def State.restore (s : State) (g : Nat) : State :=
  match s.group? g with
  | none => s
  | some G => match s.region? G.rid with
    | none => s
    | some R => match s.firstHead R.dev R.die with
      | some (W, t) => if (match W.saved with | some h => (s.unitOf G).contains h | none => false) then t else s
      | none => s

/-- The core that a placed unit's group got. -/
def State.coreOf (s : State) (W : Waiting) (r : Nat) : Option Nat :=
  (s.groups.find? fun G => G.rid == r && G.node == W.node && G.gid == W.gid && G.life == .placed).map fun G => G.core

/-- A dobby chooses the cores of its first head before the cores' allocators apply its placement; another dobby's may come first (R102); how long the choice
waits is open (DESIGN CHOICE, assumption log 88). -/
def State.chooseHead (s : State) (d die : Nat) : State :=
  match (s.heads d die).findSome? fun (R, W) => (s.placeHead R W deviceCores).map fun t => (R, W, t) with
  | none => s
  | some (R, W, t) => match R.node? W.node, W.saved with
    | some N, none =>
      let Ws := R.unitWaiting N W
      s.modRegion R.rid fun R =>
        { R with queue := R.queue.map fun x => if Ws.any (fun y => y.node == x.node && y.gid == x.gid) then { x with chosen := t.coreOf x R.rid } else x }
    | _, _ => s

/-- No path of the group has gone past an instruction that is still to do its work. -/
def State.settled (s : State) (g : Nat) : Bool :=
  match s.group? g with
  | some G => G.wefts.all fun w => w.late.isEmpty
  | none => true

/-- The sets of cores on which a removal may make room for a head, in the order of R101, each with the test that the head fits there: one core for a
single group, one cluster for a cluster group, the device for a COSCHED grid, its own cores for a saved unit (DESIGN CHOICE, assumption log 76). -/
def State.rooms (s : State) (R : Region) (W : Waiting) : List (List Nat × (State → Bool)) :=
  match W.saved with
  | some h => match s.group? h with
    | some G =>
      let unit := s.unitOf G
      [((unit.filterMap s.group?).map fun H => H.core, fun t => (t.restoreAll unit).isSome)]
    | none => []
  | none => match R.node? W.node with
    | none => []
    | some N =>
      let on (cores : List Nat) : List Nat × (State → Bool) := (cores, fun t => (t.placeUnit R N W cores).isSome)
      if R.cosched && N.kind == 0 then [on deviceCores]
      else if N.kind == 0 && 0 < N.cluster then (R.clusterOrder []).map fun cl => on ((List.range 8).map fun k => 8 * cl + k)
      else R.dies.flatMap fun die => (List.range 64).map fun k => on [64 * die + k]

/-- PREEMPT (R116): the head of a dobby's queue that fits nowhere, the saves in progress counted as done, takes the room that needs the fewest removed
wefts; on a tie the nearer die's, then the one with the fewest resident wefts, then the first. -/
def State.preempt (s : State) (d die : Nat) : State :=
  match s.heads d die with
  | [] => s
  | (R, W) :: _ =>
    let t0 := s.afterSaves
    let rooms := s.rooms R W
    if rooms.any fun x => x.2 t0 then s
    else
      let dieAt (cores : List Nat) : Nat := (R.dies.findIdx? fun k => (cores.headD 0) / 64 == k).getD 0
      let load (cores : List Nat) : Nat := cores.foldl (fun n c => n + s.coreLoad d c) 0
      let cands := rooms.filterMap fun x => (t0.victims R.prio d x.1 x.2 (t0.groups.length + 1) []).map fun v => (v, s.weftsOf v, dieAt x.1, load x.1)
      match cands with
      | [] => s
      | v :: vs =>
        let before (x y : List Nat × Nat × Nat × Nat) : Bool :=
          x.2.1 < y.2.1 || (x.2.1 == y.2.1 && (x.2.2.1 < y.2.2.1 || (x.2.2.1 == y.2.2.1 && x.2.2.2 < y.2.2.2)))
        let best := (vs.foldl (fun b v => if before v b then v else b) v).1
        match s.takeSlots best with
        | none => s
        | some t => if best.all s.settled then best.foldl (fun s g => s.stopGroup g) t else s

end Sys2Proof.Machine
end

