-- ==== Sys2Proof/Machine/Ops.lean ====
section
/-! DEFINITION. Sys2Proof/Machine/Ops.lean: the named operations over registers and paths: what an executing instruction knows, the reads and
writes of registers with their hazards (R126, R136, R302), issue and completion (R56, R109, R123 to R130), traps (R392, R393), entering and
leaving supervisor mode (R406). -/

namespace Sys2Proof.Machine

/-! ## Registers -/

/-- A number for each register, for the free values. -/
def RegKey.code : RegKey → Nat
  | .v n t => 16 * n + t
  | .s n => 4096 + n
  | .p n t => 4224 + 16 * n + t
  | .sp n => 5000 + n

/-- The register a weft holds; a predicate reads 0 or 1, and index 7 is true (R34, R108). -/
def Weft.reg (w : Weft) : RegKey → Word
  | .v n t => Sparse.get w.v (16 * n + t)
  | .s n => Sparse.get w.s n
  | .p n t => if n == 7 || (Sparse.get w.p n).getLsbD t then 1 else 0
  | .sp _ => 0

/-- The weft with one register written; a write to pt is ignored (R149). -/
def Weft.setReg (w : Weft) (k : RegKey) (x : Word) : Weft :=
  match k with
  | .v n t => { w with v := Sparse.put w.v (16 * n + t) x }
  | .s n => { w with s := Sparse.put w.s n x }
  | .p n t =>
    if n == 7 then w
    else { w with p := Sparse.put w.p n (if x == 0 then Sparse.get w.p n &&& ~~~(bitMask t) else Sparse.get w.p n ||| bitMask t) }
  | .sp _ => w

/-! ## What an executing instruction knows -/

/-- The issuer of the word being executed: its group, region, weft and path as they stand, the threads its guard selects (R34), what held it
until now, the name of its outstanding record, and the instruction itself where its path has gone past it. -/
structure Ctx where
  r    : PathRef
  G    : Group
  R    : Region
  wf   : Weft
  p    : Path
  sel  : Mask := 0
  hold : Option Hold := none
  out  : Nat := 0
  late : Option Late := none
  deriving DecidableEq, Repr

/-- The issuer is a treadle (R236). -/
def Ctx.isTreadle (c : Ctx) : Bool := treadleWid ≤ c.r.w
/-- The device, the context and the core of the issuer. -/
def Ctx.dev (c : Ctx) : Nat := c.G.dev
/-- The context. -/
def Ctx.ctx (c : Ctx) : Nat := c.G.ctx
/-- The core. -/
def Ctx.core (c : Ctx) : Nat := c.G.core
/-- The issuer reads in supervisor mode. -/
def Ctx.priv (c : Ctx) : Bool := c.wf.priv
/-- The threads that an earlier attempt has performed (R205). -/
def Ctx.done (c : Ctx) : Mask := match c.hold with | some h => h.pmask | none => 0
/-- A resumed instruction held for this reason. -/
def Ctx.heldAs (c : Ctx) (why : Why) : Bool := match c.hold with | some h => h.why == why | none => false
/-- The number a hold carries. -/
def Ctx.arg (c : Ctx) : Nat := match c.hold with | some h => h.arg | none => 0
/-- The issuer's entry in a write queue, with the ST units that access `n` of threads `thr` lowers. -/
def Ctx.user (c : Ctx) (units n : Nat) (thr : Mask) : QUser :=
  { path := c.r, pc := c.p.pc, units, n, out := c.out, sel := c.sel, thr, ctx := c.G.ctx, grid := (c.G.rid, c.G.node) }

/-- A register as the weft holds it; an instruction that its path has gone past sees it as it stood at the issue or as it stands now (R302). -/
def Ctx.held (c : Ctx) (s : State) (k : RegKey) : Word :=
  match c.late with
  | none => c.wf.reg k
  | some l => if l.old || Config.lateSource s.tick k.code then ({ wid := 0, v := l.v, s := l.s, p := l.p } : Weft).reg k else c.wf.reg k
/-- The results that the issuer may read too early. -/
def Ctx.young (c : Ctx) : List Young := match c.late with | none => c.wf.young | some l => l.young

/-- A register as the issuer reads it.  A register that an outstanding instruction writes, or a result that is too young, reads as the older
or the newer value, and which one is open (R126, R136, R302). -/
def Ctx.reg (c : Ctx) (s : State) (k : RegKey) : Word :=
  let cur := c.held s k
  let late := (c.wf.outs.filter fun o => o.n != c.out).findSome? fun o => (o.writes.find? fun x => x.key == k).map fun x => x.val
  match late with
  | some v => if Config.earlyRead s.tick k.code then v else cur
  | none =>
    match c.young.find? fun y => y.key == k with
    | some y => if (y.mask &&& c.p.mask != 0 || s.clk < y.at_ + 6) && Config.earlyRead s.tick k.code then y.old else cur
    | none => cur

/-- A scalar register. -/
def Ctx.s (c : Ctx) (s : State) (n : Nat) : Word := c.reg s (.s n)
/-- A vector register of a thread. -/
def Ctx.v (c : Ctx) (s : State) (n t : Nat) : Word := c.reg s (.v n t)
/-- A predicate of a thread. -/
def Ctx.pd (c : Ctx) (s : State) (n t : Nat) : Bool := n == 7 || c.reg s (.p n t) != 0

/-- The threads of the path that the guard selects (R34). -/
def Ctx.guard (c : Ctx) (s : State) (f : Fields) : Mask :=
  if f.gp == 7 then (if f.neg then 0 else c.p.mask)
  else maskOf ((threadsOf c.p.mask).filter fun t => c.pd s f.gp.toNat t != f.neg)

/-- The region of a group; a group without one reads as in an empty region. -/
def State.regionOf (s : State) (G : Group) : Region := (s.region? G.rid).getD { rid := G.rid, dev := G.dev, rcb := 0, ctx := G.ctx }

/-- What a path knows as it stands. -/
def State.ctxAt (s : State) (r : PathRef) : Option Ctx :=
  match s.group? r.g, s.weft? r.g r.w with
  | some G, some wf => match wf.path? r.t with
    | some p => some { r, G, R := s.regionOf G, wf, p, hold := p.hold, out := (p.hold.map fun h => h.out).getD 0, sel := (p.hold.map fun h => h.sel).getD 0 }
    | none => (wf.late? r.t).map fun l =>
        { r, G, R := s.regionOf G, wf, p := l.view, hold := some l.hold, out := l.hold.out, sel := l.hold.sel, late := some l }
  | _, _ => none

/-- The issuer named by the state, if it is there. -/
def State.ctx? (s : State) : Option Ctx := match s.issuer with | none => none | some r => s.ctxAt r

/-- A young result as it stands when a path issues (R126, R136). -/
def pruneYoung (clk gap : Nat) (mask : Mask) (ys : List Young) : List Young :=
  ys.filterMap fun y =>
    let m := if y.gap + 6 ≤ gap then y.mask &&& ~~~mask else y.mask
    if m == 0 && y.at_ + 6 ≤ clk then none else some { y with mask := m }

/-- The issuer with the young results that a word with this DIST still meets (R126). -/
def Ctx.near (c : Ctx) (clk : Nat) (f : Fields) : Ctx :=
  { c with wf := { c.wf with young := pruneYoung clk (c.p.gap + max f.dist.toNat 1) c.p.mask c.wf.young } }

/-- The issuer of a state with the threads that the word's guard selects (R34); a held instruction keeps the threads it selected. -/
def State.issuing (s : State) (f : Fields) : Option Ctx :=
  s.ctx?.map fun c => { c with sel := match c.hold with | some h => h.sel | none => (c.near s.clk f).guard s.ticked f }

/-! ## Changing the issuer -/

/-- The issuing path changed. -/
def State.modP (s : State) (c : Ctx) (g : Path → Path) : State := s.modWeft c.r.g c.r.w fun wf => wf.modRef c.r.t g
/-- The issuing weft changed. -/
def State.modW (s : State) (c : Ctx) (g : Weft → Weft) : State := s.modWeft c.r.g c.r.w g
/-- The issuing group changed. -/
def State.modG (s : State) (c : Ctx) (g : Group → Group) : State := s.modGroup c.r.g g

/-- The path goes on to the next instruction. -/
def State.advance (s : State) (c : Ctx) : State := s.modP c fun p => { p with pc := p.pc + 1, hold := none }

/-- The path is held at its instruction, or stays held; `arg` and `va` keep what the instruction has read of its operands (DEDUCED, assumption log 85). -/
def State.holdP (s : State) (c : Ctx) (why : Why) (arg : Nat) (pmask : Mask) (va : DWord := 0) : State :=
  s.modP c fun p => { p with hold := some { why, arg, pmask, out := c.out, sel := c.sel, va } }

/-! ## Issue -/

/-- A fixed-latency form (R125) (DEDUCED, assumption log 31). -/
def formFixed (i : Form) : Bool :=
  match i with
  | .div | .rem | .xcvt | .kcvt | .rcp | .divFloat | .sqrt | .rsqrt | .ex2 | .lg2 | .sinpi | .cospi | .tanh | .trywait => false
  | _ => i.group ≤ 7

/-- The occupancy of an instruction (R123). -/
def formPasses (i : Form) (f : Fields) (sel : Mask) : Nat :=
  let one := (f.rows * f.cols + 15) / 16
  if i.group == 0 || i.group == 14 || sel == 0 then 1 else if f.u then one else one * (threadsOf sel).length

/-- The forms that raise LD, and those that raise ST, once per selected thread (R129). -/
def formLoads (i : Form) : Bool :=
  match i with
  | .ld | .lds | .ldb | .ldsel | .ldf | .adld | .adpeek | .adforce | .usecnt | .atom | .atomv | .cas => true
  | _ => false
/-- ST. -/
def formStores (i : Form) : Bool :=
  match i with
  | .st | .sts | .red | .redv | .accr | .accflush | .adst | .useadj | .mcast | .countb => true
  | _ => false
/-- The units of LD, ST, CP and TL that an instruction raises (R129). -/
def formUnits (i : Form) (sel : Mask) : Nat × Nat × Nat × Nat :=
  let n := (threadsOf sel).length
  let one := if sel == 0 then 0 else 1
  (if formLoads i then n else 0, if formStores i then n else 0,
   match i with | .cmdw | .permx => one | _ => 0,
   match i with | .mma | .mmap | .tzero | .tread | .twrite | .tdrain | .tdadd => one | _ => 0)

/-- The rival of the issuer has spent its allowance or is parked (R379, R380). -/
def State.parked (s : State) (G : Group) : Bool :=
  match s.tournOf G with
  | some (T, r) => T.st == 1 && (r.parked || r.allow ≤ r.count)
  | none => false

/-- In a DET region the weft's lowest path that is not held issues (R138); one that stalls on a translation fault counts as held (DEDUCED, assumption log 96). -/
def Ctx.detOk (c : Ctx) : Bool :=
  !c.R.det || c.isTreadle ||
    (c.wf.paths.filter fun p => p.hold.isNone).all fun p => lowThread c.p.mask ≤ lowThread p.mask

/-- The lane of a path is free (R124). -/
def State.laneFree (s : State) (c : Ctx) : Bool := ((s.core c.dev c.core).lane c.wf.lane).free ≤ s.clk

/-- The special registers that a `wrsr` may write, in user mode and in supervisor mode (R48, R55 and the register tables). -/
def specialWritable (priv : Bool) (n : Nat) : Bool :=
  n == 0x017 || n == 0x019 || n == 0x01A || n == 0x01F ||
    (priv && (n == 0x010 || n == 0x011 || (0x01B ≤ n && n ≤ 0x01E) || (0x100 ≤ n && n ≤ 0x110 && n != 0x103 && n != 0x10E)))

/-- Check 9 (R48, R55, R56): the word is allowed in the weft's mode. -/
def Ctx.allowed (c : Ctx) (i : Form) (f : Fields) : Bool :=
  let pair : Bool := (i == .wrsr || i == .rdsr || i == .mov) && modHi f.mod == 7
  let readOk : Operand → Bool
    | .special n => c.priv || n.toNat < 0x100 && !(pair && n.toNat + 1 == 0x100)
    | _ => true
  (match i with | .tlbiAll | .tlbiCtx | .tlbiPage | .replay | .replayAll | .rdflt | .eret | .ctxsv => c.priv | _ => true)
    && readOk f.a && readOk f.b
    && (match f.d with
        | .special n => specialWritable c.priv n.toNat && (!pair || specialWritable c.priv (n.toNat + 1))
        | _ => true)

/-- The highest vector register an operand names, or 0 (R45, R109). -/
def topReg (f : Fields) : Operand → Nat
  | .vec n | .lutVec n _ => n.toNat + 16 * (f.rows - 1) + (f.cols - 1)
  | .mem false n _ => n.toNat + 1
  | _ => 0

/-- The highest vector register that a word names (R109, R112). -/
def topOf (f : Fields) : Nat := max (topReg f f.d) (max (topReg f f.a) (topReg f f.b))

/-- A word that a treadle may run (R236) (DEDUCED, assumption log 43). -/
def treadleWord (cluster : Bool) (i : Form) (f : Fields) : Bool :=
  let scalarD := match f.d with | .scalar _ => true | _ => false
  let src : Operand → Bool
    | .scalar _ | .imm _ | .bits _ | .none => true
    | .special _ => i == .mov
    | _ => false
  f.wmask == 0 && f.setf == 15 && f.dist == 0 && !f.u && !f.y && f.gp == 7 && !f.neg &&
  (match i with
   | .nop | .bra | .loop | .mma | .mmap | .tzero | .tdrain | .tdadd | .topen | .tfence | .tlc => true
   | .twait => !f.mod.getLsbD 0
   | .tstop => true
   | .add | .sub | .mul | .shl | .lea | .mov | .movi => scalarD && src f.a && src f.b
   | .barv | .barw | .bars => !cluster
   | .cbar => cluster
   | _ => false)

/-- A trap record of the issuer; one of an instruction that its path has gone past is not precise (R392) (DEDUCED, assumption log 16). -/
def Ctx.info (c : Ctx) (cls : TrapClass) (reason : Nat) (pmask : Mask) (addr : DWord) (info : Word) : TrapInfo :=
  { cls, reason, agent := if c.isTreadle then .treadle else .weft, precise := !c.isTreadle && c.late.isNone, pc := c.p.pc, addr, pmask, smask := if c.isTreadle then 0 else c.sel,
    wid := if c.isTreadle then 0 else c.r.w, info }

/-- The traps taken before a word issues: TREADLE_FORBIDDEN, PRIVILEGE, REG_UNACQUIRED (R236, R56, R109). -/
def Ctx.preTrap (c : Ctx) (i : Form) (f : Fields) : Option TrapInfo :=
  if c.isTreadle && !treadleWord (c.r.w == clusterWid) i f then some (c.info .tile 4 0 0 0)
  else if !c.allowed i f then some (c.info .privilege 9 0 0 0)
  else if 64 * (c.wf.held + 1) ≤ topOf f then some (c.info .operand 1 0 0 0)
  else none

/-- The accesses that their path's program order alone does not keep apart: they are ordered where they reach the same bytes (R208, R303). -/
def formAccess (i : Form) : Bool :=
  match i with
  | .ld | .st | .lds | .sts | .ldb | .ldsel | .ldf | .atom | .atomv | .red | .redv | .cas | .accr => true
  | _ => false

/-- The forms of variable latency that reach no memory and cannot stop. -/
def formComputes (i : Form) : Bool :=
  match i with
  | .div | .rem | .xcvt | .kcvt | .rcp | .divFloat | .sqrt | .rsqrt | .ex2 | .lg2 | .sinpi | .cospi | .tanh => true
  | _ => false

/-- The forms that a path may issue while it has gone past an instruction: those that compute or branch, accesses that release nothing, and `exit`, which
releases nothing either (R307). -/
def formOvertakes (i : Form) (f : Fields) : Bool :=
  match i with
  | .wrsr => false
  | .nop | .yield | .bra | .brx | .call | .callx | .ret | .loop | .exit => true
  | _ => formComputes i || formAccess i && modOrder f.mod != 3 || formFixed i && 1 ≤ i.group && i.group ≤ 7

/-- Two ranges of bytes meet. -/
def meets (x y : Nat × Nat) : Bool := x.1 < y.1 + y.2 && y.1 < x.1 + x.2

/-- An earlier instruction that has not done its work lets a later word of its path issue: the word is no access, or the earlier one reaches no memory, or
both are accesses, the earlier one acquires nothing, and they are not a release and an acquire (R299, R302, R303). -/
def Late.lets (l : Late) (i : Form) (f : Fields) : Bool :=
  formOvertakes i f && (!formAccess i || formComputes l.form ||
    (formAccess l.form && modOrder l.f.mod != 2 && !(modOrder l.f.mod == 3 && modOrder f.mod == 2)))

/-- No instruction that the path has gone past keeps this word from issuing (R302, R399). -/
def Ctx.overtakes (c : Ctx) (i : Form) (f : Fields) : Bool :=
  c.wf.late.all fun l => l.path.mask &&& c.p.mask == 0 || (l.hold.why == .late && l.lets i f && (c.preTrap i f).isNone)

/-- A path that has this word next is eligible (R124, R128 to R130, R138, R379). -/
def State.eligible (s : State) (i : Form) (f : Fields) (c : Ctx) : Bool :=
  c.G.life == .placed && !s.parked c.G &&
  (c.isTreadle ||
    (let (ld, st, cp, tl) := formUnits i c.sel
     (List.range 12).all (fun k => !f.wmask.getLsbD k || Sparse.get c.wf.flags k == 0)
      && (12 ≤ f.setf.toNat || Sparse.get c.wf.flags f.setf.toNat != 7)
      && c.wf.ld + ld ≤ 63 && c.wf.st + st ≤ 63 && c.wf.cp + cp ≤ 63 && c.wf.tl + tl ≤ 63
      && (!c.p.started || c.p.last + max f.dist.toNat 1 ≤ s.clk) && c.p.drain ≤ s.clk && c.detOk && c.G.pend.isNone && c.overtakes i f))

/-- The path may issue this word now: it is eligible and its lane is free. -/
def State.ready (s : State) (i : Form) (f : Fields) (c : Ctx) : Bool := s.eligible i f c && (c.isTreadle || s.laneFree c)

/-- The issuing path once its word has entered in `k` passes (R123 to R126, R131). -/
def Ctx.raisedPath (c : Ctx) (clk k : Nat) (i : Form) (f : Fields) : Path :=
  { c.p with age := 0, full := 0, last := clk + k - 1, started := true, gap := c.p.gap + max f.dist.toNat 1 + k - 1,
             yield := f.y || (i == Form.yield && c.sel != 0) }

/-- The issuing weft once its word has entered: its flag and counter units have risen and its record `n` is open (R127 to R129). -/
def Ctx.raisedWeft (c : Ctx) (clk n : Nat) (i : Form) (f : Fields) (p : Path) : Weft :=
  let (ld, st, cp, tl) := formUnits i c.sel
  let acquired (x : Nat × Nat) : Bool := x.2 < 12 && f.wmask.getLsbD x.2
  { c.wf with
    paths := modIf (fun q => q.mask.getLsbD c.r.t) (fun _ => p) c.wf.paths,
    flags := if f.setf.toNat < 12 then Sparse.put c.wf.flags f.setf.toNat (Sparse.get c.wf.flags f.setf.toNat + 1) else c.wf.flags,
    ld := c.wf.ld + ld, st := c.wf.st + st, cp := c.wf.cp + cp, tl := c.wf.tl + tl,
    outs := c.wf.outs ++ [{ n, setf := f.setf.toNat, ld, tl, top := topOf f }],
    acq := c.wf.acq ++ (c.wf.own.filter acquired).map fun x => x.1,
    own := c.wf.own.filter fun x => !acquired x,
    young := pruneYoung clk (c.p.gap + max f.dist.toNat 1) c.p.mask c.wf.young }

/-- One instruction counted against the allowance of its issuer's rival (R379). -/
def State.countIssue (s : State) (x : Option (Tourn × Rival)) : State :=
  match x with
  | some (T, r) => s.modTourn T.sid fun T =>
      { T with rivals := modIf (fun x => x.idx == r.idx) (fun x => { x with count := x.count + 1, lastIssue := s.clk }) T.rivals }
  | none => s

/-- The word issues: its flag and counter units rise, its record opens, and the lane and the path take its passes (R123 to R129, R379). -/
def State.raise (s : State) (i : Form) (f : Fields) (c : Ctx) : Ctx × State :=
  if c.isTreadle then (c, s)
  else
    let k := formPasses i f c.sel
    let p := c.raisedPath s.clk k i f
    let wf := c.raisedWeft s.clk s.uid i f p
    ({ c with wf, p, out := s.uid },
      ((s.fresh.2.modWeft c.r.g c.r.w fun _ => wf).modCore c.dev c.core fun x => x.modLane c.wf.lane fun l => { l with free := s.clk + k }).countIssue (s.tournOf c.G))

/-- The forms whose own checks read more than their operands: use counts, bobbins, tiles, tokens, pins.  They make them at their issue, so that their traps
are precise (R392), and the engine takes matrix operations in the order of their issue (R245) (DEDUCED, assumption log 16). -/
def formTests (i : Form) : Bool :=
  match i with
  | .adst | .adpeek | .adforce | .usecnt | .useadj | .bset | .bexp | .jqdone | .ipin => true
  | _ => i.group == 12

/-- The forms whose path may go on before they have read their sources (R127, R302): those of variable latency but for those that hold their path
(R96, R130), change its mode or its registers' blocks, or make checks of their own. -/
def formDefers (i : Form) : Bool :=
  match i with
  | .trywait | .beamwait | .bwait | .shcancel | .barw | .gbar | .cbar | .fence | .regacq | .regacqTry | .regrel
  | .spgrow | .spgrowTry | .trnd | .jqstart | .tlbiAll | .tlbiCtx | .tlbiPage | .svc | .eret | .ctxsv
  | .launch | .post | .relh | .cmdw | .permx | .adld => false
  | _ => !formFixed i && !formTests i

/-- The issuer may go past this form; an `ldf` that may count makes a check of its own (R344). -/
def Ctx.defers (c : Ctx) (i : Form) : Bool := formDefers i && !(i == .ldf && c.R.counting)

/-- The issuing path goes on to the next instruction before this one has read its sources (R302); `tlb` holds the translations it has found. -/
def State.putOff (s : State) (c : Ctx) (i : Form) (f : Fields) (tlb : List Tlb) : State :=
  (s.modW c fun w => { w with late := w.late ++
    [{ n := c.out, form := i, f, path := c.p, hold := { why := .late, out := c.out, sel := c.sel }, v := w.v, s := w.s, p := w.p, young := w.young,
       tlb }] }).advance c

/-- An instruction word executed: nothing happens while it may not issue, an early trap is taken, or the body runs; a held instruction goes on, one
that a pre-emption has withdrawn as an issue that counts (R379, R389) (DESIGN CHOICE, assumption log 1).  A word that check 9 refuses waits as any word does
before it traps (R56) (DESIGN CHOICE, assumption log 92). -/
def issue (i : Form) (f : Fields) (body : Ctx → State → State) (s : State) : Host.Outcome State Fault Refusal :=
  match s.ctx? with
  | none => .fault .noIssuer
  | some c0 =>
    let s1 := s.ticked
    let c := { c0 with sel := match c0.hold with | some h => h.sel | none => (c0.near s.clk f).guard s1 f }
    match c.hold with
    | some h =>
      if h.why != .withdrawn then .next (body c s1)
      else if s.parked c.G then .next s
      else match c.preTrap i f with
        | some t => .next (s1.takeTrap c.r.g { t with pmask := c.done })
        | none => .next (body c (if c.isTreadle then s1 else s1.countIssue (s.tournOf c.G)))
    | none =>
      if !s.ready i f c then .next s
      else match c.preTrap i f with
        | some t => .next (s1.takeTrap c.r.g t)
        | none => .next (body (s1.raise i f c).1 (s1.raise i f c).2)

/-! ## Completion -/

/-- The last write of each register stands. -/
def lastWrites : List (RegKey × Word) → List (RegKey × Word)
  | [] => []
  | x :: xs => if xs.any fun y => y.1 == x.1 then lastWrites xs else x :: lastWrites xs

/-- Writes of other outstanding instructions to a register just written compete with it, those that are still to come too (R302). -/
def Weft.contest (w : Weft) (own : Nat) (ks : List RegKey) : Weft :=
  { w with outs := w.outs.map fun o =>
      if o.n == own then o
      else { o with writes := o.writes.map (fun x => if ks.contains x.key then { x with contested := true } else x), crossed := o.crossed ++ ks } }

/-- Registers written at once by a fixed-latency instruction, whose results stay young for six cycles (R125, R126). -/
def State.writeNow (s : State) (c : Ctx) (ws : List (RegKey × Word)) : State :=
  let ws := lastWrites ws
  s.modW c fun w =>
    let w1 := if c.isTreadle then w else w.contest c.out (ws.map fun x => x.1)
    let ys : List Young := if c.isTreadle then [] else ws.map fun x => { key := x.1, old := w.reg x.1, gap := c.p.gap, mask := c.p.mask, at_ := c.p.last }
    let w2 := ws.foldl (fun w x => w.setReg x.1 x.2) w1
    { w2 with young := ys ++ w2.young.filter fun y => !ws.any fun x => x.1 == y.key }

/-- Registers that a variable-latency instruction writes when it completes (R125); a treadle's are written at once (R236). -/
def State.writeLate (s : State) (c : Ctx) (ws : List (RegKey × Word)) : State :=
  if c.isTreadle then s.modW c fun w => ws.foldl (fun w x => w.setReg x.1 x.2) w
  else
    let ks := ws.map fun x => x.1
    s.modW c fun w =>
      let w1 := w.contest c.out ks
      { w1 with outs := w1.outs.map fun o =>
          if o.n == c.out then { o with writes := o.writes.filter (fun x => !ks.contains x.key) ++ (lastWrites ws).map fun x => { key := x.1, val := x.2, contested := o.crossed.contains x.1 } }
          else o }

/-- The instruction will complete at a cycle (R127). -/
def State.completeAt (s : State) (c : Ctx) (due : Nat) : State :=
  if c.isTreadle then s else s.later due (.instrComplete c.r.g c.r.w c.out)

/-- A fixed-latency instruction ends its issue with its results (R125, R127). -/
def State.finishFixed (s : State) (c : Ctx) (ws : List (RegKey × Word)) : State :=
  ((s.writeNow c ws).advance c).completeAt c (c.p.last + 6)

/-- A variable-latency instruction ends its issue with its results still to come. -/
def State.finishLate (s : State) (c : Ctx) (ws : List (RegKey × Word)) : State :=
  ((s.writeLate c ws).advance c).completeAt c s.clk

/-- An instruction whose guard selects no thread completes six cycles after its pass (R127). -/
def State.finishIdle (s : State) (c : Ctx) : State := (s.advance c).completeAt c (c.p.last + 6)

/-- INSTR_COMPLETE: the registers are written, the flag and the units fall (R127 to R129). -/
def State.instrComplete (s : State) (g w n : Nat) : State :=
  match s.weft? g w with
  | none => s
  | some wf => match wf.outs.find? fun o => o.n == n with
    | none => s
    | some o =>
      let stands (x : RegWrite) : Bool := !x.contested || Config.lateWrite s.tick x.key.code
      let put (w : Weft) (x : RegWrite) : Weft := if stands x then w.setReg x.key x.val else w
      s.ticked.modWeft g w fun wf =>
        let w1 := o.writes.foldl put wf
        { w1 with outs := w1.outs.filter (fun x => x.n != n), moved := if o.tl == 0 then w1.moved else w1.moved ++ [n], ld := w1.ld - o.ld, st := w1.st - o.st, tl := w1.tl - o.tl,
                  flags := if o.setf < 12 then Sparse.put w1.flags o.setf (Sparse.get w1.flags o.setf - 1) else w1.flags }

/-! ## Traps and stalls of the issuer -/

/-- The issuer traps (R392, R393). -/
def State.trap (s : State) (c : Ctx) (cls : TrapClass) (reason : Nat) (pmask : Mask := 0) (addr : DWord := 0) (info : Word := 0) : State :=
  s.takeTrap c.r.g (c.info cls reason pmask addr info)

/-- The issuer's access stalls on a translation fault with the threads before it performed (R399); the hold keeps the page and, as its address,
whether it counts as a waiter of an entry (R398). -/
def State.stall (s : State) (c : Ctx) (va : DWord) (access reason : Nat) (pmask : Mask) : State :=
  let s1 := s.raiseFault c.dev c.ctx va access (if c.isTreadle then .treadle else .weft) reason
  let waits := (s1.ctx c.dev c.ctx).faults.any fun e => e.page == va.toNat / 65536
  s1.holdP c .stall (va.toNat / 65536) pmask (if waits then 1 else 0)

/-- ST units of the issuer lowered. -/
def State.lowerOwn (s : State) (c : Ctx) (n : Nat) : State := s.modW c fun w => { w with st := w.st - n }

/-- The issuer acquires what the completed phases of a barrier release (R246, R297). -/
def State.acquirePast (s : State) (c : Ctx) (b : Barrier) : State := s.modW c fun w => { w with acq := (w.acq ++ b.past).eraseDups }

/-! ## Where paths go -/

/-- A path's parts by next PC, the part with the lowest thread first (R135). -/
def splitPath (p : Path) (next : Nat → Word) : List Nat → List Path
  | [] => []
  | t :: ts =>
    let parts := splitPath p next ts
    if parts.any fun q => q.pc == next t then
      let q := (parts.find? fun q => q.pc == next t).getD p
      { q with mask := q.mask ||| bitMask t } :: parts.filter fun x => x.pc != next t
    else { p with mask := bitMask t, pc := next t, hold := none } :: parts

/-- The path goes on at the next PC of each of its threads (R135, R141). -/
def State.goTo (s : State) (c : Ctx) (next : Nat → Word) : State :=
  s.modW c fun w =>
    { w with paths := w.paths.flatMap fun p => if p.mask.getLsbD c.r.t then splitPath p next (threadsOf p.mask) else [p] }

/-! ## Supervisor mode (R406) -/

/-- The path holds every unexited thread of its weft. -/
def Ctx.whole (c : Ctx) : Bool := c.p.mask ||| c.wf.exited == 0xFFFF

/-- svc: the return PC, the segment and the code are saved, and the weft runs the context's supervisor segment at PC A in supervisor mode. -/
def State.enterSupervisor (s : State) (c : Ctx) (code : Word) : State :=
  s.modW c fun w =>
    { w with epc := c.p.pc + 1, eseg := w.seg, ecode := code, priv := true, seg := (s.ctx c.dev c.ctx).svcbase,
             paths := w.paths.map fun p => { p with pc := code, hold := none, line := none } }

/-- eret: the weft returns to user mode, to the saved segment and PC. -/
def State.leaveSupervisor (s : State) (c : Ctx) : State :=
  s.modW c fun w =>
    { w with priv := false, seg := w.eseg, paths := w.paths.map fun p => { p with pc := w.epc, hold := none, line := none } }

end Sys2Proof.Machine
end

