-- ==== Sys2Proof/Machine/Operands.lean ====
section
/-! DEFINITION. Sys2Proof/Machine/Operands.lean: every operand form: blocks and element widths (R45, R46), the values that each kind yields
(R148, R168), the destinations (R149), special registers (R48 and the tables of the chapters), and memory references (R39, R43). -/

namespace Sys2Proof.Machine

/-! ## Special registers -/

/-- The context fields behind special registers (R70, R192, R215, R339, R351, R406). -/
def Context.base (C : Context) (n : Nat) : Word :=
  match n with
  | 0x010 => loWord C.selbase | 0x011 => hiWord C.selbase
  | 0x01B => loWord C.twinoff | 0x01C => hiWord C.twinoff | 0x01D => loWord C.usebase | 0x01E => hiWord C.usebase
  | 0x020 => loWord C.twinxa | 0x021 => hiWord C.twinxa
  | 0x101 => loWord C.ptbase | 0x102 => hiWord C.ptbase | 0x104 => loWord C.dtbase | 0x105 => hiWord C.dtbase
  | 0x106 => loWord C.adjlo | 0x107 => hiWord C.adjlo | 0x108 => loWord C.adjhi | 0x109 => hiWord C.adjhi
  | 0x10F => loWord C.svcbase | 0x110 => hiWord C.svcbase
  | _ => 0

/-- The LEN of a group's node as it stands (R48, R384); a BIN group's is 0 (R93). -/
def State.ngroupsOf (s : State) (G : Group) : Nat := match s.node? G.rid G.node with | some N => if N.kind == 1 then 0 else N.len | none => G.ngroups

/-- A special register as the machine holds it, read by a thread. -/
def State.special (s : State) (c : Ctx) (n t : Nat) : Word :=
  let G := (s.group? c.r.g).getD c.G
  let C := s.ctx c.dev c.ctx
  let w := (s.weft? c.r.g c.r.w).getD c.wf
  let tourn := s.tournOf G
  match n with
  | 0x000 => BitVec.ofNat 32 (16 * w.wid + t)
  | 0x001 => BitVec.ofNat 32 w.wid
  | 0x002 => BitVec.ofNat 32 G.gid
  | 0x003 => BitVec.ofNat 32 (s.ngroupsOf G)
  | 0x004 => BitVec.ofNat 32 w.lane
  | 0x005 => BitVec.ofNat 32 (G.core % 8)
  | 0x006 => BitVec.ofNat 32 (G.core / 8 % 8)
  | 0x007 => BitVec.ofNat 32 (G.core / 64)
  | 0x008 => BitVec.ofNat 32 G.dev
  | 0x009 => BitVec.ofNat 32 (s.devClk G.dev)
  | 0x00A => BitVec.ofNat 32 (s.devClk G.dev / 2 ^ 32)
  | 0x00B => BitVec.ofNat 32 (s.devClk G.dev / 2048 % 16)
  | 0x00C => match tourn with | some (T, _) => BitVec.ofNat 32 T.round | none => 0
  | 0x00D => match tourn with | some (_, r) => BitVec.ofNat 32 r.idx | none => 0
  | 0x00E => match tourn with | some (T, _) => BitVec.ofNat 32 (T.rivals.filter fun r => (r.st == 1 || r.st == 3) && !r.killed).length | none => 0
  | 0x012 => BitVec.ofNat 32 G.nrec
  | 0x013 => BitVec.ofNat 32 G.recseq
  | 0x014 => BitVec.ofNat 32 w.held
  | 0x015 => BitVec.ofNat 32 G.spadsz
  | 0x016 => BitVec.ofNat 32 G.ntiles
  | 0x017 => ringNorm G.ringcfg
  | 0x018 => BitVec.ofNat 32 (G.tiles.foldl (fun k x => k + x.nar.toNat * 2 ^ x.n) 0)
  | 0x019 => BitVec.ofNat 32 (G.trd.running.toNat + 2 * G.tdfail.toNat)
  | 0x01A => C.accstat.setWidth 32
  | 0x01F => BitVec.ofNat 32 C.twinstat.toNat
  | 0x022 => BitVec.ofNat 32 w.priv.toNat
  | 0x100 => BitVec.ofNat 32 C.dbgen.toNat
  | 0x103 => BitVec.ofNat 32 c.ctx
  | 0x10A => C.fltstat
  | 0x10B => w.epc
  | 0x10C => loWord w.eseg
  | 0x10D => hiWord w.eseg
  | 0x10E => w.ecode
  | n => C.base n

/-- A special register as an instruction reads it: a write that is too young reads as the older or the newer value (R189, R126). -/
def Ctx.special (c : Ctx) (s : State) (n t : Nat) : Word :=
  let cur := s.special c n t
  match c.young.find? fun y => y.key == .sp n with
  | some y => if (y.mask &&& c.p.mask != 0 || s.clk < y.at_ + 6) && Config.earlyRead s.tick (RegKey.sp n).code then y.old else cur
  | none => cur

/-- The high and low word of a 64-bit value replaced. -/
def withLo (x : DWord) (v : Word) : DWord := pairOf v (hiWord x)
/-- The high word. -/
def withHi (x : DWord) (v : Word) : DWord := pairOf (loWord x) v

/-- A write of a special register that check 9 has allowed; reserved and read-only bits are ignored, W1C bits are cleared by ones. -/
def State.writeSpecial (s : State) (c : Ctx) (n : Nat) (v : Word) : State :=
  let onCtx (f : Context → Context) : State := s.modCtx c.dev c.ctx f
  match n with
  | 0x010 => onCtx fun C => { C with selbase := withLo C.selbase v }
  | 0x011 => onCtx fun C => { C with selbase := withHi C.selbase v }
  | 0x017 => s.modG c (s.setRing v)
  | 0x019 => if v.getLsbD 1 then s.modG c fun G => { G with tdfail := false } else s
  | 0x01A => onCtx fun C => { C with accstat := C.accstat &&& ~~~(v.extractLsb' 0 2) }
  | 0x01B => onCtx fun C => { C with twinoff := withLo C.twinoff v }
  | 0x01C => onCtx fun C => { C with twinoff := withHi C.twinoff v }
  | 0x01D => onCtx fun C => { C with usebase := withLo C.usebase (v &&& 0xFFFFFFF0) }
  | 0x01E => onCtx fun C => { C with usebase := withHi C.usebase v }
  | 0x01F => if v.getLsbD 0 then onCtx fun C => { C with twinstat := false } else s
  | 0x100 => onCtx fun C => { C with dbgen := v.getLsbD 0 }
  | 0x101 => onCtx fun C => { C with ptbase := withLo C.ptbase (v &&& 0xFFFF0000) }
  | 0x102 => onCtx fun C => { C with ptbase := withHi C.ptbase (v &&& 0x00FFFFFF) }
  | 0x104 => onCtx fun C => { C with dtbase := withLo C.dtbase (v &&& 0xFFC00000) }
  | 0x105 => onCtx fun C => { C with dtbase := withHi C.dtbase (v &&& 0x007FFFFF) }
  | 0x106 => onCtx fun C => { C with adjlo := withLo C.adjlo v }
  | 0x107 => onCtx fun C => { C with adjlo := withHi C.adjlo v }
  | 0x108 => onCtx fun C => { C with adjhi := withLo C.adjhi v }
  | 0x109 => onCtx fun C => { C with adjhi := withHi C.adjhi v }
  | 0x10A => if v.getLsbD 8 then onCtx fun C => { C with dropped := false } else s
  | 0x10B => s.modW c fun w => { w with epc := v }
  | 0x10C => s.modW c fun w => { w with eseg := withLo w.eseg (v &&& 0xFFFFF000) }
  | 0x10D => s.modW c fun w => { w with eseg := withHi w.eseg v }
  | 0x10F => onCtx fun C => { C with svcbase := withLo C.svcbase (v &&& 0xFFFFF000) }
  | 0x110 => onCtx fun C => { C with svcbase := withHi C.svcbase v }
  | _ => s

/-! ## Values -/

/-- How an operand's 13-bit immediate, and its predicate kind, widen (R148, R168). -/
inductive Widen where
  | int | packed | flt (f : Fmt) | fltPair (f : Fmt) | cplx
  deriving DecidableEq, Repr

/-- The value of a 13-bit immediate as a number of the element's registers. -/
def immNat (m : Widen) (v : BitVec 13) : Nat :=
  let i : Num := Num.ofInt v.toInt 0 false
  match m with
  | .int => (v.signExtend 64).toNat
  | .packed => (v.signExtend 16).toNat * 65537
  | .flt f => f.encode .rn false i
  | .fltPair f => f.encode .rn false i * 65537
  | .cplx => Fmt.f32.encode .rn false i

/-- The widening of an integer type (R148). -/
def intWiden (t : IntTy) : Widen := if t.packed then .packed else .int
/-- The widening of a float type (R168). -/
def fltWiden : FltTy → Widen
  | .f32 => .flt .f32 | .f16x2 => .fltPair .f16 | .bf16x2 => .fltPair .bf16 | .c32 => .cplx

/-- The thread a source is read from: the issuing thread, or under U = 1 the lowest selected one (R149). -/
def Ctx.srcThread (c : Ctx) (f : Fields) (t : Nat) : Nat := if f.u then lowThread c.sel else t

/-- `w` registers as one number, the lowest first. -/
def joinWords : List Word → Nat
  | [] => 0
  | x :: xs => x.toNat + 2 ^ 32 * joinWords xs

/-- The element at row `i`, column `j` of an operand of element width `w`, for thread `t`, as a number below 2^(32 w) (R45, R46, R148) (DEDUCED, assumption log 23). -/
def Ctx.elem (c : Ctx) (s : State) (m : Widen) (w : Nat) (o : Operand) (t i j : Nat) : Nat :=
  match o with
  | .vec n | .lutVec n _ => joinWords ((List.range w).map fun x => c.v s (n.toNat + 16 * i + j + x) t)
  | .scalar n | .lutScalar n _ => joinWords ((List.range w).map fun x => c.s s (n.toNat + x))
  | .pred n => if c.pd s n.toNat t then (if m == .packed then 65537 else 1) else 0
  | .special n => (c.special s n.toNat t).toNat
  | .imm v => immNat m v % 2 ^ (32 * w)
  | _ => 0

/-- The first register of an operand of a 1 × 1 instruction, for thread `t`. -/
def Ctx.val (c : Ctx) (s : State) (o : Operand) (t : Nat) : Word := BitVec.ofNat 32 (c.elem s .int 1 o t 0 0)
/-- A 64-bit operand: a register pair, or an immediate sign-extended. -/
def Ctx.val64 (c : Ctx) (s : State) (o : Operand) (t : Nat) : DWord := BitVec.ofNat 64 (c.elem s .int 2 o t 0 0)
/-- An operand that is read once for the path. -/
def Ctx.once (c : Ctx) (s : State) (o : Operand) : Word := c.val s o (lowThread c.sel)

/-- The 32-bit immediate of A and B (R42). -/
def imm32 (f : Fields) : Word := match f.a, f.b with | .bits hi, .bits lo => hi ++ lo | _, _ => 0
/-- The 32-bit immediate widened (R148, R184). -/
def imm32Nat (signed : Bool) (w : Nat) (f : Fields) : Nat :=
  if w == 2 && signed then ((imm32 f).signExtend 64).toNat else (imm32 f).toNat

/-! ## Destinations -/

/-- The elements of the extent, ascending: row and first column (R45, R46). -/
def blockElems (f : Fields) (w : Nat) : List (Nat × Nat) :=
  (List.range f.rows).flatMap fun i => (List.range (max 1 (f.cols / w))).map fun e => (i, e * w)

/-- The registers of the element at row `i`, column `j` of a destination, for thread `t`. -/
def destKeys (o : Operand) (w t i j : Nat) : List RegKey :=
  match o with
  | .vec n => (List.range w).map fun x => .v (n.toNat + 16 * i + j + x) t
  | .scalar n => (List.range w).map fun x => .s (n.toNat + x)
  | .pred n => [.p n.toNat t]
  | .special n => (List.range w).map fun x => .sp (n.toNat + x)
  | _ => []

/-- The writes that put a number into registers, the lowest word first. -/
def putKeys (ks : List RegKey) (v : Nat) : List (RegKey × Word) := ks.zipIdx.map fun (k, x) => (k, BitVec.ofNat 32 (v / 2 ^ (32 * x)))

/-- The writes of a function of elements over the block, thread after thread, element after element (R149). -/
def Ctx.blockWrites (c : Ctx) (f : Fields) (w : Nat) (g : Nat → Nat → Nat → Nat) : List (RegKey × Word) :=
  (threadsOf c.sel).flatMap fun t => (blockElems f w).flatMap fun (i, j) => putKeys (destKeys f.d w t i j) (g (c.srcThread f t) i j)

/-- The writes of one word per selected thread to a 1 × 1 destination. -/
def Ctx.laneWrites (c : Ctx) (o : Operand) (g : Nat → Nat) : List (RegKey × Word) :=
  (threadsOf c.sel).flatMap fun t => putKeys (destKeys o 1 t 0 0) (g t)

/-- The instruction ends its issue with its writes in the way of its latency class; without a selected thread it completes idle (R125, R127). -/
def State.finish (s : State) (i : Form) (c : Ctx) (ws : List (RegKey × Word)) : State :=
  if c.sel == 0 then s.finishIdle c else if formFixed i then s.finishFixed c ws else s.finishLate c ws

/-! ## Memory references -/

/-- The immediate offset of B (R43). -/
def offsetOf : Operand → DWord
  | .imm v => v.signExtend 64
  | _ => 0

/-- The address that a memory reference's register pair gives a thread (R39). -/
def Ctx.addr (c : Ctx) (s : State) (o : Operand) (off : DWord) (t : Nat) : DWord :=
  match o with
  | .mem true n _ => pairOf (c.s s n.toNat) (c.s s (n.toNat + 1)) + off
  | .mem false n _ => pairOf (c.v s n.toNat t) (c.v s (n.toNat + 1) t) + off
  | _ => off

/-- SUB of a memory reference. -/
def operandSub : Operand → Nat
  | .mem _ _ sub => sub.toNat
  | _ => 0

end Sys2Proof.Machine
end

