-- ==== Sys2Proof/Machine/Data.lean ====
section
/-! DEFINITION. Sys2Proof/Machine/Data.lean: how an instruction reaches memory: the checks of a thread's access in their order (R205), the A and D
bits (R195), the reads and writes of elements (R204, R206, R207), and the threads of an instruction one after another (R205). -/

namespace Sys2Proof.Machine

/-! ## The checks of R205 -/

/-- What stops a thread: a trap, a translation fault, or a wait. -/
inductive Stop where
  | trap (cls : TrapClass) (reason : Nat) (va : DWord) (info : Word)
  | stall (va : DWord) (access reason : Nat)
  | hold (why : Why) (arg : Nat) (va : DWord)
  deriving DecidableEq, Repr

/-- One element of a checked access: its address, its translation, and for a scaled element the translation of its selvedge byte. -/
structure Elem where
  va  : DWord
  x   : Xlat
  sel : Option Xlat := none
  deriving DecidableEq, Repr

/-- The name of an element of an access, or of its scale, among what has been read early (R74). -/
def Elem.spot (e : Elem) (scale : Bool) : Nat := 2 * e.va.toNat + scale.toNat

/-- What an access asks for.  `code` is the access of R405; `align` and `z` are bytes, `pair` the formats that a decoded access may meet. -/
structure Query where
  read   : Bool := false
  write  : Bool := false
  code   : Nat := 0
  raw    : Bool := false
  accrue : Bool := false
  align  : Nat
  z      : Nat
  n      : Nat
  pair   : Nat → Bool

/-- Translations of several addresses; the first that fails stops. -/
def State.lookups (s : State) (d c access : Nat) : List DWord → Except Stop (List Xlat) × State
  | [] => (.ok [], s)
  | va :: rest =>
    match s.translate d c va with
    | (.error r, s1) => (.error (.stall va access r), s1)
    | (.ok x, s1) =>
      match s1.lookups d c access rest with
      | (.ok xs, s2) => (.ok (x :: xs), s2)
      | (.error e, s2) => (.error e, s2)

/-- Step 4 for one page (R205). -/
def permStop (priv read write : Bool) (va : DWord) (x : Xlat) : Option Stop :=
  if pteSup x.pte && !priv then some (.trap .memoryAccess 6 va 0)
  else if read && !pteR x.pte then some (.trap .memoryAccess 3 va 0)
  else if write && !pteW x.pte then some (.trap .memoryAccess 4 va 0)
  else none

/-- The page is scaled for a decoded access. -/
def scaledFor (raw : Bool) (x : Xlat) : Bool := !raw && pteFmt x.pte != 0 && pteGeom x.pte

/-- The A and D bits of translations set before an access; whether every entry still stands (R195). -/
def State.touchAll (s : State) (d c : Nat) : List (Xlat × Bool) → Bool × State
  | [] => (true, s)
  | (x, w) :: rest =>
    match s.touch d c x w with
    | (false, s1) => (false, s1)
    | (true, s1) => s1.touchAll d c rest

/-- An element's virtual address and its home. -/
def Elem.at_ (e : Elem) : DWord × Nat := (e.va, e.x.pa)

/-- The address of an element's selvedge byte (R70) (DEDUCED, assumption log 32). -/
def State.selvedge (s : State) (d c : Nat) (va : DWord) : DWord := (s.ctx d c).selbase + (va.setWidth 55 >>> 7).setWidth 64

/-- A thread's access checked whole, and its A and D bits set (R205, R195); `k` bounds the walks that changed entries ask for.  The FMT of the page of a
selvedge byte is not tested (DESIGN CHOICE, assumption log 83). -/
def State.checkElems (s : State) (c : Ctx) (q : Query) (x : DWord) : Nat → Except Stop (List Elem) × State
  | 0 => (.error (.stall x q.code 1), s)
  | k + 1 =>
    let vas : List DWord := (List.range q.n).map fun i => x + BitVec.ofNat 64 (i * q.z)
    match vas.find? fun a => !canonical a with
    | some a => (.error (.trap .memoryAccess 1 a 0), s)
    | none =>
    match vas.find? fun a => a.toNat % q.z != 0 with
    | some a => (.error (.trap .memoryAccess 2 a 0), s)
    | none =>
    if x.toNat % q.align != 0 then (.error (.trap .memoryAccess 2 x 0), s)
    else match s.lookups c.dev c.ctx q.code vas with
    | (.error e, s1) => (.error e, s1)
    | (.ok xs, s1) =>
    let els := vas.zip xs
    let sels : List DWord := (els.filter fun e => scaledFor q.raw e.2).map fun e => s.selvedge c.dev c.ctx e.1
    match sels.find? fun a => !canonical a with
    | some a => (.error (.trap .memoryAccess 1 a 0), s1)
    | none =>
    match s1.lookups c.dev c.ctx 0 sels with
    | (.error e, s2) => (.error e, s2)
    | (.ok ys, s2) =>
    let all : List (DWord × Xlat) := els ++ sels.zip ys
    let stop : Option Stop :=
      (els.findSome? fun e => permStop c.priv q.read q.write e.1 e.2)
      <|> ((sels.zip ys).findSome? fun e => permStop c.priv true false e.1 e.2)
      <|> (if q.accrue then (els.find? fun e => !pteAccrue e.2.pte).map fun e => .trap .memoryAccess 16 e.1 0 else none)
      <|> (if q.write then (els.find? fun e => scaledFor q.raw e.2).map fun e => .trap .memoryAccess 8 e.1 0 else none)
      <|> (if q.raw then none else (els.find? fun e => pteFmt e.2.pte != 0 && !q.pair (pteFmt e.2.pte)).map fun e => .trap .memoryAccess 7 e.1 0)
      <|> ((all.find? fun e => s2.unmapped e.2.pa).map fun e => .trap .memoryAccess 9 e.1 0)
    match stop with
    | some e => (.error e, s2)
    | none =>
      match s2.touchAll c.dev c.ctx (xs.map (fun x => (x, q.write)) ++ ys.map fun y => (y, false)) with
      | (false, s3) => s3.checkElems c q x k
      | (true, s3) =>
        let out := els.foldl (fun (acc : List Elem × List Xlat) e =>
          if scaledFor q.raw e.2 then (acc.1 ++ [{ va := e.1, x := e.2, sel := acc.2.head? }], acc.2.tail)
          else (acc.1 ++ [{ va := e.1, x := e.2 }], acc.2)) ([], ys)
        (.ok out.1, s3)

/-- The check with as many walks as changed entries can ask for. -/
def State.checkAccess (s : State) (c : Ctx) (q : Query) (x : DWord) : Except Stop (List Elem) × State := s.checkElems c q x (2 * q.n + 2)

/-! ## Reading and writing elements -/

/-- The `n` bytes of an element as a core reads them: of a register block, or of a line with the core's own pending writes (R276, R309). -/
def State.readBytes (s : State) (d core pa n : Nat) : List Byte × State :=
  match mmioOff pa with
  | some o => (s.mmioBytes (devOf pa) o n, s)
  | none =>
    let s1 := s.reach d core (lineOf pa)
    (s1.coreBytes d core pa n, s1)

/-- The addresses that an element's read reaches, with their homes: its own and its scale's. -/
def State.homes (s : State) (c : Ctx) (e : Elem) : List (DWord × Nat) := e.at_ :: (e.sel.map fun y => (s.selvedge c.dev c.ctx e.va, y.pa)).toList

/-- How the requests of an instruction of a thread to the homes of some addresses fail first: the reason and the address (R264, R395). -/
def State.failAt (s : State) (c : Ctx) (t : Nat) (xs : List (DWord × Nat)) : Option (Nat × DWord) :=
  xs.findSome? fun x => (s.failTo c.dev x.2 t).map fun r => (r, x.1)

/-- A write to a home on another device that the right of the issuer's context does not reach is refused there (R267): the first such address. -/
def State.deniedAt (s : State) (c : Ctx) (xs : List (DWord × Nat)) : Option DWord := (xs.find? fun x => s.refused c.dev c.ctx x.2).map fun x => x.1

/-- What a thread's part of an instruction comes to: its writes, a stop, or a failure that arrives after issue, with the address (R264, R267, R395). -/
inductive Thr where
  | ok (ws : List (RegKey × Word))
  | stop (e : Stop)
  | lost (cls : TrapClass) (reason : Nat) (va : DWord)
  deriving DecidableEq, Repr

/-- A thread's work at the homes of some addresses: it waits while their routes are paused (R265), and fails where its requests do (R264). -/
def State.overFabric (s : State) (c : Ctx) (t : Nat) (xs : List (DWord × Nat)) (go : State → Thr × State) : Thr × State :=
  match xs.find? fun x => s.away c.dev x.2 with
  | some x => (.stop (.hold .retry 0 x.1), s)
  | none => match s.failAt c t xs with
    | some (r, va) => (.lost .fabric r va, s)
    | none => go s

/-- The same for work that writes there, which is refused whole where one write is (R267). -/
def State.overRight (s : State) (c : Ctx) (t : Nat) (xs : List (DWord × Nat)) (go : State → Thr × State) : Thr × State :=
  s.overFabric c t xs fun s => match s.deniedAt c xs with
    | some va => (.lost .memoryAccess 15 va, s)
    | none => go s

/-- A thread's writes of registers of other devices fail: their requests do, or the write is refused (R264, R267). -/
def State.deviceLost (s : State) (c : Ctx) (t : Nat) (es : List Elem) : Thr :=
  let far := (es.filter fun e => (mmioOff e.x.pa).isSome).map Elem.at_
  match s.failAt c t far with
  | some (r, va) => .lost .fabric r va
  | none => match s.deniedAt c far with
    | some va => .lost .memoryAccess 15 va
    | none => .ok []

/-- POISON (R206, R416). -/
def poisonStop (va : DWord) : Stop := .trap .uncorrectable 1 va 0

/-- The bytes that an instruction which its path has gone past has read already, if it takes these (R74, R208). -/
def Ctx.early (c : Ctx) (s : State) (spot : Nat) : Option (List Byte) :=
  match c.late with
  | none => none
  | some l => (l.seen.find? fun x => x.1 == spot && Config.lateSource s.tick (2 ^ 16 + spot)).map fun x => x.2

/-- The `n` bytes at a physical address read whole, as they stand or as they were read before; poison stops the read (R206, R416). -/
def State.sight (s : State) (c : Ctx) (spot : Nat) (va : DWord) (pa n : Nat) : Except Stop (List Byte) × State :=
  match c.early s spot with
  | some bs => (.ok bs, s)
  | none =>
    let (bs, s1) := s.readBytes c.dev c.core pa n
    if s1.poisoned c.dev c.core pa then (.error (poisonStop va), s1) else (.ok bs, s1)

/-- The registers of one element read and decoded (R72, R74, R204, R206). -/
def State.readElem (s : State) (c : Ctx) (raw : Bool) (z : Nat) (e : Elem) : Except Stop (List Word) × State :=
  match s.sight c (e.spot false) e.va e.x.pa z with
  | (.error x, s1) => (.error x, s1)
  | (.ok bs, s1) =>
    let v := leNat bs
    if raw || pteFmt e.x.pte == 0 then (.ok ((List.range (max 1 (z / 4))).map fun k => BitVec.ofNat 32 (v / 2 ^ (32 * k))), s1)
    else match e.sel with
      | none => (.ok (decodeElem (pteFmt e.x.pte) v), s1)
      | some y =>
        match s1.sight c (e.spot true) (s.selvedge c.dev c.ctx e.va) y.pa 1 with
        | (.error x, s2) => (.error x, s2)
        | (.ok sc, s2) => (.ok (decodeScaled (pteFmt e.x.pte) v (leNat sc)), s2)

/-- The elements of a thread's access read in ascending order; the first poisoned one stops. -/
def State.readElems (s : State) (c : Ctx) (raw : Bool) (z : Nat) : List Elem → Except Stop (List (List Word)) × State
  | [] => (.ok [], s)
  | e :: es =>
    match s.readElem c raw z e with
    | (.error x, s1) => (.error x, s1)
    | (.ok w, s1) =>
      match s1.readElems c raw z es with
      | (.ok ws, s2) => (.ok (w :: ws), s2)
      | (.error x, s2) => (.error x, s2)

/-- A contribution of one element put into the core's write queue; on an uncached page it is performed by itself, once, at its home (R198, R276). -/
def State.storeCont (s : State) (c : Ctx) (x : Xlat) (k : Contrib) (u : QUser) (rel : Nat) : State :=
  let a := lineOf x.pa
  if pteCpol x.pte == 3 then ((s.publishLine c.dev c.core a).enqueue c.dev c.core a k u rel).publishLine c.dev c.core a
  else s.enqueue c.dev c.core a k u rel

/-- Bytes of one element stored: into the core's write queue, or as a write of a device register, which another device refuses (R194, R198, R267, R276). -/
def State.storeBytes (s : State) (c : Ctx) (x : Xlat) (bs : List Byte) (u : QUser) (rel : Nat) : State :=
  match mmioOff x.pa with
  | some o => if s.refused c.dev c.ctx x.pa then s else s.mmioWrite (devOf x.pa) o bs
  | none => s.storeCont c x (.bytes (x.pa % 128) bs) u rel

/-! ## Orders (R53, R308, R309) -/

/-- The level of a release at a scope. -/
def levelOf (scope : Nat) : Nat := if scope ≤ 1 then 1 else if scope ≤ 4 then 2 else 3
/-- The level that a `.rel` modifier names; 0 without one. -/
def relLevel (f : Fields) : Nat := if modOrder f.mod == 3 then levelOf (modScope f.mod) else 0
/-- The issuer's earlier writes brought to the level of its order. -/
def State.relNow (s : State) (c : Ctx) (f : Fields) : State := s.release c.dev c.core (relLevel f)
/-- What comes before an access of the issuer: its earlier writes, brought to a level, or for an acquire the core's releasing writes, which precede it in the
order of R299. -/
def State.orderNow (s : State) (c : Ctx) (f : Fields) (level : Nat) : State :=
  if modOrder f.mod == 2 then s.syncFirst c.dev c.core else s.release c.dev c.core level

/-! ## The threads of an instruction (R205) -/

/-- How far the threads of an instruction have come: the threads performed, their register writes, the first failure of the fabric with its address and
the threads that met one, and what stopped the rest. -/
structure Run where
  s    : State
  done : Mask := 0
  ws   : List (RegKey × Word) := []
  lost : Mask := 0
  fail : Option (TrapClass × Nat × DWord) := none
  stop : Option Stop := none

/-- The threads in ascending order, until one stops. -/
def runThreads (one : State → Nat → Thr × State) : List Nat → Run → Run
  | [], r => r
  | t :: ts, r =>
    match one r.s t with
    | (.ok ws, s1) => runThreads one ts { r with s := s1, done := r.done ||| bitMask t, ws := r.ws ++ ws }
    | (.lost cls reason va, s1) =>
      runThreads one ts { r with s := s1, done := r.done ||| bitMask t, lost := r.lost ||| bitMask t, fail := r.fail <|> some (cls, reason, va) }
    | (.stop e, s1) => { r with s := s1, stop := some e }

/-- The threads that an attempt still has to perform: one for all under U = 1. -/
def Ctx.todo (c : Ctx) (f : Fields) : List Nat :=
  if f.u then (if c.done == 0 then (threadsOf c.sel).take 1 else []) else threadsOf (c.sel &&& ~~~c.done)

/-- A failure of the fabric at an address that reaches the weft after issue (R264, R267, R392, R395). -/
def State.failLater (s : State) (c : Ctx) (cls : TrapClass) (reason : Nat) (pmask : Mask) (va : DWord) : State :=
  s.later s.clk (.deferredTrap c.r.g { c.info cls reason pmask va 0 with precise := false, agent := .port })

/-- The failure that the threads of an attempt have met, on its way to the weft. -/
def Run.failed (r : Run) (c : Ctx) : State :=
  match r.fail with
  | some (cls, reason, va) => r.s.failLater c cls reason (r.done &&& ~~~r.lost) va
  | none => r.s

/-- The end of an attempt: a trap, a stall or a wait with the threads performed, or the end of the issue. -/
def Run.finish (r : Run) (c : Ctx) : State :=
  let s1 := r.failed c
  match r.stop with
  | some (.trap cls reason va info) => s1.trap c cls reason r.done va info
  | some (.stall va access reason) => (s1.writeLate c r.ws).stall c va access reason r.done
  | some (.hold why arg va) => (s1.writeLate c r.ws).holdP c why arg r.done va
  | none => s1.finishLate c r.ws

/-- The threads that an attempt performs: all that are left, or the next one of an instruction that its path has gone past, so that other agents may
come between its threads (R277). -/
def Ctx.slice (c : Ctx) (f : Fields) : List Nat := if c.late.isSome then (c.todo f).take 1 else c.todo f

/-- The end of an attempt that leaves threads for a later one: the instruction waits with those performed. -/
def Run.again (r : Run) (c : Ctx) : State :=
  if r.stop.isSome then r.finish c
  else ((r.failed c).writeLate c r.ws).holdP c .late 0 r.done

/-- A memory instruction whose order acts at a level: what comes before it, then its threads one after another; with no selected thread it completes idle
(DEDUCED, assumption log 17). -/
def State.threadsAt (s : State) (c : Ctx) (f : Fields) (level : Nat) (one : State → Nat → Thr × State) : State :=
  if c.sel == 0 then s.finishIdle c
  else
    let r := runThreads one (c.slice f) { s := s.orderNow c f level, done := c.done }
    if (c.slice f).length < (c.todo f).length then r.again c else r.finish c

/-- A memory instruction at the level of its scope. -/
def State.threads (s : State) (c : Ctx) (f : Fields) (one : State → Nat → Thr × State) : State := s.threadsAt c f (relLevel f) one

/-- The threads whose destinations a performed access writes: all selected ones under U = 1 (R206). -/
def Ctx.targets (c : Ctx) (f : Fields) (t : Nat) : List Nat := if f.u then threadsOf c.sel else [t]
/-- The ST units that a thread's access lowers (R129). -/
def Ctx.shares (c : Ctx) (f : Fields) : Nat := if f.u then (threadsOf c.sel).length else 1

/-- The writes of element after element to the blocks of some threads; an element's registers stand `w` columns apart. -/
def elemWrites (f : Fields) (w : Nat) (ts : List Nat) (vals : List (List Word)) : List (RegKey × Word) :=
  ts.flatMap fun t => ((blockElems f w).zip vals).flatMap fun ((i, j), ws) => (destKeys f.d w t i j).zip ws

/-- The end of a read: its writes or its stop. -/
def thrOf (f : Fields) (w : Nat) (ts : List Nat) : Except Stop (List (List Word)) → Thr
  | .ok vals => .ok (elemWrites f w ts vals)
  | .error e => .stop e

end Sys2Proof.Machine
end

