-- ==== Sys2Proof/Machine/Fetch.lean ====
section
/-! DEFINITION. Sys2Proof/Machine/Fetch.lean: a path's next word: the checks of its twelve bytes, the code line in the path's fetch buffer
(R118 to R120), and the traps of a word that cannot be fetched or is no instruction (R56, R57, R416). -/

namespace Sys2Proof.Machine

/-- The virtual address of the word at a path's PC (R118). -/
def Ctx.codeAddr (c : Ctx) : DWord := c.wf.seg + BitVec.ofNat 64 (12 * c.p.pc.toNat)
/-- The virtual address of its code line (R32, R119). -/
def Ctx.codeLine (c : Ctx) : DWord := c.wf.seg + BitVec.ofNat 64 (192 * (c.p.pc.toNat / 16))

/-- The first byte of a word and, if it straddles a 64 KiB page, the first byte in its second page (R118). -/
def wordPages (va : DWord) : List DWord :=
  if va.toNat % 65536 ≤ 65536 - 12 then [va] else [va, va + BitVec.ofNat 64 (65536 - va.toNat % 65536)]

/-- What stops the execution of a word at an address, its A bits set (R118, R195); the number bounds the walks that changed entries ask for.  An address that
is not canonical traps, and SUP is tested before X (DESIGN CHOICE, assumption log 84). -/
def State.checkWord (s : State) (c : Ctx) (va : DWord) : Nat → Option Stop × State
  | 0 => (some (.stall va 2 1), s)
  | k + 1 =>
    let vas := wordPages va
    match vas.find? fun a => !canonical a with
    | some a => (some (.trap .memoryAccess 1 a 0), s)
    | none => match s.lookups c.dev c.ctx 2 vas with
      | (.error e, s1) => (some e, s1)
      | (.ok xs, s1) =>
        let bad (e : DWord × Xlat) : Option Stop :=
          if pteSup e.2.pte && !c.priv then some (.trap .memoryAccess 6 e.1 0)
          else if !pteX e.2.pte then some (.trap .memoryAccess 5 e.1 0)
          else if s1.unmapped e.2.pa then some (.trap .memoryAccess 9 e.1 0)
          else none
        match (vas.zip xs).findSome? bad with
        | some e => (some e, s1)
        | none => match s1.touchAll c.dev c.ctx (xs.map fun x => (x, false)) with
          | (false, s2) => s2.checkWord c va k
          | (true, s2) => (none, s2)

/-- `n` bytes of one memory line for the fetch buffer; bytes that do not translate, cannot be reached or are poisoned stay empty (R118, R120) (DEDUCED, assumption log 60). -/
def State.codePiece (s : State) (c : Ctx) (va : DWord) (n : Nat) : List (Option Byte) × State :=
  let empty : List (Option Byte) := List.replicate n none
  if !canonical va then (empty, s)
  else match s.translate c.dev c.ctx va with
    | (.error _, s1) => (empty, s1)
    | (.ok x, s1) =>
      if s1.unmapped x.pa || s1.away c.dev x.pa || (s1.failTo c.dev x.pa 16).isSome then (empty, s1)
      else match s1.touch c.dev c.ctx x false with
        | (false, s2) => (empty, s2)
        | (true, s2) =>
          let (bs, s3) := s2.readBytes c.dev c.core x.pa n
          if s3.poisoned c.dev c.core x.pa then (empty, s3) else (bs.map some, s3)

/-- `n` bytes from an address in pieces that stay within memory lines; the first number bounds the pieces. -/
def State.codeBytes (s : State) (c : Ctx) : Nat → DWord → Nat → List (Option Byte) × State
  | 0, _, _ => ([], s)
  | k + 1, va, n =>
    let m := min n (128 - va.toNat % 128)
    let (bs, s1) := s.codePiece c va m
    if n ≤ m then (bs, s1)
    else
      let (rest, s2) := s1.codeBytes c k (va + BitVec.ofNat 64 m) (n - m)
      (bs ++ rest, s2)

/-- All bytes of a list, if none is empty. -/
def fullBytes : List (Option Byte) → Option (List Byte)
  | [] => some []
  | none :: _ => none
  | some b :: bs => (fullBytes bs).map fun r => b :: r

/-- The word at a path's PC as it stands in its fetch buffer (R120). -/
def Ctx.buffered (c : Ctx) (line : Option (Nat × List (Option Byte))) : Option InstrWord :=
  match line with
  | none => none
  | some (a, bs) =>
    if a != c.codeLine.toNat then none
    else match fullBytes ((bs.drop (12 * (c.p.pc.toNat % 16))).take 12) with
      | some w => if w.length == 12 then some (BitVec.ofNat 96 (wordOfBytes w)) else none
      | none => none

/-- The next word of a path: checked, and read from the fetch buffer, or from memory with its whole line (R118 to R120); while a link pauses its route,
the path waits (R265).  A held instruction whose word is buffered has been checked already. -/
def State.fetch (s : State) (c : Ctx) : Except Stop InstrWord × State :=
  let va := c.codeAddr
  match c.hold, c.buffered c.p.line with
  | some _, some w => (.ok w, s)
  | _, old =>
    match s.checkWord c va 4 with
    | (some e, s1) => (.error e, s1)
    | (none, s1) =>
      match old with
      | some w => (.ok w, s1)
      | none =>
        let (bs, s2) := s1.codeBytes c 3 c.codeLine 192
        let line := some (c.codeLine.toNat, bs)
        let s3 := s2.modP c fun p => { p with line := line }
        match c.buffered line with
        | some w => (.ok w, s3)
        | none =>
          let homes := (wordPages va).filterMap fun a => match s3.translate c.dev c.ctx a with | (.ok x, _) => some x.pa | _ => none
          if homes.any (s3.away c.dev) then (.error (.hold .retry 0 va), s3)
          else match homes.findSome? fun a => s3.failTo c.dev a 16 with
            | some r => (.error (.trap .fabric r va 0), s3)
            | none => (.error (.trap .uncorrectable 1 va 0), s3)

/-- A word that cannot be fetched: a stall, or a trap that names its PC (R118, R264, R416) (DEDUCED, assumption log 63). -/
def State.fetchStop (s : State) (c : Ctx) : Stop → State
  | .stall va access reason => s.stall c va access reason c.done
  | .trap cls reason va info =>
    let t := c.info cls reason c.done va info
    s.takeTrap c.r.g (if cls == .fabric then { t with precise := false, agent := .port } else t)
  | .hold .. => s

/-- A fetched word that is no instruction (R56): ILLEGAL_INSTRUCTION with the reason of the first check that it fails. -/
def State.illegalTrap (s : State) (c : Ctx) (w : InstrWord) (e : Illegal) : State :=
  let r := Raw.ofWord w
  let c1 : Ctx := { c with sel := c.guard s { neg := r.neg == 1, gp := r.gp } }
  s.takeTrap c.r.g (c1.info .illegalInstruction e.code 0 0 0)

/-- The path's fetch had stalled, and its retry is due (R118, R404). -/
def Ctx.refetches (c : Ctx) : Bool := match c.hold with | some h => h.why == .retry && h.sel == 0 | none => false

end Sys2Proof.Machine
end

