-- ==== Sys2Proof/Machine/Alloc.lean ====
section
/-! DEFINITION. Sys2Proof/Machine/Alloc.lean: the core's allocator: regacq, regrel and their queue (R110 to R115), spgrow and its queue (R388) -/

namespace Sys2Proof.Machine

/-! ## Extended blocks (R110, R112) -/

/-- The pool blocks that a group draws for `need` more blocks. -/
def Group.draws (G : Group) (need : Nat) : Nat := need - min need (G.q - G.inUse)

/-- The group of a path as it stands, with its weft. -/
def State.weftNow (s : State) (r : PathRef) : Option (Group × Weft) :=
  match s.group? r.g, s.weft? r.g r.w with
  | some G, some w => some (G, w)
  | _, _ => none

/-- A request for `n` blocks of a weft fits (R112). -/
def State.regFits (s : State) (G : Group) (w : Weft) (n : Nat) : Bool :=
  let k := G.draws (n - w.held)
  k ≤ s.freePool G.dev G.core && (k == 0 || s.budgetFits G.rid G.dev G.core 0 0 k)

/-- A register of a block above the first `n` blocks. -/
def RegKey.above (n : Nat) : RegKey → Bool
  | .v r _ => 64 * (n + 1) ≤ r
  | _ => false

/-- A weft holds blocks X1 to Xn, the new ones zero: no older value of theirs is read any more (R110, R112). -/
def Weft.hold (w : Weft) (n : Nat) : Weft :=
  { w with held := n, v := Sparse.drop w.v (fun k => 1024 * (min n w.held + 1) ≤ k), young := w.young.filter fun y => !y.key.above (min n w.held) }

/-- The request of a waiting path granted: it leaves the queue and its instruction completes. -/
def State.grantRegs (s : State) (c : Ctx) (n : Nat) (ws : List (RegKey × Word)) : State :=
  (s.modW c fun w => w.hold (max n w.held)).finishLate c ws

/-- The head of a core's queue granted if it fits (R112, R114). -/
def State.regHead (s : State) (d core : Nat) : State :=
  match (s.core d core).regq with
  | [] => s
  | r :: rs => match s.ctxAt r, s.weftNow r with
    | some c, some (G, w) =>
      if s.regFits G w c.arg then (s.modCore d core fun k => { k with regq := rs }).grantRegs c c.arg [] else s
    | _, _ => s.modCore d core fun k => { k with regq := rs }

/-- What regacq does before it queues or grants (R112). -/
def State.regacq (s : State) (c : Ctx) (f : Fields) (tried : Bool) (go : Group → Weft → Nat → State) : State :=
  let n := (c.once s f.a).toNat
  if c.sel == 0 then s.finishIdle c
  else if n == 0 || 3 < n then s.trap c .operand 2
  else match s.weftNow c.r with
    | none => s
    | some (G, w) => if n ≤ w.held then s.finishLate c (if tried then c.laneWrites f.d fun _ => 1 else []) else go G w n

/-- regacq (R112): the request joins its core's queue and waits there until it is granted. -/
def execRegacq (f : Fields) (s : State) : Host.Outcome State Fault Refusal :=
  issue .regacq f (fun c s =>
    if c.heldAs .regacq then s
    else s.regacq c f false fun _ _ n =>
      ((s.holdP c .regacq n 0).modCore c.dev c.core fun k => { k with regq := k.regq ++ [c.r] }).regHead c.dev c.core) s
/-- regacq.try (R112, R114). -/
def execRegacqTry (f : Fields) (s : State) : Host.Outcome State Fault Refusal :=
  issue .regacqTry f (fun c s => s.regacq c f true fun G w n =>
    if s.regFits G w n && (s.core c.dev c.core).regq.isEmpty then s.grantRegs c n (c.laneWrites f.d fun _ => 1)
    else s.finishLate c (c.laneWrites f.d fun _ => 0)) s

/-- Some instruction of the weft other than the issuer's is outstanding and names a register above the first `n` blocks (R112, R127). -/
def Ctx.busyAbove (c : Ctx) (w : Weft) (n : Nat) : Bool := w.outs.any fun o => o.n != c.out && 64 * (n + 1) ≤ o.top

/-- regrel (R112): it waits for the outstanding instructions that read or write registers of the blocks it releases (DEDUCED, assumption log 48); the
blocks then serve the head of the core's queue (R114). -/
def execRegrel (f : Fields) (s : State) : Host.Outcome State Fault Refusal :=
  issue .regrel f (fun c s =>
    let n := if c.heldAs .regrel then c.arg else (c.once s f.a).toNat
    if c.sel == 0 then s.finishIdle c
    else if 3 < n then s.trap c .operand 2
    else match s.weftNow c.r with
      | none => s
      | some (_, w) =>
        if c.busyAbove w n then s.holdP c .regrel n 0
        else ((s.modW c fun w => w.hold (min n w.held)).finishLate c []).regHead c.dev c.core) s

/-- REGACQ_GRANT (R112, R114). -/
def execRegacqGrant (dev core : Nat) (s : State) : Host.Outcome State Fault Refusal := .next (s.regHead dev core)

/-! ## STALL_DEADLOCK (R115) -/

/-- A path held as R115 counts it: in regacq or spgrow, or in those and a group barrier. -/
def Path.stuckIn (p : Path) (barrier : Bool) : Bool :=
  match p.hold with
  | some h => h.why == .regacq || h.why == .spgrow || (barrier && h.why == .barw)
  | none => false

/-- Every resident weft is held as R115 says. -/
def State.stalled (s : State) (d core : Nat) : Bool :=
  let gs := s.resident d core
  gs.all (fun G => G.life == .placed && G.wefts.all fun w => w.paths.all fun p => p.stuckIn true)
    && gs.any fun G => G.wefts.any fun w => w.paths.any fun p => p.stuckIn false

/-- The cycle since which a core has been stalled, kept up to date. -/
def State.watchStall (s : State) : State :=
  { s with cores := s.cores.map fun k => { k with stall := if s.stalled k.dev k.n then some (k.stall.getD s.clk) else none } }

/-- STALL_DEADLOCK (R115): after 4,096 cycles every path held in regacq traps. -/
def execStallDeadlock (dev core : Nat) (s : State) : Host.Outcome State Fault Refusal :=
  .next (match (s.core dev core).stall with
    | none => s
    | some t =>
      if s.stalled dev core && t + 4096 ≤ s.clk then
        ((s.core dev core).regq ++ (s.core dev core).spq).foldl (fun s r =>
          match s.ctxAt r with
          | some c => if c.p.stuckIn false then s.trap c .deadlock 1 else s
          | none => s) s
      else s)

/-! ## spgrow (R388) -/

/-- A window of `n` granules fits its core and its region's budget. -/
def State.spadFits (s : State) (G : Group) (n : Nat) : Bool :=
  n - G.grans.length ≤ (s.freeGrans G.dev G.core).length && s.budgetFits G.rid G.dev G.core (n - G.grans.length) 0 0

/-- A window grown to `n` granules, the new bytes zero. -/
def State.growSpad (s : State) (G : Group) (n : Nat) : State :=
  let new := (s.freeGrans G.dev G.core).take (n - G.grans.length)
  let mine (a : Nat) : Bool := zoneOf (localOf a) == .spad && devOf a == G.dev && (localOf a - 0x40080000000) / 2 ^ 20 == G.core
    && new.contains ((localOf a - 0x40080000000) % 2 ^ 20 / 4096)
  ({ s with mem := Sparse.drop s.mem mine } : State).modGroup G.uid fun G => { G with grans := G.grans ++ new }

/-- Waiting requests whose window an earlier grant covers complete at once (R388). -/
def State.coverSpad (s : State) (d core : Nat) : State :=
  (s.core d core).spq.foldl (fun s r =>
    match s.ctxAt r, s.group? r.g with
    | some c, some G =>
      if c.arg ≤ G.grans.length then (s.modCore d core fun k => { k with spq := k.spq.filter (· != r) }).finishLate c [] else s
    | _, _ => s) s

/-- The head of a core's spgrow queue granted if it fits. -/
def State.spadHead (s : State) (d core : Nat) : State :=
  match (s.core d core).spq with
  | [] => s
  | r :: rs => match s.ctxAt r, s.group? r.g with
    | some c, some G =>
      if s.spadFits G c.arg then
        (((s.modCore d core fun k => { k with spq := rs }).growSpad G c.arg).finishLate c []).coverSpad d core
      else s
    | _, _ => s.modCore d core fun k => { k with spq := rs }

/-- The checks of spgrow, made whatever the guard selects (R386, R388). -/
def State.spgrow (s : State) (c : Ctx) (f : Fields) (tried : Bool) (go : Group → Nat → State) : State :=
  let n := (c.once s f.a).toNat
  let G := (s.group? c.r.g).getD c.G
  if !c.R.elastic then s.trap c .operand 30
  else if n == 0 || 256 < n then s.trap c .operand 31
  else if c.sel == 0 then s.finishIdle c
  else if n ≤ G.grans.length then s.finishLate c (if tried then c.laneWrites f.d fun _ => 1 else [])
  else go G n

/-- spgrow (R388). -/
def execSpgrow (f : Fields) (s : State) : Host.Outcome State Fault Refusal :=
  issue .spgrow f (fun c s =>
    if c.heldAs .spgrow then s
    else s.spgrow c f false fun _ n =>
      ((s.holdP c .spgrow n 0).modCore c.dev c.core fun k => { k with spq := k.spq ++ [c.r] }).spadHead c.dev c.core) s
/-- spgrow.try (R388). -/
def execSpgrowTry (f : Fields) (s : State) : Host.Outcome State Fault Refusal :=
  issue .spgrowTry f (fun c s => s.spgrow c f true fun G n =>
    if s.spadFits G n && (s.core c.dev c.core).spq.isEmpty then (s.growSpad G n).finishLate c (c.laneWrites f.d fun _ => 1)
    else s.finishLate c (c.laneWrites f.d fun _ => 0)) s
/-- SPGROW_GRANT (R388). -/
def execSpgrowGrant (dev core : Nat) (s : State) : Host.Outcome State Fault Refusal := .next (s.spadHead dev core)

/-- The heads of every core's queues granted as far as they fit: whatever frees blocks or granules serves them before anything else happens (R114, R388). -/
def State.serveHeads (s : State) : State :=
  s.cores.foldl (fun s k =>
    let s1 := k.regq.foldl (fun s _ => s.regHead k.dev k.n) s
    k.spq.foldl (fun s _ => s.spadHead k.dev k.n) s1) s

end Sys2Proof.Machine
end

