-- ==== Sys2Proof/Machine/Loads.lean ====
section
/-! DEFINITION. Sys2Proof/Machine/Loads.lean: loads, stores, selvedge reads, prefetches, cache operations and Beam waits of group 0x8 (R200 to R212) -/

namespace Sys2Proof.Machine

/-- The element bytes and the registers per element of a size code (R204). -/
def sizeOf (sub : Nat) : Nat × Nat := (2 ^ sub, max 1 (2 ^ sub / 4))

/-- The elements of a block of `w`-register elements. -/
def elemCount (f : Fields) (w : Nat) : Nat := (blockElems f w).length

/-- The query of a load or store of elements of `z` bytes: decoded elements must be those of the page (R204, R205). -/
def moveQuery (f : Fields) (write : Bool) (z n : Nat) : Query :=
  { read := !write, write, code := if write then 1 else 0, raw := modRaw f.mod, align := z, z, n, pair := fun fmt => fmtBytes fmt == z }

/-! ## ld, st -/

/-- One thread's load (R206). -/
def State.loadThread (s : State) (c : Ctx) (f : Fields) (z w t : Nat) : Thr × State :=
  match s.checkAccess c (moveQuery f false z (elemCount f w)) (c.addr s f.a (offsetOf f.b) t) with
  | (.error e, s1) => (.stop e, s1)
  | (.ok es, s1) =>
    s1.overFabric c t (es.flatMap (s1.homes c)) fun s1 => match s1.readElems c (modRaw f.mod) z es with
      | (r, s2) => (thrOf f w (c.targets f t) r, s2)

/-- The bytes that a store makes of an element (R73, R207). -/
def storeElem (raw : Bool) (z : Nat) (pte : DWord) (v : Nat) : List Byte :=
  if raw || pteFmt pte == 0 then leBytes z v
  else leBytes z (encodeElem (pteFmt pte) [BitVec.ofNat 32 v, BitVec.ofNat 32 (v / 2 ^ 32)])

/-- The twin instructions, and the operand that holds their address. -/
def twinRef (i : Form) (f : Fields) : Option Operand :=
  match i with
  | .ldf | .adld | .adpeek | .adforce | .usecnt => some f.a
  | .adst | .useadj => some f.d
  | _ => none

/-- The address of the count words of an address's line (R340). -/
def State.countAddr (s : State) (d c : Nat) (va : DWord) : DWord := (s.ctx d c).usebase + ((va.setWidth 55 >>> 7).setWidth 64 <<< 4)

/-- The physical line that holds the use counts of an address, if it translates (R340). -/
def State.countLine (s : State) (d c : Nat) (va : DWord) : Option Nat :=
  match (s.translate d c (s.countAddr d c va)).1 with
  | .ok x => some (lineOf x.pa)
  | .error _ => none

/-- The lines of use counts that the twin instructions in flight reach: those that their paths have gone past, and waiting `adld`s. -/
def State.flyingCounts (s : State) : List Nat :=
  s.groups.flatMap fun G => G.wefts.flatMap fun w =>
    (w.late.flatMap fun l => match twinRef l.form l.f, s.ctxAt ⟨G.uid, w.wid, 16 + l.n⟩ with
      | some o, some c => (c.todo l.f).filterMap fun t => s.countLine c.dev c.ctx (c.addr s o (if l.form == .ldf || l.form == .adpeek then offsetOf l.f.b else 0) t)
      | _, _ => [])
    ++ w.paths.filterMap fun p => match p.hold with
      | some h => if h.why == .adld then s.countLine G.dev G.ctx h.va else none
      | none => none

/-- What a store puts in memory: its bytes; on a line of use counts that a twin instruction in flight reaches, words that the manual leaves undefined (R340) (DESIGN CHOICE, assumption log 81). -/
def State.clash (s : State) (pa : Nat) (bs : List Byte) : Nat × List Byte :=
  if s.flyingCounts.contains (lineOf pa) then
    let a := pa / 2 * 2
    (a, (List.range ((pa + bs.length + 1 - a) / 2)).flatMap fun k => leBytes 2 (Config.undefCount s.tick (a + 2 * k)))
  else (pa, bs)

/-- The elements of one thread stored one after another as access `n` (R207). -/
def State.storeElems (s : State) (c : Ctx) (f : Fields) (u : QUser) (bytes : Elem → Nat × Nat → List Byte) :
    List (Elem × (Nat × Nat)) → State
  | [] => s
  | (e, ij) :: rest =>
    let (pa, bs) := s.clash e.x.pa (bytes e ij)
    (s.storeBytes c { e.x with pa } bs { u with va := e.va } (relLevel f)).storeElems c f u bytes rest

/-- The poison of lines that elements on uncached pages, each performed by itself, have stored whole cleared (R198, R207). -/
def State.wholeLines (s : State) (z : Nat) (es : List Elem) : State :=
  let alone := es.filter fun e => pteCpol e.x.pte == 3
  let whole (a : Nat) : Bool := (alone.foldl (fun m e => if lineOf e.x.pa == a then m ||| (2 ^ z - 1) * 2 ^ (e.x.pa % 128) else m) 0) == 2 ^ 128 - 1
  { s with poison := s.poison.filter fun a => !whole a }

/-- One thread's store (R207). -/
def State.storeThread (s : State) (c : Ctx) (f : Fields) (z w t : Nat) : Thr × State :=
  match s.checkAccess c (moveQuery f true z (elemCount f w)) (c.addr s f.d (offsetOf f.b) t) with
  | (.error e, s1) => (.stop e, s1)
  | (.ok es, s1) =>
    let (n, s2) := s1.fresh
    let u := c.user (c.shares f) n (maskOf (c.targets f t))
    (s1.deviceLost c t es, s2.asAccess u fun s3 =>
      (s3.storeElems c f u (fun e ij => storeElem (modRaw f.mod) z e.x.pte (c.elem s .int w f.a t ij.1 ij.2)) (es.zip (blockElems f w))).wholeLines z es)

/-- ld (R206). -/
def execLd (f : Fields) (s : State) : Host.Outcome State Fault Refusal :=
  issue .ld f (fun c s => s.threads c f fun s t => s.loadThread c f (sizeOf (operandSub f.a)).1 (sizeOf (operandSub f.a)).2 t) s
/-- st (R207). -/
def execSt (f : Fields) (s : State) : Host.Outcome State Fault Refusal :=
  issue .st f (fun c s => s.threads c f fun s t => s.storeThread c f (sizeOf (operandSub f.d)).1 (sizeOf (operandSub f.d)).2 t) s

/-! ## lds, sts (R200) -/

/-- The checked window address of a thread's access, or its stop (R200, R205 steps 1 and 2). -/
def Ctx.spadAt (c : Ctx) (s : State) (o off : Operand) (z n t : Nat) : Except Stop Nat :=
  let x := (c.addr s o (offsetOf off) t).toNat % 2 ^ 32
  if c.G.spadsz < x + n * z then .error (.trap .memoryAccess 10 (BitVec.ofNat 64 x) 0)
  else if x % z != 0 then .error (.trap .memoryAccess 2 (BitVec.ofNat 64 x) 0)
  else .ok x

/-- The register words of a raw element. -/
def rawWords (w : Nat) (bs : List Byte) : List Word := (List.range w).map fun k => BitVec.ofNat 32 (leNat bs / 2 ^ (32 * k))

/-- One thread's window load. -/
def State.ldsThread (s : State) (c : Ctx) (f : Fields) (z w t : Nat) : Thr × State :=
  match c.spadAt s f.a f.b z (elemCount f w) t with
  | .error e => (.stop e, s)
  | .ok x => (.ok (elemWrites f w (c.targets f t) ((List.range (elemCount f w)).map fun k => rawWords w (s.spadBytes c.G (x + k * z) z))), s)

/-- One thread's window store. -/
def State.stsThread (s : State) (c : Ctx) (f : Fields) (z w t : Nat) : Thr × State :=
  match c.spadAt s f.d f.b z (elemCount f w) t with
  | .error e => (.stop e, s)
  | .ok x =>
    let put (s : State) (e : (Nat × Nat) × Nat) : State := s.storeSpad c.G (x + e.2 * z) (leBytes z (c.elem s .int w f.a t e.1.1 e.1.2))
    let s1 := if relLevel f == 0 then s else s.raiseEpoch c.dev c.core
    (.ok [], ((blockElems f w).zipIdx.foldl put s1).lowerOwn c (c.shares f))

/-- lds (R200, R206). -/
def execLds (f : Fields) (s : State) : Host.Outcome State Fault Refusal :=
  issue .lds f (fun c s => s.threads c f fun s t => s.ldsThread c f (sizeOf (operandSub f.a)).1 (sizeOf (operandSub f.a)).2 t) s
/-- sts (R200, R207); its order acts at group scope. -/
def execSts (f : Fields) (s : State) : Host.Outcome State Fault Refusal :=
  issue .sts f (fun c s => s.threadsAt c f (min 1 (relLevel f)) fun s t => s.stsThread c f (sizeOf (operandSub f.d)).1 (sizeOf (operandSub f.d)).2 t) s

/-! ## ldb (R201) -/

/-- One thread's Beam load (DEDUCED, assumption log 35); BEAM_NOT_ENABLED is tested between BEAM_RANGE and ALIGN (DESIGN CHOICE, assumption log 98). -/
def State.ldbThread (s : State) (c : Ctx) (f : Fields) (z w t : Nat) : Thr × State :=
  let x := c.addr s f.a (offsetOf f.b) t
  let n := elemCount f w
  if (List.range n).any fun k => 2 ^ 31 ≤ (x + BitVec.ofNat 64 (k * z)).toNat then (.stop (.trap .memoryAccess 11 x 0), s)
  else if !c.R.beam then (.stop (.trap .memoryAccess 12 x 0), s)
  else if x.toNat % z != 0 then (.stop (.trap .memoryAccess 2 x 0), s)
  else
    let at_ (k : Nat) : Nat := beamAddr c.dev (x.toNat + k * z)
    if (List.range n).any fun k => s.poison.contains (lineOf (at_ k)) then (.stop (poisonStop x), s)
    else (.ok (elemWrites f w (c.targets f t) ((List.range n).map fun k => rawWords w (s.bytes (at_ k) z))), s)

/-- ldb (R201, R206); the refresh of R202 only delays it. -/
def execLdb (f : Fields) (s : State) : Host.Outcome State Fault Refusal :=
  issue .ldb f (fun c s => s.threads c f fun s t => s.ldbThread c f (sizeOf (operandSub f.a)).1 (sizeOf (operandSub f.a)).2 t) s

/-! ## ldsel, pf, cop -/

/-- One thread's selvedge byte (R209). -/
def State.ldselThread (s : State) (c : Ctx) (f : Fields) (t : Nat) : Thr × State :=
  let x := c.addr s f.a (offsetOf f.b) t
  if !canonical x then (.stop (.trap .memoryAccess 1 x 0), s)
  else match s.checkAccess c { read := true, raw := true, align := 1, z := 1, n := 1, pair := fun _ => true } (s.selvedge c.dev c.ctx x) with
    | (.error e, s1) => (.stop e, s1)
    | (.ok es, s1) =>
      s1.overFabric c t (es.flatMap (s1.homes c)) fun s1 => match s1.readElems c true 1 es with
        | (r, s2) => (thrOf f 1 (c.targets f t) r, s2)

/-- ldsel (R209). -/
def execLdsel (f : Fields) (s : State) : Host.Outcome State Fault Refusal := issue .ldsel f (fun c s => s.threads c f fun s t => s.ldselThread c f t) s

/-- The addresses of the selected threads translated into the TLB where they can be, and an operation on the lines that are there; they are no
accesses that set A (R195, R210) (DESIGN CHOICE, assumption log 97). -/
def State.peekAll (s : State) (c : Ctx) (f : Fields) (act : State → Nat → State) : State :=
  (threadsOf c.sel).foldl (fun s t =>
    let x := c.addr s f.a (offsetOf f.b) t
    if !canonical x then s
    else match s.translate c.dev c.ctx x with
      | (.ok y, s1) => if s1.unmapped y.pa then s1 else act s1 (lineOf y.pa)
      | (.error _, s1) => s1) s

/-- A line's stores in the issuer's core written to its home (R211). -/
def State.cleanLine (s : State) (c : Ctx) (a : Nat) : State := s.publishLine c.dev c.core a

/-- A line cleaned, and the copy of the issuer's die gone; a line in the Accrue state keeps its partials (R211, R324). -/
def State.flushLine (s : State) (c : Ctx) (a : Nat) : State :=
  let h := 4 * c.dev + min (c.core / 64) 3
  let s1 := s.cleanLine c a
  let drop (L : Line) : Line := { L with sharers := L.sharers.filter (· != h), owner := if L.owner == some h then none else L.owner }
  { s1 with lines := modIf (fun L => L.addr == a && L.st != .a) drop s1.lines }

/-- pf (R210): the fill changes timing only. -/
def execPf (f : Fields) (s : State) : Host.Outcome State Fault Refusal := issue .pf f (fun c s => (s.peekAll c f fun s _ => s).finish .pf c []) s
/-- cop.clean (R211). -/
def execCopClean (f : Fields) (s : State) : Host.Outcome State Fault Refusal :=
  issue .copClean f (fun c s => (s.peekAll c f fun s a => s.cleanLine c a).finish .copClean c []) s
/-- cop.flush (R211). -/
def execCopFlush (f : Fields) (s : State) : Host.Outcome State Fault Refusal :=
  issue .copFlush f (fun c s => (s.peekAll c f fun s a => s.flushLine c a).finish .copFlush c []) s
/-- cop.demote (R211). -/
def execCopDemote (f : Fields) (s : State) : Host.Outcome State Fault Refusal := issue .copDemote f (fun c s => (s.peekAll c f fun s _ => s).finish .copDemote c []) s

/-- One thread's cop.zero. -/
def State.zeroThread (s : State) (c : Ctx) (f : Fields) (t : Nat) : Thr × State :=
  let x := c.addr s f.a (offsetOf f.b) t
  if !canonical x then (.stop (.trap .memoryAccess 1 x 0), s)
  else match s.checkAccess c { write := true, code := 1, raw := true, align := 128, z := 128, n := 1, pair := fun _ => true } (x &&& ~~~127) with
    | (.error e, s1) => (.stop e, s1)
    | (.ok es, s1) =>
      (s1.deviceLost c t es, es.foldl (fun s e => (s.storeBytes c e.x (List.replicate 128 0) { c.user 0 0 (bitMask t) with va := e.va } 0).publishLine c.dev c.core (lineOf e.x.pa)) s1)

/-- cop.zero (R211). -/
def execCopZero (f : Fields) (s : State) : Host.Outcome State Fault Refusal := issue .copZero f (fun c s => s.threads c f fun s t => s.zeroThread c f t) s

/-! ## beamwait (R202, R212) -/

/-- Slot `k` is not current and its next start is at least `w` cycles away. -/
def beamClear (clk k w : Nat) : Bool :=
  let slot := clk / 2048 % 16
  slot != k && w ≤ (k + 16 - slot) % 16 * 2048 - clk % 2048

/-- beamwait (R212): the hold keeps the slot and the window that its sources gave at its issue. -/
def execBeamwait (f : Fields) (s : State) : Host.Outcome State Fault Refusal :=
  issue .beamwait f (fun c s =>
    let held := c.heldAs .beamwait
    let b := if held then c.arg % 16 else (c.once s f.a).toNat
    let w := if held then c.arg / 16 else (c.once s f.b).toNat
    if c.sel == 0 then s.finishIdle c
    else if !held && (63 < b || 30720 < w) then s.trap c .operand 11
    else if beamClear (s.devClk c.dev) (b % 16) w then s.finishLate c []
    else s.holdP c .beamwait (b % 16 + 16 * w) 0) s
/-- BEAMWAIT_RELEASE (R212): a path held in beamwait goes on once its slot is far enough. -/
def execBeamwaitRelease (r : PathRef) (s : State) : Host.Outcome State Fault Refusal :=
  .next (match s.ctxAt r with
    | some c => if c.heldAs .beamwait && beamClear (s.devClk c.dev) (c.arg % 16) (c.arg / 16) then s.finishLate c [] else s
    | none => s)

/-! ## trywait (R140, R145) -/

/-- The compare code of a trywait. -/
def tryCode (f : Fields) : Nat := (f.mod.extractLsb' 2 4).toNat % 8

/-- What a trywait watches: as its hold keeps it, or as its sources give it at its issue. -/
def Ctx.watch (c : Ctx) (s : State) (f : Fields) : Watch :=
  match c.hold.bind fun h => h.test with
  | some w => w
  | none =>
    let b := match f.b with | .scalar n => n.toNat | _ => 0
    let mode := modLo2 f.mod
    { mode, code := tryCode f, src := if mode ≤ 1 then (c.once s f.a).setWidth 64 else c.addr s f.a 0 (lowThread c.sel), val := c.s s b,
      due := s.clk + min (c.s s (b + 1)).toNat (2 ^ 20) }

/-- A barrier of the issuer's group as it stands. -/
def State.barAt (s : State) (c : Ctx) (n : Nat) : Barrier := ((s.group? c.r.g).getD c.G).bars.getD n {}

/-- What a trywait observes, or what stops it (DEDUCED, assumption log 38); a read of memory, which may turn out to be an acquire, follows the core's releasing
writes (R299).  A read that fails over the fabric observes nothing, and its failure is on its way to the weft (R264). -/
def State.observe (s : State) (c : Ctx) (w : Watch) : Except Stop (Option Word) × State :=
  let n := w.src.toNat
  match w.mode with
  | 0 => if 15 < n then (.error (.trap .operand 11 0 0), s) else (.ok (some (s.barAt c n).phase), s)
  | 1 => if 63 < n then (.error (.trap .operand 11 0 0), s)
    else (.ok (some (BitVec.ofNat 32 (bobCode (((s.group? c.r.g).getD c.G).bobs.getD n {}).st))), s)
  | _ =>
    match (s.syncFirst c.dev c.core).checkAccess c { read := true, raw := true, align := 4, z := 4, n := 1, pair := fun _ => true } w.src with
    | (.error e, s1) => (.error e, s1)
    | (.ok es, s1) =>
      if es.any fun e => s1.away c.dev e.x.pa then (.error (.hold .retry 0 w.src), s1)
      else match s1.failAt c (lowThread c.sel) (es.map Elem.at_) with
      | some (r, va) => (.ok none, s1.failLater c .fabric r 0 va)
      | none => match s1.readElems c true 4 es with
        | (.ok ws, s2) => (.ok (some (ws.flatten.headD 0)), s2)
        | (.error e, s2) => (.error e, s2)

/-- A trywait whose condition holds acquires what it has observed: the completed phases of its barrier (R145, R297). -/
def State.acquireWatch (s : State) (c : Ctx) (w : Watch) : State := if w.mode == 0 then s.acquirePast c (s.barAt c w.src.toNat) else s

/-- The hold of a trywait keeps what it watches. -/
def State.keepWatch (s : State) (c : Ctx) (w : Watch) : State := s.modP c fun p => { p with hold := p.hold.map fun h => { h with test := some w } }

/-- trywait (R145): D is true if the condition holds before the deadline, or at it. -/
def execTrywait (f : Fields) (s : State) : Host.Outcome State Fault Refusal :=
  issue .trywait f (fun c s =>
    let w := c.watch s f
    if c.sel == 0 then s.finishIdle c
    else match s.observe c w with
      | (.error (.trap cls reason va info), s1) => s1.trap c cls reason 0 va info
      | (.error (.stall va access reason), s1) => (s1.stall c va access reason 0).keepWatch c w
      | (.error (.hold why arg va), s1) => (s1.holdP c why arg 0 va).keepWatch c w
      | (.ok none, s1) => s1.finishLate c []
      | (.ok (some x), s1) =>
        if tryTest w.code x w.val then (s1.acquireWatch c w).finishLate c (c.laneWrites f.d fun _ => 1)
        else if w.due ≤ s.clk then s1.finishLate c (c.laneWrites f.d fun _ => 0)
        else ((s1.writeLate c (c.laneWrites f.d fun _ => 0)).holdP c .trywait w.due 0).keepWatch c w) s

/-- The predicates that a held trywait writes when it completes become true. -/
def State.tryTrue (s : State) (c : Ctx) : State :=
  s.modW c fun wf => { wf with outs := wf.outs.map fun o => if o.n == c.out then { o with writes := o.writes.map fun x => { x with val := 1 } } else o }

/-- TRYWAIT_DEADLINE (R145): the condition is tested for the last time, and the trywait completes. -/
def execTrywaitDeadline (r : PathRef) (s : State) : Host.Outcome State Fault Refusal :=
  .next (match s.ctxAt r with
    | some c =>
      if !(c.heldAs .trywait && c.arg ≤ s.clk) then s
      else match c.hold.bind fun h => h.test with
        | none => s.finishLate c []
        | some w => match s.observe c w with
          | (.error (.trap cls reason va info), s1) => s1.trap c cls reason 0 va info
          | (.error (.stall va access reason), s1) => (s1.stall c va access reason 0).keepWatch c w
          | (.error (.hold ..), _) => s
          | (.ok none, s1) => s1.finishLate c []
          | (.ok (some x), s1) => if tryTest w.code x w.val then ((s1.acquireWatch c w).tryTrue c).finishLate c [] else s1.finishLate c []
    | none => s)

end Sys2Proof.Machine
end

