-- ==== Sys2Proof/Machine/Atomics.lean ====
section
/-! DEFINITION. Sys2Proof/Machine/Atomics.lean: atomics, reductions and Accrue instructions of group 0x9 (R276 to R285, R322 to R337) -/

namespace Sys2Proof.Machine

/-! ## Operators and their operands -/

end Sys2Proof.Machine

namespace Sys2Proof

open Machine in
/-- How an operand widens for an operator (R280). -/
def MemOp.widen : MemOp → Widen
  | .addF32 | .minF32 | .maxF32 => .flt .f32
  | .addBf16x2 => .fltPair .bf16
  | .addC32 => .cplx
  | _ => .int
/-- Registers per element. -/
def MemOp.cols (op : MemOp) : Nat := op.bytes / 4
/-- The page formats that a decoded access of an operator may meet (R278, R334). -/
def MemOp.pairs (op : MemOp) (fmt : Nat) : Bool :=
  match op with
  | .addF32 | .minF32 | .maxF32 => fmt == 14
  | .addBf16x2 => fmt == 13
  | .addC32 => fmt == 15
  | _ => false
/-- The operators that DET turns into deposits (R284, R332). -/
def MemOp.exact (op : MemOp) : Bool := op == .addF32 || op == .addBf16x2 || op == .addC32

end Sys2Proof

namespace Sys2Proof.Machine

/-- Element `k` of an eight-register operand block, for a thread (R282). -/
def Ctx.vecElem (c : Ctx) (s : State) (op : MemOp) (o : Operand) (t k : Nat) (ij : Nat × Nat) : Nat :=
  match o with
  | .scalar n => joinWords ((List.range op.cols).map fun x => c.s s (n.toNat + op.cols * k + x))
  | _ => c.elem s op.widen op.cols o t ij.1 ij.2

/-- Which element of the block stands where: its number, row and column; `n` elements in all. -/
def elemPlaces (f : Fields) (w n : Nat) : List (Nat × (Nat × Nat)) :=
  (List.range n).map fun k => (k, (blockElems f w).getD k (0, 0))

/-- The query of an atomic of `n` elements (R278, R284). -/
def atomQuery (f : Fields) (op : MemOp) (align n : Nat) (accrue : Bool) : Query :=
  { read := true, write := true, code := 3, raw := modRaw f.mod, accrue, align, z := op.bytes, n, pair := op.pairs }

/-! ## Read-modify-writes at the point of coherence -/

/-- The core's release record added at a line that an atomic writes, or what its latest `fence.rel` asks for (R310). -/
def State.recordAt (s : State) (c : Ctx) (a rel : Nat) : State :=
  match (s.core c.dev c.core).records rel with
  | [] => s
  | rs => (s.modLine a fun L => { L with recs := addRecs L.recs rs }).modCore c.dev c.core fun x =>
      { x with epoch := if rel == 1 || rel == 2 then x.epoch + 1 else x.epoch }

/-- One element read, changed and written back at its point of coherence (R276, R277); `g` gives the new element, or none. -/
def State.rmw (s : State) (c : Ctx) (f : Fields) (pa z : Nat) (g : Nat → Option Nat) : Nat × State :=
  match mmioOff pa with
  | some o =>
    let old := leNat (s.mmioBytes (devOf pa) o z)
    (old, match g old with
      | some v => s.mmioWrite (devOf pa) o (leBytes z v)
      | none => s)
  | none =>
    let a := lineOf pa
    let s1 := (s.publishLine c.dev c.core a).reach c.dev c.core a
    let old := leNat (s1.bytes pa z)
    (old, match g old with
      | some v => ((s1.setBytes pa (leBytes z v)).uncache a).recordAt c a (relLevel f)
      | none => s1)

/-- What an atomic makes of one element: the merged value and then a deposit under DET (R284), or the operator's result (R280). -/
def State.atomElem (s : State) (c : Ctx) (f : Fields) (op : MemOp) (det : Bool) (pa v : Nat) : Nat × State :=
  if det then
    let a := lineOf pa
    let s1 := (s.publishLine c.dev c.core a).reach c.dev c.core a
    (leNat (s1.bytes pa op.bytes), (s1.deposit c.dev c.core c.ctx a op true (pa % 128) v).recordAt c a (relLevel f))
  else s.rmw c f pa op.bytes fun m => some (op.apply m v)

/-- The line of an element brought to its home for an RMW or a flush: whether it is poisoned there, as a merge may leave it (R327, R416). -/
def State.atHome (s : State) (c : Ctx) (pa : Nat) : Bool × State :=
  match mmioOff pa with
  | some _ => (false, s)
  | none =>
    let s1 := (s.publishLine c.dev c.core (lineOf pa)).reach c.dev c.core (lineOf pa)
    (s1.poison.contains (lineOf pa), s1)

/-- The elements of one thread's atomic, in ascending order: their old values, or the stop at a poisoned line. -/
def State.atomElems (s : State) (c : Ctx) (f : Fields) (op : MemOp) (det : Bool) : List (Elem × Nat) → Except Stop (List (List Word)) × State
  | [] => (.ok [], s)
  | (e, v) :: rest =>
    match s.atHome c e.x.pa with
    | (true, s0) => (.error (poisonStop e.va), s0)
    | (false, s0) =>
      let (old, s1) := s0.atomElem c f op det e.x.pa v
      match s1.atomElems c f op det rest with
      | (.ok ws, s2) => (.ok (rawWords op.cols (leBytes op.bytes old) :: ws), s2)
      | (.error x, s2) => (.error x, s2)

/-- One thread of an atomic that returns values. -/
def State.atomThread (s : State) (c : Ctx) (f : Fields) (op : MemOp) (align n t : Nat) : Thr × State :=
  let det := c.R.det && op.exact
  match s.checkAccess c (atomQuery f op align n det) (c.addr s f.a 0 t) with
  | (.error e, s1) => (.stop e, s1)
  | (.ok es, s1) =>
    s1.overRight c t (es.map Elem.at_) fun s1 =>
      let vs := (elemPlaces f op.cols n).map fun p => c.vecElem s1 op f.b t p.1 p.2
      match s1.atomElems c f op det (es.zip vs) with
      | (r, s2) => (thrOf f op.cols (c.targets f t) r, s2)

/-- One thread of a reduction: its contributions join the core's write queue in order (R276, R281, R284). -/
def State.redThread (s : State) (c : Ctx) (f : Fields) (op : MemOp) (align n t : Nat) : Thr × State :=
  let det := c.R.det && op.exact
  match s.checkAccess c (atomQuery f op align n det) (c.addr s f.d 0 t) with
  | (.error e, s1) => (.stop e, s1)
  | (.ok es, s1) =>
    if es.any fun e => s1.poisoned c.dev c.core e.x.pa then (.stop (poisonStop (c.addr s f.d 0 t)), s1)
    else
      let (k, s2) := s1.fresh
      let u := c.user (c.shares f) k (maskOf (c.targets f t))
      let put (s : State) (x : Elem × (Nat × (Nat × Nat))) : State :=
        let v := c.vecElem s1 op f.a t x.2.1 x.2.2
        match mmioOff x.1.x.pa with
        | some _ => if s.refused c.dev c.ctx x.1.x.pa then s else (s.rmw c f x.1.x.pa op.bytes fun m => some (op.apply m v)).2
        | none =>
          let cont : Contrib := if det then .deposit op true c.ctx (x.1.x.pa % 128) v else .rmw op (x.1.x.pa % 128) v
          s.storeCont c x.1.x cont { u with va := x.1.va } (relLevel f)
      (s1.deviceLost c t es, s2.asAccess u fun s3 => (es.zip (elemPlaces f op.cols n)).foldl put s3)

/-- The operator a reference names. -/
def opOf (o : Operand) : MemOp := memOpOf (operandSub o)

/-- atom (R281, R284). -/
def execAtom (f : Fields) (s : State) : Host.Outcome State Fault Refusal :=
  issue .atom f (fun c s => s.threads c f fun s t => s.atomThread c f (opOf f.a) (opOf f.a).bytes 1 t) s
/-- Element `k` of one thread of an `atomv` alone (R277). -/
def State.atomOne (s : State) (c : Ctx) (f : Fields) (op : MemOp) (n t k : Nat) : Thr × State :=
  let det := c.R.det && op.exact
  match s.checkAccess c (atomQuery f op 32 n det) (c.addr s f.a 0 t) with
  | (.error e, s1) => (.stop e, s1)
  | (.ok es, s1) => match es[k]? with
    | none => (.ok [], s1)
    | some e => s1.overRight c t [e.at_] fun s1 =>
      let ij := (blockElems f op.cols).getD k (0, 0)
      match s1.atomElems c f op det [(e, c.vecElem s1 op f.b t k ij)] with
      | (.error x, s2) => (.stop x, s2)
      | (.ok ws, s2) => (.ok ((c.targets f t).flatMap fun u => (destKeys f.d op.cols u ij.1 ij.2).zip (ws.headD [])), s2)

/-- The next element of an `atomv` that its path has gone past: other agents may come between its elements (R277); the hold counts the elements of the
thread that are done. -/
def State.atomNext (s : State) (c : Ctx) (f : Fields) : State :=
  match c.todo f with
  | [] => s.finishLate c []
  | t :: rest =>
    let op := opOf f.a
    let n := 32 / op.bytes
    let k := if c.heldAs .late then c.arg else 0
    let r := runThreads (fun s t => s.atomOne c f op n t k) [t] { s := s.orderNow c f (relLevel f), done := c.done }
    if r.stop.isNone && r.fail.isNone && k + 1 < n then (r.s.writeLate c r.ws).holdP c .late (k + 1) c.done
    else if rest.isEmpty then r.finish c
    else r.again c

/-- atomv (R282). -/
def execAtomv (f : Fields) (s : State) : Host.Outcome State Fault Refusal :=
  issue .atomv f (fun c s =>
    if c.late.isSome then s.atomNext c f
    else s.threads c f fun s t => s.atomThread c f (opOf f.a) 32 (32 / (opOf f.a).bytes) t) s
/-- red (R281, R284). -/
def execRed (f : Fields) (s : State) : Host.Outcome State Fault Refusal :=
  issue .red f (fun c s => s.threads c f fun s t => s.redThread c f (opOf f.d) (opOf f.d).bytes 1 t) s
/-- redv (R282). -/
def execRedv (f : Fields) (s : State) : Host.Outcome State Fault Refusal :=
  issue .redv f (fun c s => s.threads c f fun s t => s.redThread c f (opOf f.d) 32 (32 / (opOf f.d).bytes) t) s

/-! ## cas (R283) -/

/-- The query of a compare and swap of `z` bytes (R278). -/
def casQuery (f : Fields) (z : Nat) : Query :=
  { read := true, write := true, code := 3, raw := modRaw f.mod, align := z, z, n := 1, pair := fun fmt => fmt == if z == 4 then 14 else 15 }

/-- One thread's compare and swap of `z` bytes. -/
def State.casThread (s : State) (c : Ctx) (f : Fields) (z t : Nat) : Thr × State :=
  match s.checkAccess c (casQuery f z) (c.addr s f.a 0 t) with
  | (.error e, s1) => (.stop e, s1)
  | (.ok es, s1) =>
    match es with
    | [] => (.ok [], s1)
    | e :: _ => s1.overRight c t [e.at_] fun s1 => match s1.atHome c e.x.pa with
      | (true, s2) => (.stop (poisonStop e.va), s2)
      | (false, s2) =>
        let b := c.elem s2 .int (z / 2) f.b t 0 0
        let old := b % 2 ^ (8 * z)
        let (m, s3) := s2.rmw c f e.x.pa z fun m => if m == old then some (b / 2 ^ (8 * z)) else none
        let ok : Word := if m == old then 1 else 0
        let words := rawWords (z / 4) (leBytes z m) ++ ok :: if z == 8 then [0] else []
        (.ok (elemWrites f (z / 2) (c.targets f t) [words]), s3)

/-- cas (R283). -/
def execCas (f : Fields) (s : State) : Host.Outcome State Fault Refusal :=
  issue .cas f (fun c s => s.threads c f fun s t => s.casThread c f (if operandSub f.a == 0 then 4 else 8) t) s

/-! ## Accrue (R333 to R337) -/

/-- The query of an Accrue deposit (R334) (DEDUCED, assumption log 33). -/
def depositQuery (f : Fields) (op : MemOp) (align n : Nat) : Query :=
  { write := true, code := 1, raw := modRaw f.mod, accrue := true, align, z := op.bytes, n, pair := op.pairs }

/-- One thread's deposits (R335). -/
def State.accrThread (s : State) (c : Ctx) (f : Fields) (op : MemOp) (t : Nat) : Thr × State :=
  match s.checkAccess c (depositQuery f op op.bytes (elemCount f op.cols)) (c.addr s f.d 0 t) with
  | (.error e, s1) => (.stop e, s1)
  | (.ok es, s1) =>
    let (k, s2) := s1.fresh
    let u := c.user (c.shares f) k (maskOf (c.targets f t))
    let put (s : State) (x : Elem × (Nat × Nat)) : State :=
      s.storeCont c x.1.x (.deposit op (c.R.det && op.exact) c.ctx (x.1.x.pa % 128) (c.elem s1 op.widen op.cols f.a t x.2.1 x.2.2)) { u with va := x.1.va } (relLevel f)
    (.ok [], s2.asAccess u fun s3 => (es.zip (blockElems f op.cols)).foldl put s3)

/-- The fields of an `accr` with the order that it has: `.acq` acts as `.rlx` (R335). -/
def depositing (f : Fields) : Fields := if modOrder f.mod == 2 then { f with mod := f.mod &&& 0x0F ||| 0x10 } else f

/-- accr (R335). -/
def execAccr (f : Fields) (s : State) : Host.Outcome State Fault Refusal :=
  issue .accr f (fun c s => s.threads c (depositing f) fun s t => s.accrThread c f (opOf f.d) t) s

/-- The work of a thread from `s` to `t` has forced a merge of a line that has lost a partial (R327): the line is poisoned by it, or was to lose one and no
longer is. -/
def State.lossy (s t : State) (a : Nat) : Bool := t.poison.contains a && (!s.poison.contains a || (s.mergeLost a && !t.mergeLost a))

/-- One thread's flush (R336): no format check applies. -/
def State.accflushThread (s : State) (c : Ctx) (f : Fields) (t : Nat) : Thr × State :=
  let x := c.addr s f.d 0 t
  match s.checkAccess c { write := true, code := 1, raw := true, align := 1, z := 1, n := 1, pair := fun _ => true } x with
  | (.error e, s1) => (.stop e, s1)
  | (.ok es, s1) =>
    s1.overFabric c t (es.map Elem.at_) fun s1 =>
      let s2 := es.foldl (fun (s : State) e => (s.atHome c e.x.pa).2) s1
      match es.find? fun e => s1.lossy s2 (lineOf e.x.pa) with
      | some e => (.stop (poisonStop e.va), s2)
      | none => (.ok [], s2.lowerOwn c (c.shares f))

/-- accflush (R336). -/
def execAccflush (f : Fields) (s : State) : Host.Outcome State Fault Refusal := issue .accflush f (fun c s => s.threads c f fun s t => s.accflushThread c f t) s

/-- One thread's tag (R337). -/
def State.acctagThread (s : State) (c : Ctx) (f : Fields) (op : MemOp) (t : Nat) : Thr × State :=
  let x := c.addr s f.d 0 t
  match s.checkAccess c { depositQuery f op 1 1 with z := 1 } x with
  | (.error e, s1) => (.stop e, s1)
  | (.ok es, s1) =>
    s1.overRight c t (es.map Elem.at_) fun s1 =>
      let tag (s : State) (e : Elem) : State :=
        let a := lineOf e.x.pa
        (((s.publishLine c.dev c.core a).force c.dev c.core a).enterA a op (c.R.det && op.exact)).recordAt c a (relLevel f)
      let s2 := es.foldl tag s1
      match es.find? fun e => s1.lossy s2 (lineOf e.x.pa) with
      | some e => (.stop (poisonStop e.va), s2)
      | none => (.ok [], s2)

/-- acctag (R337). -/
def execAcctag (f : Fields) (s : State) : Host.Outcome State Fault Refusal :=
  issue .acctag f (fun c s =>
    let op := (c.once s f.a).toNat
    if c.sel == 0 then s.finishIdle c
    else if 11 < op then s.trap c .operand 24
    else s.threads c f fun s t => s.acctagThread c f (memOpOf op) t) s

end Sys2Proof.Machine
end

