-- ==== Sys2Proof/Machine/Control.lean ====
section
/-! DEFINITION. Sys2Proof/Machine/Control.lean: the control instructions of group 0x0 but for trywait (R139 to R147), and the barrier state that exits act on (R286, R287) -/

namespace Sys2Proof.Machine

/-- Every thread of the path goes on, the selected ones to their targets (R141). -/
def State.branch (s : State) (c : Ctx) (target : Nat → Word) : State :=
  (s.goTo c fun t => if c.sel.getLsbD t then target t else c.p.pc + 1).completeAt c (c.p.last + 6)

/-- The PC that an immediate offset gives (R139). -/
def Ctx.relative (c : Ctx) (o : Operand) : Word := match o with | .imm v => c.p.pc + v.signExtend 32 | _ => c.p.pc

/-! ## rejoin (R142, R137) -/

/-- The paths that wait at a rejoin with this PC. -/
def Weft.waiting (w : Weft) (pc : Word) : List Path := w.paths.filter fun p => p.pc == pc && (match p.hold with | some h => h.why == .rejoin | none => false)

/-- A waiting path's mask is complete: every unexited thread it names waits at this PC. -/
def Weft.rejoinDone (w : Weft) (p : Path) : Bool :=
  match p.hold with
  | some h => h.why == .rejoin && (BitVec.ofNat 16 h.arg &&& ~~~w.exited) &&& ~~~(w.waiting p.pc).foldl (fun m q => m ||| q.mask) 0 == 0
  | none => false

/-- The first path that satisfies `q` replaced, the later ones that satisfy it dropped. -/
def oneFor (q : Path → Bool) (m : Path) : List Path → List Path
  | [] => []
  | p :: ps => if q p then m :: ps.filter (fun x => !q x) else p :: oneFor q m ps

/-- The paths that wait at a PC merged into one, which drains before it goes on (R137, R133). -/
def Weft.mergeAt (w : Weft) (pc : Word) : Weft :=
  let ps := w.waiting pc
  match ps with
  | [] => w
  | p0 :: _ =>
    let mask := ps.foldl (fun m q => m ||| q.mask) 0
    let last := ps.foldl (fun n q => max n q.last) 0
    let m : Path := { p0 with mask := mask, pc := pc + 1, hold := none, age := BitVec.ofNat 8 (ps.foldl (fun n q => max n q.age.toNat) 0), last := last, drain := last + 6 }
    { w with paths := oneFor (fun p => p.pc == pc && (match p.hold with | some h => h.why == .rejoin | none => false)) m w.paths,
             young := w.young.map fun y => { y with mask := y.mask &&& ~~~mask } }

/-- Every rejoin whose mask is complete merged (R142); `n` bounds the paths. -/
def State.mergeWeft (s : State) (g w : Nat) : Nat → State
  | 0 => s
  | n + 1 =>
    match s.weft? g w with
    | none => s
    | some wf => match wf.paths.find? fun p => wf.rejoinDone p with
      | none => s
      | some p =>
        let outs := (wf.waiting p.pc).filterMap fun q => q.hold.map fun h => h.out
        ((outs.foldl (fun s o => s.later s.clk (.instrComplete g w o)) s).modWeft g w fun x => x.mergeAt p.pc).mergeWeft g w n

/-! ## Barriers (R286, R287) -/

/-- Wefts of a list of groups whose threads have all exited. -/
def exitedWefts (gs : List Group) : List (Nat × Nat) := gs.flatMap fun G => (G.wefts.filter fun w => w.exited == 0xFFFF).map fun w => (G.uid, w.wid)

/-- The phase completes once enough parties have arrived; wefts that have exited count at once in the next (R286, R287) (DEDUCED, assumption log 28). -/
def Barrier.complete (b : Barrier) (gone : List (Nat × Nat)) : Barrier :=
  if b.expect ≤ b.arrived then
    { b with phase := b.phase + 1, arrived := gone.length, here := gone, party := none, past := (b.past ++ b.carry).eraseDups, carry := [] }
  else b

/-- A party counted in the phase, at most once. -/
def Barrier.join (b : Barrier) (who : Nat × Nat) : Barrier :=
  if b.here.contains who then b else { b with arrived := b.arrived + 1, here := b.here ++ [who] }

/-- A party arrives. -/
def Barrier.arrive (b : Barrier) (who : Nat × Nat) (gone : List (Nat × Nat)) : Barrier :=
  if b.here.contains who then b else (b.join who).complete gone

/-- The groups of a unit. -/
def State.partyGroups (s : State) (P : Party) : List Group := P.members.filterMap s.group?

/-- The wefts of a unit that count as arrived in every phase: exited ones and those of retired members (R287). -/
def State.partyGone (s : State) (P : Party) : List (Nat × Nat) := P.gone ++ exitedWefts (s.partyGroups P)

/-- An exited weft arrives at every barrier of its group, its cluster group and its grid (R287); at a cluster barrier whose phase no `cbar` has
begun, the number of parties is not yet known (R290). -/
def State.exitArrives (s : State) (g w : Nat) : State :=
  match s.group? g with
  | none => s
  | some G =>
    let s1 := s.modGroup g fun G => { G with bars := G.bars.map fun b => b.arrive (g, w) (exitedWefts [G]) }
    let onParty (s : State) (u : Option Nat) (grid : Bool) : State := match u with
      | none => s
      | some u => match s.party? u with
        | none => s
        | some P =>
          let gone := s.partyGone P
          s.modParty u fun P => if grid then { P with gbar := P.gbar.arrive (g, w) gone } else { P with cbars := P.cbars.map fun b => if b.party.isNone then b.join (g, w) else b.arrive (g, w) gone }
    onParty (onParty s1 G.unit false) G.grid true

/-! ## exit (R143) -/

/-- What follows when the threads of a weft have exited: its blocks are released, and it arrives everywhere (R113, R287). -/
def State.weftExited (s : State) (g w : Nat) : State :=
  match s.weft? g w with
  | none => s
  | some wf =>
    if wf.exited == 0xFFFF then (s.modWeft g w fun x => { x with held := 0 }).exitArrives g w else s

/-- exit of the selected threads: no path holds them any longer, and the path's others go on (R143). -/
def State.exitThreads (s : State) (c : Ctx) : State :=
  let s1 := s.modW c fun w =>
    { w with exited := w.exited ||| c.sel,
             paths := ((modIf (fun p => p.mask.getLsbD c.r.t) (fun p => { p with pc := p.pc + 1, hold := none }) w.paths).map fun p =>
               { p with mask := p.mask &&& ~~~c.sel }).filter fun p => p.mask != 0 }
  ((s1.completeAt c (c.p.last + 6)).mergeWeft c.r.g c.r.w c.wf.paths.length).weftExited c.r.g c.r.w

/-! ## wait (R144) -/

/-- The two limits of an immediate of `wait`. -/
def waitLimits : Operand → Nat × Nat
  | .imm v => (v.toNat % 64, v.toNat / 64 % 64)
  | _ => (63, 63)

/-- The counters are within the limits. -/
def waitOk (w : Weft) (f : Fields) : Bool :=
  let a := waitLimits f.a
  let b := waitLimits f.b
  w.ld ≤ a.1 && w.st ≤ a.2 && w.cp ≤ b.1 && w.tl ≤ b.2

/-! ## The instructions -/

/-- nop (R146). -/
def execNop (f : Fields) (s : State) : Host.Outcome State Fault Refusal := issue .nop f (fun c s => s.finish .nop c []) s
/-- bra (R141). -/
def execBra (f : Fields) (s : State) : Host.Outcome State Fault Refusal := issue .bra f (fun c s => s.branch c fun _ => c.relative f.a) s
/-- brx (R141). -/
def execBrx (f : Fields) (s : State) : Host.Outcome State Fault Refusal := issue .brx f (fun c s => s.branch c fun t => c.val s f.a t) s
/-- call (R141). -/
def execCall (f : Fields) (s : State) : Host.Outcome State Fault Refusal := issue .call f (fun c s => (s.writeNow c (c.laneWrites f.d fun _ => (c.p.pc + 1).toNat)).branch c fun _ => c.relative f.a) s
/-- callx (R141): the target is read before the link is written. -/
def execCallx (f : Fields) (s : State) : Host.Outcome State Fault Refusal := issue .callx f (fun c s => (s.writeNow c (c.laneWrites f.d fun _ => (c.p.pc + 1).toNat)).branch c fun t => c.val s f.a t) s
/-- ret (R141). -/
def execRet (f : Fields) (s : State) : Host.Outcome State Fault Refusal := issue .ret f (fun c s => s.branch c fun t => c.val s f.a t) s
/-- rejoin (R142): the path waits until every unexited thread that its mask names, read at its issue, waits at this PC. -/
def execRejoin (f : Fields) (s : State) : Host.Outcome State Fault Refusal :=
  issue .rejoin f (fun c s =>
    if c.sel == 0 then s.finishIdle c
    else (s.holdP c .rejoin (if c.heldAs .rejoin then c.arg else (c.once s f.a).toNat % 65536) 0).mergeWeft c.r.g c.r.w c.wf.paths.length) s
/-- exit (R143). -/
def execExit (f : Fields) (s : State) : Host.Outcome State Fault Refusal := issue .exit f (fun c s => if c.sel == 0 then s.finishIdle c else s.exitThreads c) s
/-- wait (R144); with a TL limit it acquires the weft's own matrix operations that have completed (R246, R317). -/
def execWait (f : Fields) (s : State) : Host.Outcome State Fault Refusal :=
  issue .wait f (fun c s =>
    if c.sel == 0 then s.finishIdle c
    else if waitOk c.wf f then
      (if (waitLimits f.b).2 < 63 then s.modW c fun w => { w with acq := w.acq ++ w.own.map (fun x => x.1), own := [] } else s).finishLate c []
    else s.holdP c .wait 0 0) s
/-- sleep (R146): held until n cycles after its issue; a negative immediate reads as its unsigned 32-bit value (DESIGN CHOICE, assumption log 70). -/
def execSleep (f : Fields) (s : State) : Host.Outcome State Fault Refusal :=
  issue .sleep f (fun c s =>
    if c.sel == 0 then s.finishIdle c
    else
      let due := if c.heldAs .sleep then c.arg else s.clk + (c.once s f.a).toNat
      if c.heldAs .sleep && due ≤ s.clk then s.finishLate c [] else s.holdP c .sleep due 0) s
/-- yield (R146): the lane prefers another path for the next slot (R131). -/
def execYield (f : Fields) (s : State) : Host.Outcome State Fault Refusal := issue .yield f (fun c s => s.finish .yield c []) s
/-- brk (R147): a trap if the context's DBGEN is 1. -/
def execBrk (f : Fields) (s : State) : Host.Outcome State Fault Refusal :=
  issue .brk f (fun c s =>
    if c.sel != 0 && (s.ctx c.dev c.ctx).dbgen then s.trap c .operand 13 0 0 (c.once s f.a &&& 0xFFF) else s.finishIdle c) s
/-- trap (R147): USER_TRAP, with the selected threads as its performed mask (DEDUCED, assumption log 30). -/
def execTrap (f : Fields) (s : State) : Host.Outcome State Fault Refusal :=
  issue .trap f (fun c s => if c.sel == 0 then s.finishIdle c else s.trap c .operand 12 c.sel 0 (c.once s f.a &&& 0xFFF)) s
/-- loop (R141): the counter is lowered once per path, a result of fixed latency (DEDUCED, assumption log 31). -/
def execLoop (f : Fields) (s : State) : Host.Outcome State Fault Refusal :=
  issue .loop f (fun c s =>
    if c.sel == 0 then s.finishIdle c
    else
      let n := c.once s f.d - 1
      (s.writeNow c (c.laneWrites f.d fun _ => n.toNat)).branch c fun _ => if n != 0 then c.relative f.a else c.p.pc + 1) s

/-- SLEEP_EXPIRY (R146): a sleeping path whose time has come goes on. -/
def execSleepExpiry (r : PathRef) (s : State) : Host.Outcome State Fault Refusal :=
  .next (match s.ctxAt r with
    | some c => if c.heldAs .sleep && c.arg ≤ s.clk then s.finishLate c [] else s
    | none => s)
/-- INSTR_COMPLETE (R127 to R129). -/
def execInstrComplete (g w n : Nat) (s : State) : Host.Outcome State Fault Refusal := .next (s.instrComplete g w n)

end Sys2Proof.Machine
end

