-- ==== Sys2Proof/Machine/Barriers.lean ====
section
/-! DEFINITION. Sys2Proof/Machine/Barriers.lean: barriers and the fence of group 0xD (R286 to R293) -/

namespace Sys2Proof.Machine

/-! ## Arrival -/

/-- A release of the issuer at a level: the core's epoch rises at levels 1 and 2 (R309, R310). -/
def State.releaseAt (s : State) (c : Ctx) (level : Nat) : State :=
  let s1 := s.release c.dev c.core level
  if level ≤ 2 then s1.raiseEpoch c.dev c.core else s1

/-- The party that the issuer is. -/
def Ctx.who (c : Ctx) : Nat × Nat := (c.r.g, c.r.w)

/-- The arrival of the issuer with what it releases to the tiles' other users (R246, R287). -/
def Barrier.arriveWith (b : Barrier) (who : Nat × Nat) (acq : List Nat) (gone : List (Nat × Nat)) : Barrier :=
  Barrier.arrive { b with carry := (b.carry ++ acq).eraseDups } who gone

/-- What an arrival of the issuer releases: what it has acquired, and its own completed tile reads and writes. -/
def Ctx.acq (c : Ctx) (s : State) : List Nat := let w := (s.weft? c.r.g c.r.w).getD c.wf; w.acq ++ w.moved

/-- A wait for the end of phase `p` of barrier `n`: held while it lasts, then complete as an acquire. -/
def State.awaitPhase (s : State) (c : Ctx) (why : Why) (p n : Nat) (b : Barrier) : State :=
  if b.phase.toNat == p then s.holdP c why p 0 (BitVec.ofNat 64 n)
  else (s.acquirePast c b).finishLate c []

/-- The number of the barrier that an instruction names: the one that it has waited on since its issue, or its source. -/
def Ctx.barNo (c : Ctx) (s : State) (why : Why) (o : Operand) : Nat :=
  match c.hold with
  | some h => if h.why == why then h.va.toNat else (c.once s o).toNat
  | none => (c.once s o).toNat

/-! ## Group barriers (R289) -/

/-- A group barrier as it stands. -/
def State.bar (s : State) (c : Ctx) (n : Nat) : Barrier := (((s.group? c.r.g).getD c.G).bars.getD n {})

/-- The issuer arrives at a group barrier, with release at group scope. -/
def State.arriveGroup (s : State) (c : Ctx) (n : Nat) : State :=
  let gone := exitedWefts [(s.group? c.r.g).getD c.G]
  let acq := c.acq s
  (s.releaseAt c 1).modG c fun G => { G with bars := modAt (fun b => b.arriveWith c.who acq gone) n G.bars }

/-- barv (R289). -/
def execBarv (f : Fields) (s : State) : Host.Outcome State Fault Refusal :=
  issue .barv f (fun c s =>
    let n := (c.once s f.a).toNat
    if c.sel == 0 then s.finishIdle c
    else if 15 < n then s.trap c .operand 11
    else (s.arriveGroup c n).finishLate c (c.laneWrites f.d fun _ => (s.bar c n).phase.toNat)) s
/-- barw (R289). -/
def execBarw (f : Fields) (s : State) : Host.Outcome State Fault Refusal :=
  issue .barw f (fun c s =>
    let n := c.barNo s .barw f.a
    if c.sel == 0 then s.finishIdle c
    else if 15 < n then s.trap c .operand 11
    else if c.heldAs .barw then s.awaitPhase c .barw c.arg n (s.bar c n)
    else
      let s1 := s.arriveGroup c n
      s1.awaitPhase c .barw (s.bar c n).phase.toNat n (s1.bar c n)) s
/-- bars (R289): a phase that already has enough arrivals completes. -/
def execBars (f : Fields) (s : State) : Host.Outcome State Fault Refusal :=
  issue .bars f (fun c s =>
    let n := (c.once s f.a).toNat
    let k := (c.once s f.b).toNat
    let gone := exitedWefts [(s.group? c.r.g).getD c.G]
    if c.sel == 0 then s.finishIdle c
    else if 15 < n then s.trap c .operand 11
    else if k == 0 || 33 < k then s.trap c .operand 22
    else (s.modG c fun G => { G with bars := modAt (fun b => Barrier.complete { b with expect := k } gone) n G.bars }).finishLate c []) s

/-! ## Cluster and grid barriers (R290, R291) -/

/-- The wefts of all the groups of a unit. -/
def State.partyWefts (s : State) (P : Party) : Nat := P.gone.length + (s.partyGroups P).foldl (fun n G => n + G.wefts.length) 0

/-- cbar (R290): the first arrival of a phase fixes its number of parties. -/
def execCbar (f : Fields) (s : State) : Host.Outcome State Fault Refusal :=
  issue .cbar f (fun c s =>
    let n := c.barNo s .cbar f.a
    let k := (c.once s f.b).toNat
    if c.sel == 0 then s.finishIdle c
    else if 3 < n then s.trap c .operand 11
    else if !c.heldAs .cbar && 1 < k then s.trap c .operand 22
    else match c.G.unit.bind s.party? with
      | none => s.trap c .operand 23
      | some P =>
        let b := P.cbars.getD n {}
        if c.heldAs .cbar then s.awaitPhase c .cbar c.arg n b
        else if (match b.party with | some x => x != k | none => false) || (c.isTreadle && k == 0) then s.trap c .operand 22
        else
          let gone := s.partyGone P
          let acq := c.acq s
          let expect := s.partyWefts P + k
          let s1 := (s.releaseAt c 2).modParty P.uid fun P =>
            { P with cbars := modAt (fun b => Barrier.arriveWith { b with party := some k, expect := expect } c.who acq gone) n P.cbars }
          match s1.party? P.uid with
          | some P1 => s1.awaitPhase c .cbar b.phase.toNat n (P1.cbars.getD n {})
          | none => s1) s
/-- gbar (R291). -/
def execGbar (f : Fields) (s : State) : Host.Outcome State Fault Refusal :=
  issue .gbar f (fun c s =>
    if c.sel == 0 then s.finishIdle c
    else match c.G.grid.bind s.party? with
      | none => s.trap c .operand 23
      | some P =>
        if c.heldAs .gbar then s.awaitPhase c .gbar c.arg 0 P.gbar
        else
          let gone := s.partyGone P
          let acq := c.acq s
          let s1 := (s.releaseAt c 2).modParty P.uid fun P => { P with gbar := P.gbar.arriveWith c.who acq gone }
          match s1.party? P.uid with
          | some P1 => s1.awaitPhase c .gbar P.gbar.phase.toNat 0 P1.gbar
          | none => s1) s

/-! ## fence (R293) -/

/-- fence (R293): `.acq` completes at once; `.rel` brings the earlier writes to the level of its scope, and later writes carry its release (R310) (DESIGN CHOICE, assumption log 45). -/
def execFence (f : Fields) (s : State) : Host.Outcome State Fault Refusal :=
  issue .fence f (fun c s =>
    let level := relLevel f
    if c.sel == 0 then s.finishIdle c
    else if level == 0 then s.finishLate c []
    else
      let s1 := (if c.heldAs .fence then s.release c.dev c.core level else s.releaseAt c level).modCore c.dev c.core fun x =>
        { x with fenced := level }
      if level == 3 && s1.reqs.any (fun r => r.msg.src == c.dev && r.msg.core == c.core) then s1.holdP c .fence 0 0 else s1.finishLate c []) s

end Sys2Proof.Machine
end

