-- ==== Sys2Proof/Machine/Code.lean ====
section
/-! DEFINITION. Sys2Proof/Machine/Code.lean: the code lines that ipf, ipin and iunpin name and their pins (R121, R122) -/

namespace Sys2Proof.Machine

/-- Every page of a code line of the issuer's segment translates to an executable mapping (R118, R121) (DEDUCED, assumption log 57). -/
def State.lineRuns (s : State) (c : Ctx) (l : Nat) : Bool :=
  let va := c.wf.seg + BitVec.ofNat 64 (192 * l)
  [va, va + 191].all fun x => canonical x && (match (s.translate c.dev c.ctx x).1 with | .ok t => pteX t.pte && (!pteSup t.pte || c.priv) | .error _ => false)

/-- The lines of the range that A and B name, without those that are skipped (R121). -/
def Ctx.codeLines (c : Ctx) (s : State) (f : Fields) : List Nat :=
  ((List.range (c.once s f.b).toNat).map fun k => (c.once s f.a).toNat / 16 + k).filter fun l => s.lineRuns c l

/-- The level is the cluster's cache. -/
def clusterLevel (f : Fields) : Bool := f.mod.getLsbD 0

/-- The pins of a level. -/
def State.pinsAt (s : State) (c : Ctx) (f : Fields) : List Pin :=
  if clusterLevel f then (s.cluster c.dev (c.core / 8)).pins else (s.core c.dev c.core).pins

/-- The pins of a level replaced. -/
def State.setPins (s : State) (c : Ctx) (f : Fields) (ps : List Pin) : State :=
  if clusterLevel f then s.modCluster c.dev (c.core / 8) fun x => { x with pins := ps } else s.modCore c.dev c.core fun x => { x with pins := ps }

/-- The pin of a line of the issuer's segment. -/
def Ctx.isPin (c : Ctx) (l : Nat) (p : Pin) : Bool := p.seg == c.wf.seg && p.ctx == c.ctx && p.line == l

/-- The number of lines that a level may pin: half of it. -/
def pinLimit (f : Fields) : Nat := if clusterLevel f then 2048 else 128

/-- What the three instructions share: no selected thread, and LINE_COUNT. -/
def State.onLines (s : State) (c : Ctx) (f : Fields) (go : List Nat → State) : State :=
  if c.sel == 0 then s.finishIdle c
  else if 4096 < (c.once s f.b).toNat then s.trap c .operand 10
  else go (c.codeLines s f)

/-- ipf (R122): the fill changes timing only. -/
def execIpf (f : Fields) (s : State) : Host.Outcome State Fault Refusal :=
  issue .ipf f (fun c s => s.onLines c f fun _ => s.finishLate c []) s
/-- ipin (R122): all lines of the range are pinned, or none. -/
def execIpin (f : Fields) (s : State) : Host.Outcome State Fault Refusal :=
  issue .ipin f (fun c s => s.onLines c f fun ls =>
    let ps := s.pinsAt c f
    let new := ls.filter fun l => !ps.any (c.isPin l)
    if pinLimit f < ps.length + new.length then s.finishLate c (c.laneWrites f.d fun _ => 0)
    else
      let up (ps : List Pin) (l : Nat) : List Pin := upsert (c.isPin l) { seg := c.wf.seg, ctx := c.ctx, line := l, count := 0 } (fun p => { p with count := p.count + 1 }) ps
      (s.setPins c f (ls.foldl up ps)).finishLate c (c.laneWrites f.d fun _ => 1)) s
/-- iunpin (R122): each pin count of the range above zero falls by one. -/
def execIunpin (f : Fields) (s : State) : Host.Outcome State Fault Refusal :=
  issue .iunpin f (fun c s => s.onLines c f fun ls =>
    let down (ps : List Pin) (l : Nat) : List Pin := modIf (c.isPin l) (fun p => { p with count := p.count - 1 }) ps
    (s.setPins c f ((ls.foldl down (s.pinsAt c f)).filter fun p => 0 < p.count)).finishLate c []) s

end Sys2Proof.Machine
end

