-- ==== Sys2Proof/Machine/Floating.lean ====
section
/-! DEFINITION. Sys2Proof/Machine/Floating.lean: the floating-point instructions of group 0x4 (R168 to R171) -/

namespace Sys2Proof.Machine

/-- The float type, the flush and the rounding of a group 0x4 or 0x6 word (R170, R179). -/
def modFlt (f : Fields) : FltTy × Bool × Rounding := (fltTy (modHi f.mod), modBit2 f.mod, roundingOf (modLo2 f.mod))

/-- The low and the high register of an element. -/
def splitElem (x : Nat) : Word × Word := (BitVec.ofNat 32 x, BitVec.ofNat 32 (x / 2 ^ 32))
/-- The two registers as one number. -/
def joinElem (x : Word × Word) : Nat := x.1.toNat + 2 ^ 32 * x.2.toNat

/-- A group 0x4 or 0x6 instruction on elements of one register, or on both parts of `.c32` (R171, R180, R181). -/
def State.fltBlock (s : State) (i : Form) (f : Fields) (c : Ctx) : State :=
  let (ty, ftz, rm) := modFlt f
  let w := if ty == .c32 then 2 else 1
  let e := c.elem s (fltWiden ty) w
  let g (a b d : Word) : Word := floatElem i (if ty == .c32 then .f32 else ty) rm ftz a b d
  s.finish i c (c.blockWrites f w fun t r j =>
    let a := splitElem (e f.a t r j)
    let b := splitElem (e f.b t r j)
    let d := splitElem (e f.d t r j)
    if ty == .c32 then joinElem (g a.1 b.1 d.1, g a.2 b.2 d.2) else (g a.1 b.1 d.1).toNat)

/-- fadd (R171). -/
def execFadd (f : Fields) (s : State) : Host.Outcome State Fault Refusal := issue .fadd f (fun c s => s.fltBlock .fadd f c) s
/-- fsub (R171). -/
def execFsub (f : Fields) (s : State) : Host.Outcome State Fault Refusal := issue .fsub f (fun c s => s.fltBlock .fsub f c) s
/-- fmul (R171). -/
def execFmul (f : Fields) (s : State) : Host.Outcome State Fault Refusal := issue .fmul f (fun c s => s.fltBlock .fmul f c) s
/-- fma (R171). -/
def execFma (f : Fields) (s : State) : Host.Outcome State Fault Refusal := issue .fma f (fun c s => s.fltBlock .fma f c) s
/-- fmin (R171). -/
def execFmin (f : Fields) (s : State) : Host.Outcome State Fault Refusal := issue .fmin f (fun c s => s.fltBlock .fmin f c) s
/-- fmax (R171). -/
def execFmax (f : Fields) (s : State) : Host.Outcome State Fault Refusal := issue .fmax f (fun c s => s.fltBlock .fmax f c) s
/-- fabs (R171). -/
def execFabs (f : Fields) (s : State) : Host.Outcome State Fault Refusal := issue .fabs f (fun c s => s.fltBlock .fabs f c) s
/-- fneg (R171). -/
def execFneg (f : Fields) (s : State) : Host.Outcome State Fault Refusal := issue .fneg f (fun c s => s.fltBlock .fneg f c) s
/-- fcopysign (R171). -/
def execFcopysign (f : Fields) (s : State) : Host.Outcome State Fault Refusal := issue .fcopysign f (fun c s => s.fltBlock .fcopysign f c) s
/-- frnd (R171). -/
def execFrnd (f : Fields) (s : State) : Host.Outcome State Fault Refusal := issue .frnd f (fun c s => s.fltBlock .frnd f c) s
/-- fsat (R171). -/
def execFsat (f : Fields) (s : State) : Host.Outcome State Fault Refusal := issue .fsat f (fun c s => s.fltBlock .fsat f c) s
/-- fdot2 (R171): the products of two halves and an FP32 addend. -/
def execFdot2 (f : Fields) (s : State) : Host.Outcome State Fault Refusal :=
  issue .fdot2 f (fun c s =>
    let (ty, ftz, rm) := modFlt f
    let e (o : Operand) (t r j : Nat) : Word := BitVec.ofNat 32 (c.elem s (fltWiden ty) 1 o t r j)
    s.finish .fdot2 c (c.blockWrites f 1 fun t r j => (fdot2Elem ty rm ftz (e f.a t r j) (e f.b t r j) (e f.d t r j)).toNat)) s
/-- fscale (R171): B is an integer. -/
def execFscale (f : Fields) (s : State) : Host.Outcome State Fault Refusal :=
  issue .fscale f (fun c s =>
    let (ty, ftz, rm) := modFlt f
    let m := if ty == .f32 then Widen.int else .packed
    s.finish .fscale c (c.blockWrites f 1 fun t r j =>
      (fscaleElem ty rm ftz (BitVec.ofNat 32 (c.elem s (fltWiden ty) 1 f.a t r j)) (BitVec.ofNat 32 (c.elem s m 1 f.b t r j))).toNat)) s

end Sys2Proof.Machine
end

