-- ==== Sys2Proof/Machine/Convert.lean ====
section
/-! DEFINITION. Sys2Proof/Machine/Convert.lean: the conversions of group 0x5 (R173 to R178) -/

namespace Sys2Proof.Machine

/-- How cvt reads an immediate (R168, R174). -/
def cvtWiden (code : Nat) : Widen :=
  match code with
  | 0 | 1 | 4 | 5 => .int
  | 10 | 11 | 15 => .fltPair .f16
  | 12 | 13 | 14 => .fltPair .bf16
  | _ => .flt .f32

/-- cvt (R174). -/
def execCvt (f : Fields) (s : State) : Host.Outcome State Fault Refusal :=
  issue .cvt f (fun c s =>
    let code := (f.mod.extractLsb' 2 4).toNat
    let w := if 4 ≤ code && code ≤ 7 then 2 else 1
    let e (o : Operand) (t r j : Nat) : Word × Word := splitElem (c.elem s (cvtWiden code) w o t r j)
    s.finish .cvt c (c.blockWrites f w fun t r j => joinElem (cvtElem code (roundingOf (modLo2 f.mod)) (e f.a t r j) (e f.b t r j).1))) s

/-- A conversion of one register with a second source. -/
def State.cvtBlock (s : State) (i : Form) (f : Fields) (c : Ctx) (ma mb : Widen) (g : Word → Word → Nat) : State :=
  s.finish i c (c.blockWrites f 1 fun t r j => g (BitVec.ofNat 32 (c.elem s ma 1 f.a t r j)) (BitVec.ofNat 32 (c.elem s mb 1 f.b t r j)))

/-- tenc (R175). -/
def execTenc (f : Fields) (s : State) : Host.Outcome State Fault Refusal := issue .tenc f (fun c s => s.cvtBlock .tenc f c (.flt .f32) .int fun a _ => if modHi f.mod == 1 then tenc6 a else tenc8 a) s
/-- tdec (R175). -/
def execTdec (f : Fields) (s : State) : Host.Outcome State Fault Refusal := issue .tdec f (fun c s => s.cvtBlock .tdec f c .int .int fun a k => (tdecElem (modHi f.mod == 1) a k).toNat) s
/-- The cell side of xcvt and kcvt: the registers of an element as words (R176). -/
def Ctx.cellWords (c : Ctx) (s : State) (w : Nat) (o : Operand) (t i j : Nat) : List Word :=
  match o with
  | .vec n => (List.range w).map fun x => c.v s (n.toNat + 16 * i + j + x) t
  | _ => []
/-- An FP32 number of a register with `.ftz` on its input. -/
def flushed (ftz : Bool) (x : Word) : Num := Fmt.f32.decode ftz x.toNat

/-- xcvt (R176). -/
def execXcvt (f : Fields) (s : State) : Host.Outcome State Fault Refusal :=
  issue .xcvt f (fun c s =>
    let (_, ftz, rm) := modFlt f
    s.finish .xcvt c (c.blockWrites f 4 fun t r j =>
      let ws := c.cellWords s 4 f.a t r j
      if modHi f.mod == 6 then Fmt.f32.encode rm ftz (x128Value (BitVec.ofNat 128 (joinWords ws)))
      else (x128Of rm (flushed ftz (ws.getD 0 0))).toNat)) s
/-- kcvt (R176). -/
def execKcvt (f : Fields) (s : State) : Host.Outcome State Fault Refusal :=
  issue .kcvt f (fun c s =>
    let (_, ftz, rm) := modFlt f
    let w := if modHi f.mod == 6 then 2 else 4
    let sum (hi lo : Word) : Nat := Fmt.f32.encode rm ftz (Num.sum rm [flushed ftz hi, flushed ftz lo])
    s.finish .kcvt c (c.blockWrites f w fun t r j =>
      let ws := c.cellWords s w f.a t r j
      if w == 2 then sum (ws.getD 0 0) (ws.getD 1 0)
      else sum (ws.getD 0 0) (ws.getD 1 0) + 2 ^ 32 * sum (ws.getD 2 0) (ws.getD 3 0))) s
/-- e8enc (R177). -/
def execE8enc (f : Fields) (s : State) : Host.Outcome State Fault Refusal := issue .e8enc f (fun c s => s.cvtBlock .e8enc f c (.flt .f32) .int fun a _ => e8Enc (roundingOf (modLo2 f.mod)) (flushed (modBit2 f.mod) a)) s
/-- pack (R178) (DEDUCED, assumption log 24). -/
def execPack (f : Fields) (s : State) : Host.Outcome State Fault Refusal := issue .pack f (fun c s => s.cvtBlock .pack f c .int .int fun a b => (packElem (modHi f.mod) a b).toNat) s
/-- unpack (R178). -/
def execUnpack (f : Fields) (s : State) : Host.Outcome State Fault Refusal := issue .unpack f (fun c s => s.cvtBlock .unpack f c .int .int fun a k => (unpackElem (modHi f.mod) a k).toNat) s

end Sys2Proof.Machine
end

