-- ==== Sys2Proof/Machine/Fabric.lean ====
section
/-! DEFINITION. Sys2Proof/Machine/Fabric.lean: the messages of the fabric and of the coherence protocol, links and their failures, and mcast
(R256 to R271, R310 to R315, R323 to R327, R435) -/

namespace Sys2Proof.Machine

/-! ## Stores and deposits at their home (R263, R267, R268, R323) -/

/-- No route reaches the destination of a message. -/
def State.cut (s : State) (m : Msg) : Bool := !s.reaches m.src m.dst

/-- STORE (R263 to R268): a request applied at most once, in the order of its line, or refused, or failed for want of a route; the answer is
sent again to a copy of it. -/
def State.storeArrives (s : State) (m : Msg) : State :=
  if s.cut m then s.giveUp m 3
  else match s.homeStore m with
    | (.wait, s1) => s1.later (s.clk + 1) (.store m)
    | (.denied, s1) => s1.failReq m .memoryAccess 15
    | (.done, s1) => s1.later s.clk (.storeAck m)

/-- STORE. -/
def execStore (m : Msg) (s : State) : Host.Outcome State Fault Refusal := .next (s.storeArrives m)

/-- ACCRUE_DEPOSIT (R323, R324): deposits accepted by their holder at most once, in the order of their line. -/
def State.depositArrives (s : State) (m : Msg) : State :=
  if s.cut m then s.giveUp m 3
  else match s.homeStore m with
    | (.wait, s1) => s1.later (s.clk + 1) (.accrueDeposit m)
    | (.denied, s1) => s1.failReq m .memoryAccess 15
    | (.done, s1) => s1.later s.clk (.storeAck m)

/-- ACCRUE_DEPOSIT. -/
def execAccrueDeposit (m : Msg) (s : State) : Host.Outcome State Fault Refusal := .next (s.depositArrives m)

/-- ATOMIC (R263, R267, R268): the line's value before the request is the answer, and a copy of the request gets the same answer again; a poisoned line gives
none (R416). -/
def execAtomic (m : Msg) (s : State) : Host.Outcome State Fault Refusal :=
  .next (
    if s.done.any fun x => sameMsg x.1 m then s.later s.clk (.data m)
    else if s.earlierReq m then s.later (s.clk + 1) (.atomic m)
    else if m.src != m.dst && !s.remoteAllowed m.ctx m.line then s.failReq m .memoryAccess 15
    else
      let s1 := (s.force m.src m.core m.line).mergeLine m.line
      if s1.poison.contains m.line then s1.failReq m .uncorrectable 1
      else
        let old := s1.bytes m.line 128
        let s2 := (s1.applyConts m.src m.core m.line m.conts).uncache m.line
        ({ s2 with done := s2.done ++ [(m, old)] } : State).later s.clk (.data m))

/-- STORE_ACK (R315): the source's request is over. -/
def execStoreAck (m : Msg) (s : State) : Host.Outcome State Fault Refusal := .next (s.endReq m)
/-- DATA (R260, R263): the answer has arrived, and the home need not keep it. -/
def execData (m : Msg) (s : State) : Host.Outcome State Fault Refusal := .next (s.endReq m)

/-! ## Copies of lines (R266, R310, R314) -/

end Sys2Proof.Machine

namespace Sys2Proof

/-- The holder of a copy that a message names: its device and die (R266). -/
def Msg.holder (m : Msg) : Nat := 4 * m.src + m.die

end Sys2Proof

namespace Sys2Proof.Machine

/-- A line made ready to be handed out: releases outside the reader's reach are published and an Accrue episode is merged (R311, R324). -/
def State.handOut (s : State) (m : Msg) : State := (s.force m.src m.core m.line).mergeLine m.line

/-- The answer to a request kept for its copies, and sent. -/
def State.answer (s : State) (m : Msg) : State :=
  let s1 : State := if s.done.any fun x => sameMsg x.1 m then s else { s with done := s.done ++ [(m, s.bytes m.line 128)] }
  s1.later s.clk (.data m)

/-- READ_SHARED (R266, R268): the holder joins the sharers; a dirty line keeps its owner (DESIGN CHOICE, assumption log 47). -/
def execReadShared (m : Msg) (s : State) : Host.Outcome State Fault Refusal :=
  .next (
    if s.done.any fun x => sameMsg x.1 m then s.answer m
    else if s.earlierReq m then s.later (s.clk + 1) (.readShared m)
    else ((s.handOut m).modLine m.line fun L =>
      { L with st := if L.owner.isSome then .o else .s, sharers := if L.sharers.contains m.holder then L.sharers else L.sharers ++ [m.holder] }).answer m)

/-- Every other holder's copy invalidated (R266): one message to each. -/
def State.invalidateOthers (s : State) (m : Msg) : State :=
  let L := s.line m.line
  let others := ((match L.owner with | some o => [o] | none => []) ++ L.sharers).eraseDups.filter (· != m.holder)
  others.foldl (fun s h => s.later s.clk (.invalidate { m with pos := h })) s

/-- The holder becomes the owner. -/
def State.own (s : State) (m : Msg) : State :=
  (s.invalidateOthers m).modLine m.line fun L => { L with st := .m, owner := some m.holder, sharers := [] }

/-- READ_OWN (R266, R268). -/
def execReadOwn (m : Msg) (s : State) : Host.Outcome State Fault Refusal :=
  .next (
    if s.done.any fun x => sameMsg x.1 m then s.answer m
    else if s.earlierReq m then s.later (s.clk + 1) (.readOwn m)
    else ((s.handOut m).own m).answer m)

/-- UPGRADE (R314): a sharer becomes the owner; one whose copy has been invalidated meanwhile is answered as by READ_OWN, with the line as it now
stands. -/
def execUpgrade (m : Msg) (s : State) : Host.Outcome State Fault Refusal :=
  .next (
    if s.done.any fun x => sameMsg x.1 m then s.answer m
    else if s.earlierReq m then s.later (s.clk + 1) (.upgrade m)
    else if (s.line m.line).sharers.contains m.holder then (s.own m).answer m
    else ((s.handOut m).own m).answer m)

/-- INVALIDATE (R266): the copy of the holder `pos` is gone, and the home is told. -/
def execInvalidate (m : Msg) (s : State) : Host.Outcome State Fault Refusal :=
  .next ((s.modLine m.line fun L => { L with sharers := L.sharers.filter (· != m.pos) }).later s.clk (.invAck m))

/-- INV_ACK (R260): the home no longer counts the holder `pos` among the sharers. -/
def execInvAck (m : Msg) (s : State) : Host.Outcome State Fault Refusal :=
  .next (s.modLine m.line fun L =>
    let L1 := { L with sharers := L.sharers.filter (· != m.pos) }
    if L1.owner.isNone && L1.sharers.isEmpty && L1.st == .s then { L1 with st := .i } else L1)

/-- WRITEBACK (R260, R267): a dirty line's bytes reach their home, and its holder no longer owns it. -/
def execWriteback (m : Msg) (s : State) : Host.Outcome State Fault Refusal :=
  .next (
    if m.src != m.dst && !s.remoteAllowed m.ctx m.line then s
    else (s.applyConts m.src m.core m.line m.conts).modLine m.line fun L =>
      if L.owner == some m.holder then { L with owner := none, st := if L.st == .a then .a else if L.sharers.isEmpty then .i else .s } else L)

/-- FORCE_PUBLISH (R311): the holder (device `dst`, core) publishes at level 3 what it issued up to the epoch, and its records up to it are cleared. -/
def execForcePublish (m : Msg) (s : State) : Host.Outcome State Fault Refusal :=
  .next (
    let s1 := ((s.publishAll m.dst m.core).drain m.dst).clearRecs m.dst
    { s1 with lines := s1.lines.map fun L =>
        { L with recs := L.recs.filter fun r => !(r.dev == m.dst && r.core == m.core && (m.epoch - r.epoch).toNat < 2 ^ 15) } })

/-- NOT_READY (R349): the core sends its `adld` again after 2,048 cycles. -/
def execNotReady (m : Msg) (s : State) : Host.Outcome State Fault Refusal :=
  .next (match s.ctxAt m.path with
    | some c => if c.heldAs .adld then s.later (s.clk + 2048) (.adldRetry m.path) else s
    | none => s)

/-! ## Merges (R325 to R327) -/

/-- MERGE_REQ (R325): the holder `pos` closes its partial and returns it. -/
def execMergeReq (m : Msg) (s : State) : Host.Outcome State Fault Refusal :=
  .next (
    if (s.line m.line).st != .a then s
    else (s.modLine m.line fun L => { L with merging := some (L.merging.getD s.clk) }).later s.clk (.mergeData m))

/-- MERGE_DATA (R325): the home combines the partials once it has them all. -/
def execMergeData (m : Msg) (s : State) : Host.Outcome State Fault Refusal :=
  .next (
    let L := s.line m.line
    if L.st != .a || L.merging.isNone then s
    else
      let replies := if L.replies.contains m.pos then L.replies else L.replies ++ [m.pos]
      if L.holders.all fun h => replies.contains h.pos then s.mergeLine m.line
      else s.modLine m.line fun L => { L with replies })

/-- ACCRUE_EVICT (R326): the home keeps the partial for its position, which the loss of its holder takes no more. -/
def execAccrueEvict (m : Msg) (s : State) : Host.Outcome State Fault Refusal :=
  .next (
    if (s.line m.line).st != .a then s
    else s.modLine m.line fun L => { L with holders := modIf (fun h => h.pos == m.pos) (fun h => { h with home := true }) L.holders })

/-! ## Resends (R262, R264, R265) -/

/-- The timeout of a request: that of the narrowest width that its route has had since it was sent (R265). -/
def State.timeoutOf (s : State) (r : Req) : Nat := 262144 * 2 ^ max r.width (s.widthOf r.route)

/-- The widths that the routes of requests have come to, which their timeouts keep (R265). -/
def State.latchWidths (s : State) : State := { s with reqs := s.reqs.map fun r => { r with width := max r.width (s.widthOf r.route) } }

/-- A request sent again whole, on the route that its line has now, whose width its timeout then takes (R259, R265). -/
def State.resend (s : State) (m : Msg) (f : Req → Req) : State :=
  let again (r : Req) : Req :=
    let route := (s.route m.src m.dst m.line).getD []
    { f r with route, width := s.widthOf route }
  ({ s with reqs := modIf (fun r => sameMsg r.msg m) again s.reqs } : State).later s.clk (requestOf m)

/-- A message whose tag has failed comes to nothing and is resent, until its tag has failed eight times in a row (R262, R264). -/
def State.nacked (s : State) (m : Msg) : State :=
  match s.reqs.find? fun r => sameMsg r.msg m with
  | none => s
  | some r => if 7 ≤ r.bad then s.giveUp r.msg 2 else (s.dropCopies r.msg).resend r.msg fun r => { r with bad := r.bad + 1 }

/-- NACK (R262, R264). -/
def execNack (m : Msg) (s : State) : Host.Outcome State Fault Refusal := .next (s.nacked m)

/-- The response timeout of a request has run out. -/
def State.overdue (s : State) (r : Req) : Bool := r.at_ + s.timeoutOf r ≤ s.clk

/-- REQUEST_TIMEOUT (R264): the request is resent, and fails when it has been sent four times. -/
def execRequestTimeout (dev die dst : Nat) (mseq : Word) (s : State) : Host.Outcome State Fault Refusal :=
  .next (match s.reqs.find? fun r => r.msg.src == dev && r.msg.die == die && r.msg.dst == dst && r.msg.mseq == mseq with
    | none => s
    | some r =>
      if !s.overdue r then s
      else if 4 ≤ r.tries then s.giveUp r.msg 1
      else s.resend r.msg fun r => { r with tries := r.tries + 1, at_ := s.clk, bad := 0 })

/-! ## Links (R261, R265, R435) -/

/-- One bit of the CRC-32 of IEEE 802.3, least significant bit first. -/
def crcBit (c : BitVec 32) (b : Bool) : BitVec 32 := if c.getLsbD 0 != b then (c >>> 1) ^^^ 0xEDB88320 else c >>> 1
/-- One byte. -/
def crcByte (c : BitVec 32) (x : Byte) : BitVec 32 := (List.range 8).foldl (fun c i => crcBit c (x.getLsbD i)) c
/-- The CRC-32 of bytes. -/
def crc32 (bs : List Byte) : BitVec 32 := ~~~(bs.foldl crcByte 0xFFFFFFFF)

/-- A link of a device. -/
def State.link (s : State) (d n : Nat) : Link := ((s.dev d).links.find? fun l => l.n == n).getD { n }
/-- The state with one link changed. -/
def State.modLink (s : State) (d n : Nat) (f : Link → Link) : State :=
  s.modDev d fun D => { D with links := upsert (fun l => l.n == n) { n } f D.links }

/-- LSEQ of a flit. -/
def flitSeq (flit : List Byte) : BitVec 16 := BitVec.ofNat 16 (leNat ((flit.drop 248).take 2))
/-- Flits that an acknowledgement covers leave the replay buffer. -/
def Link.acked (l : Link) (ack : BitVec 16) : Link :=
  { l with lack := ack, replay := l.replay.filter fun x => 2 ^ 15 ≤ (ack - flitSeq x).toNat }

/-- A flit is whole: its length and its CRC. -/
def flitOk (flit : List Byte) : Bool := flit.length == 256 && crc32 (flit.take 252) == BitVec.ofNat 32 (leNat (flit.drop 252))

/-- The header of a message (R262): its channel, its flits, its kind (assumption log 56), its ends, its number and its line. -/
structure Header where
  vc    : Nat
  nflit : Nat
  kind  : Nat
  src   : Nat
  die   : Nat
  dst   : Nat
  mseq  : Word
  line  : Nat
  deriving DecidableEq, Repr

/-- The header at the head of a message's payload. -/
def headerOf (payload : List Byte) : Header :=
  let x := leNat (payload.take 16)
  { vc := bitsOf x 2 0, nflit := bitsOf x 6 3 + 1, kind := bitsOf x 15 7, src := bitsOf x 27 16, die := bitsOf x 29 28, dst := bitsOf x 41 30,
    mseq := BitVec.ofNat 32 (bitsOf x 73 42), line := 128 * bitsOf x 122 74 }

/-- One bit of the CRC-64 of ECMA-182, most significant bit first (PRESUMED, assumption log 89). -/
def crc64Bit (c : BitVec 64) (b : Bool) : BitVec 64 := if c.msb != b then (c <<< 1) ^^^ 0x42F0E1EBA9EA3693 else c <<< 1
/-- The CRC-64 of bytes (R262). -/
def crc64 (bs : List Byte) : BitVec 64 := bs.foldl (fun c x => [7, 6, 5, 4, 3, 2, 1, 0].foldl (fun c i => crc64Bit c (x.getLsbD i)) c) 0

/-- The tag in the last 8 bytes of a message's payload is that of the others (R262). -/
def tagOk (payload : List Byte) : Bool :=
  crc64 (payload.take (payload.length - 8)) == BitVec.ofNat 64 (leNat (payload.drop (payload.length - 8)))

/-- The payload of an accepted flit joins its message; the destination discards a whole one whose tag does not check and sends NACK,
which takes effect at once (R262). -/
def State.takeFlit (s : State) (dev link : Nat) (flit : List Byte) : State :=
  let payload := (s.link dev link).rx ++ flit.take 248
  let h := headerOf payload
  let keep (rx : List Byte) : State := s.modLink dev link fun l => { l with rx }
  if payload.length < 248 * h.nflit then keep payload
  else if h.dst == dev && !tagOk payload then
    (keep []).nacked { src := h.src, die := h.die, dst := h.dst, mseq := h.mseq, line := h.line }
  else keep []

/-- The sender of a flit, at the other end of its link, keeps it until it is acknowledged (R261). -/
def State.keepFlit (s : State) (dev link : Nat) (flit : List Byte) : State :=
  match linkPeer dev link with
  | none => s
  | some (d, n) => s.modLink d n fun l =>
      if l.replay.any fun x => flitSeq x == flitSeq flit then l else { l with replay := l.replay ++ [flit] }

/-- The flit that a link has sent where one without a whole CRC has come: the sender keeps it for the replay, and what it carries is what was sent, which the
one that has come does not show (R261) (DESIGN CHOICE, assumption log 89). -/
def State.sentFlit (s : State) (dev link : Nat) : List Byte :=
  let back := match linkPeer dev link with | some (d, n) => (s.link d n).lrx | none => 0
  let body := (List.range 248).map (fun i => Config.flitByte s.tick i) ++ leBytes 2 ((s.link dev link).lrx + 1).toNat ++ leBytes 2 back.toNat
  body ++ leBytes 4 (crc32 body).toNat

/-- A receiver asks the other end of its link for a replay from a flit on (R261). -/
def State.askReplay (s : State) (dev link : Nat) (lseq : BitVec 16) : State :=
  match linkPeer dev link with
  | none => s
  | some (d, n) => s.later s.clk (.flitReplayRequest d n lseq)

/-- FLIT_RECEIVE (R261, R262): a good flit next in order is accepted and its LACK taken; any other is discarded, and one with a CRC error asks for a replay. -/
def execFlitReceive (dev link : Nat) (flit : List Byte) (s : State) : Host.Outcome State Fault Refusal :=
  .next (
    let l := s.link dev link
    if !flitOk flit then (s.keepFlit dev link (s.sentFlit dev link)).askReplay dev link (l.lrx + 1)
    else if flitSeq flit == l.lrx + 1 then
      ((s.keepFlit dev link flit).takeFlit dev link flit).modLink dev link fun l => { l.acked (BitVec.ofNat 16 (leNat ((flit.drop 250).take 2))) with lrx := l.lrx + 1 }
    else s.keepFlit dev link flit)

/-- FLIT_REPLAY_REQUEST (R261): the flits before the failed one have arrived; the rest are sent again in order. -/
def execFlitReplayRequest (dev link : Nat) (lseq : BitVec 16) (s : State) : Host.Outcome State Fault Refusal :=
  .next (
    let s1 := s.modLink dev link fun l => { l.acked (lseq - 1) with tries := l.tries + 1 }
    match linkPeer dev link with
    | none => s1
    | some (d, n) => (s1.link dev link).replay.foldl (fun s x => s.later s.clk (.flitReceive d n x)) s1)

/-- A link retrains at the next narrower width, or is down (R265). -/
def Link.narrower (l : Link) (clk : Nat) : Link :=
  if 2 ≤ l.width then { l with up := false, retrain := none, waits := false, replay := [], rx := [] }
  else { l with width := l.width + 1, retrain := some (clk + 65536), waits := false }

/-- After a change of a link: the timeouts of requests on it keep its width, and what a link that is down had not delivered is sent again on other routes
(R259, R262, R265). -/
def State.rerouted (s : State) (d n : Nat) : State :=
  let s1 := s.latchWidths
  if (s1.link d n).up then s1
  else (s1.reqs.filter fun r => r.route.contains (d, n)).foldl (fun s r => s.later s.clk (requestOf r.msg)) s1

/-- LANE_FAILURE (R265, R435): the link retrains by itself, or is held for the host's command. -/
def execLaneFailure (dev link : Nat) (s : State) : Host.Outcome State Fault Refusal :=
  .next (
    if !(s.link dev link).up then s
    else (s.modLink dev link fun l => if s.modeBit dev 0 3 then { l with waits := true } else l.narrower s.clk).rerouted dev link)

/-- RETRAIN_COMPLETE (R265). -/
def execRetrainComplete (dev link : Nat) (s : State) : Host.Outcome State Fault Refusal :=
  .next (s.modLink dev link fun l => { l with retrain := none })

/-- The host's command to a link that waits for it (R435). -/
def State.linkCommand (s : State) (d n : Nat) (down : Bool) : State :=
  if !(s.link d n).waits then s
  else (s.modLink d n fun l => if down then { l with up := false, waits := false, retrain := none, replay := [], rx := [] } else l.narrower s.clk).rerouted d n

/-- LINK_NARROW (R435). -/
def execLinkNarrow (dev link : Nat) (s : State) : Host.Outcome State Fault Refusal := .next (s.linkCommand dev link false)
/-- LINK_DOWN (R435). -/
def execLinkDown (dev link : Nat) (s : State) : Host.Outcome State Fault Refusal := .next (s.linkCommand dev link true)
/-- LINK_UP (R259): the link carries traffic again at full width; requests on the old routes are answered or fail as before. -/
def execLinkUp (dev link : Nat) (s : State) : Host.Outcome State Fault Refusal :=
  .next (s.modLink dev link fun l => if l.up then l else { l with up := true, width := 0, retrain := none, waits := false })

/-! ## Write queues (R312) -/

/-- WRITE_QUEUE_TIMEOUT (R312): the oldest entry is published after 4,096 cycles. -/
def execWriteQueueTimeout (dev core : Nat) (s : State) : Host.Outcome State Fault Refusal :=
  .next (match (s.core dev core).queue with
    | e :: _ => if e.at_ + 4096 ≤ s.clk then s.publish dev core e else s
    | [] => s)

/-! ## mcast (R269 to R271) -/

/-- The device of member `i` of a set. -/
def castMember (lo : Word) (i : Nat) : Nat := (bitsOf lo.toNat 11 0 + i * bitsOf lo.toNat 27 16) % 4096

/-- One thread's bytes sent to one member: into the core's write queue, or a failure at once where no route reaches it. -/
def State.castTo (s : State) (c : Ctx) (f : Fields) (t : Nat) (parts : List (Nat × List Byte)) (d i : Nat) : State :=
  if d != c.dev && !s.reaches c.dev d then s.failMember c.out i (bitMask t)
  else
    let u : QUser := { c.user 0 c.out (bitMask t) with cast := some i }
    parts.foldl (fun s x => s.enqueue c.dev c.core (lineOf (d * 2 ^ 44 + x.1)) (.bytes (x.1 % 128) x.2) u (relLevel f)) s

/-- One thread of an mcast (R270). -/
def State.castThread (s : State) (c : Ctx) (f : Fields) (z w : Nat) (lo mask : Word) (t : Nat) : Thr × State :=
  match s.checkAccess c (moveQuery f true z (elemCount f w)) (c.addr s f.d 0 t) with
  | (.error e, s1) => (.stop e, s1)
  | (.ok es, s1) =>
    match es.find? fun e => zoneOf (localOf e.x.pa) != .hbm && zoneOf (localOf e.x.pa) != .tier2 with
    | some e => (.stop (.trap .memoryAccess 14 e.va 0), s1)
    | none =>
      let parts := (es.zip (blockElems f w)).map fun (e, ij) => (localOf e.x.pa, storeElem (modRaw f.mod) z e.x.pte (c.elem s .int w f.a t ij.1 ij.2))
      let members := ((List.range 32).filter fun i => mask.getLsbD i).map fun i => (castMember lo i, i)
      (.ok [], members.foldl (fun s x => s.castTo c f t parts x.1 x.2) s1)

/-- The record of an mcast under way opened at its first attempt. -/
def State.openCast (s : State) (c : Ctx) : State :=
  if s.casts.any fun (x : Cast) => x.n == c.out then s
  else { s with casts := s.casts ++ [{ n := c.out, path := c.r, pc := c.p.pc, sel := c.sel, units := (threadsOf c.sel).length }] }

/-- The end of an attempt: the instruction's issue ends once all its threads are sent, and it completes when every member store has ended. -/
def Run.finishCast (r : Run) (c : Ctx) : State :=
  let drop (s : State) : State := { s with casts := s.casts.filter fun (x : Cast) => x.n != c.out }
  match r.stop with
  | some (.trap cls reason va info) => (drop r.s).trap c cls reason r.done va info
  | some (.stall va access reason) => r.s.stall c va access reason r.done
  | some (.hold why arg va) => r.s.holdP c why arg r.done va
  | none =>
    let s1 : State := { r.s with casts := modIf (fun (x : Cast) => x.n == c.out) (fun (x : Cast) => { x with closed := true }) r.s.casts }
    (s1.advance c).castEnd c.out

/-- mcast (R269 to R271). -/
def execMcast (f : Fields) (s : State) : Host.Outcome State Fault Refusal :=
  issue .mcast f (fun c s =>
    if c.sel == 0 then s.finishIdle c
    else
      let set := c.val64 s f.b (lowThread c.sel)
      let lo := loWord set
      if bitsOf lo.toNat 15 12 != 0 || bitsOf lo.toNat 31 28 != 0 then s.trap c .operand 21
      else
        let (z, w) := sizeOf (operandSub f.d)
        (runThreads (fun s t => s.castThread c f z w lo (hiWord set) t) (c.todo f) { s := (s.openCast c).relNow c f, done := c.done }).finishCast c) s

end Sys2Proof.Machine
end

