-- ==== Sys2Proof/Machine/Functions.lean ====
section
/-! DEFINITION. Sys2Proof/Machine/Functions.lean: division, functions and exact helpers of group 0x6 (R179 to R182) -/

namespace Sys2Proof.Machine

/-- Instructions of group 0x6 on pairs (R181, R182). -/
def State.pairBlock (s : State) (i : Form) (f : Fields) (c : Ctx) (m : Widen) (g : Word × Word → Word × Word → Word × Word → Word × Word) : State :=
  s.finish i c (c.blockWrites f 2 fun t r j =>
    joinElem (g (splitElem (c.elem s m 2 f.a t r j)) (splitElem (c.elem s m 2 f.b t r j)) (splitElem (c.elem s m 2 f.d t r j))))

/-- rcp (R180). -/
def execRcp (f : Fields) (s : State) : Host.Outcome State Fault Refusal := issue .rcp f (fun c s => s.fltBlock .rcp f c) s
/-- div (R180). -/
def execDivFloat (f : Fields) (s : State) : Host.Outcome State Fault Refusal := issue .divFloat f (fun c s => s.fltBlock .divFloat f c) s
/-- sqrt (R180). -/
def execSqrt (f : Fields) (s : State) : Host.Outcome State Fault Refusal := issue .sqrt f (fun c s => s.fltBlock .sqrt f c) s
/-- rsqrt (R180). -/
def execRsqrt (f : Fields) (s : State) : Host.Outcome State Fault Refusal := issue .rsqrt f (fun c s => s.fltBlock .rsqrt f c) s
/-- ex2 (R180). -/
def execEx2 (f : Fields) (s : State) : Host.Outcome State Fault Refusal := issue .ex2 f (fun c s => s.fltBlock .ex2 f c) s
/-- lg2 (R180). -/
def execLg2 (f : Fields) (s : State) : Host.Outcome State Fault Refusal := issue .lg2 f (fun c s => s.fltBlock .lg2 f c) s
/-- sinpi (R180). -/
def execSinpi (f : Fields) (s : State) : Host.Outcome State Fault Refusal := issue .sinpi f (fun c s => s.fltBlock .sinpi f c) s
/-- cospi (R180). -/
def execCospi (f : Fields) (s : State) : Host.Outcome State Fault Refusal := issue .cospi f (fun c s => s.fltBlock .cospi f c) s
/-- tanh (R180). -/
def execTanh (f : Fields) (s : State) : Host.Outcome State Fault Refusal := issue .tanh f (fun c s => s.fltBlock .tanh f c) s
/-- cmul (R181). -/
def execCmul (f : Fields) (s : State) : Host.Outcome State Fault Refusal := issue .cmul f (fun c s => s.pairBlock .cmul f c .cplx fun a b _ => cmulElem (modFlt f).2.2 (modFlt f).2.1 a b none) s
/-- cfma (R181). -/
def execCfma (f : Fields) (s : State) : Host.Outcome State Fault Refusal := issue .cfma f (fun c s => s.pairBlock .cfma f c .cplx fun a b d => cmulElem (modFlt f).2.2 (modFlt f).2.1 a b (some d)) s
/-- twosum (R182, R60). -/
def execTwosum (f : Fields) (s : State) : Host.Outcome State Fault Refusal := issue .twosum f (fun c s => s.pairBlock .twosum f c (.flt .f32) fun a b _ => twoSum a.1 b.1) s
/-- twoprod (R182). -/
def execTwoprod (f : Fields) (s : State) : Host.Outcome State Fault Refusal := issue .twoprod f (fun c s => s.pairBlock .twoprod f c (.flt .f32) fun a b _ => twoProd a.1 b.1) s

end Sys2Proof.Machine
end

