-- ==== Sys2Proof/Machine/Digest.lean ====
section
/-! DEFINITION. Sys2Proof/Machine/Digest.lean: SHAKE256 with an output of any length and pure Ed448 with an empty context, which R437 and R438
name by FIPS 202 and RFC 8032 (assumption log 8) -/

namespace Sys2Proof.Machine

/-! ## SHAKE256 -/

/-- The lane that a walk of `n` steps from lane (1, 0) comes to: each step takes (x, y) to (y, 2x + 3y). -/
def rhoWalk : Nat → Nat × Nat
  | 0 => (1, 0)
  | n + 1 => let (x, y) := rhoWalk n; (y, (2 * x + 3 * y) % 5)

/-- The rotation of lane (x, y): the triangular number of its place on the walk, and none for lane (0, 0). -/
def rhoOffset (x y : Nat) : Nat :=
  match (List.range 24).find? fun n => rhoWalk n == (x, y) with
  | some n => (n + 1) * (n + 2) / 2 % 64
  | none => 0

/-- The shift register of x^8 + x^6 + x^5 + x^4 + 1 after `n` steps from 1. -/
def iotaReg : Nat → Nat
  | 0 => 1
  | n + 1 => let r := 2 * iotaReg n; if r < 256 then r else (r - 256) ^^^ 0x71

/-- The constant of a round: step 7 i + j of the register gives its bit 2^j - 1. -/
def iotaConst (i : Nat) : BitVec 64 :=
  (List.range 7).foldl (fun z j => z ||| BitVec.ofNat 64 (iotaReg (7 * i + j) % 2 * 2 ^ (2 ^ j - 1))) 0

/-- A lane of a state. -/
def lane (a : List (BitVec 64)) (x y : Nat) : BitVec 64 := a.getD (x % 5 + 5 * (y % 5)) 0

/-- The lanes of a state by a function of x and y. -/
def lanesOf (f : Nat → Nat → BitVec 64) : List (BitVec 64) := (List.range 25).map fun k => f (k % 5) (k / 5)

/-- One round of Keccak-f. -/
def keccakRound (a : List (BitVec 64)) (rc : BitVec 64) : List (BitVec 64) :=
  let col := (List.range 5).map fun x => (List.range 5).foldl (fun c y => c ^^^ lane a x y) 0
  let c (x : Nat) : BitVec 64 := col.getD (x % 5) 0
  let theta := lanesOf fun x y => lane a x y ^^^ c (x + 4) ^^^ (c (x + 1)).rotateLeft 1
  let rp := lanesOf fun x y =>
    let x0 := (x + 3 * y) % 5
    (lane theta x0 x).rotateLeft (rhoOffset x0 (x % 5))
  let chi := lanesOf fun x y => lane rp x y ^^^ (~~~(lane rp (x + 1) y) &&& lane rp (x + 2) y)
  match chi with
  | z :: zs => (z ^^^ rc) :: zs
  | [] => []

/-- Keccak-f[1600]. -/
def keccakF (a : List (BitVec 64)) : List (BitVec 64) := (List.range 24).foldl (fun a i => keccakRound a (iotaConst i)) a

/-- A block of 136 bytes taken in. -/
def absorb (a : List (BitVec 64)) (block : List Byte) : List (BitVec 64) :=
  keccakF (a.zipIdx.map fun (z, k) => if k < 17 then z ^^^ BitVec.ofNat 64 (leNat ((block.drop (8 * k)).take 8)) else z)

/-- The message with the padding of SHAKE. -/
def shakePad (bs : List Byte) : List Byte :=
  let n := 136 - bs.length % 136
  if n == 1 then bs ++ [0x9F] else bs ++ 0x1F :: List.replicate (n - 2) 0 ++ [0x80]

/-- Blocks taken in one after another. -/
def absorbAll : Nat → List Byte → List (BitVec 64) → List (BitVec 64)
  | 0, _, a => a
  | k + 1, bs, a => absorbAll k (bs.drop 136) (absorb a (bs.take 136))

/-- Blocks of output. -/
def squeeze : Nat → List (BitVec 64) → List Byte
  | 0, _ => []
  | k + 1, a => (a.take 17).flatMap (fun z => leBytes 8 z.toNat) ++ squeeze k (keccakF a)

/-- SHAKE256 with `n` bytes of output (PRESUMED, assumption log 8). -/
def shake256 (bs : List Byte) (n : Nat) : List Byte :=
  let p := shakePad bs
  (squeeze ((n + 135) / 136) (absorbAll (p.length / 136) p (List.replicate 25 0))).take n

/-- The digest of R437: 64 bytes. -/
def digest (bs : List Byte) : List Byte := shake256 bs 64

/-! ## Ed448 -/

/-- The field's prime. -/
def edP : Nat := 2 ^ 448 - 2 ^ 224 - 1
/-- The order of the base point. -/
def edL : Nat := 2 ^ 446 - 13818066809895115352007386748515426880336692474882178609894547503885
/-- A product in the field. -/
def edMul (a b : Nat) : Nat := a * b % edP
/-- A sum. -/
def edAdd (a b : Nat) : Nat := (a + b) % edP
/-- A difference. -/
def edSub (a b : Nat) : Nat := (a + edP - b % edP) % edP
/-- The constant -d of the curve. -/
def edNegD : Nat := 39081

/-- A power in the field over the low `n` bits of an exponent. -/
def edPow (b : Nat) : Nat → Nat → Nat
  | 0, _ => 1
  | n + 1, e => let r := edPow b n (e / 2); let q := edMul r r; if e % 2 == 1 then edMul q b else q

/-- The inverse of an element. -/
def edInv (a : Nat) : Nat := edPow a 448 (edP - 2)

/-- A point in projective coordinates. -/
structure EdPoint where
  x : Nat
  y : Nat
  z : Nat
  deriving DecidableEq, Repr

/-- The neutral point. -/
def edZero : EdPoint := ⟨0, 1, 1⟩
/-- The base point. -/
def edBase : EdPoint :=
  ⟨224580040295924300187604334099896036246789641632564134246125461686950415467406032909029192869357953282578032075146446173674602635247710,
   298819210078481492676017930443930673437544040154080242095928241372331506189835876003536878655418784733982303233503462500531545062832660, 1⟩

/-- The sum of two points. -/
def EdPoint.plus (p q : EdPoint) : EdPoint :=
  let a := edMul p.z q.z
  let b := edMul a a
  let c := edMul p.x q.x
  let d := edMul p.y q.y
  let e := edSub 0 (edMul edNegD (edMul c d))
  let f := edSub b e
  let g := edAdd b e
  let h := edMul (edAdd p.x p.y) (edAdd q.x q.y)
  ⟨edMul (edMul a f) (edSub (edSub h c) d), edMul (edMul a g) (edSub d c), edMul f g⟩

/-- A multiple of a point over the low `n` bits of a scalar. -/
def EdPoint.times (p : EdPoint) : Nat → Nat → EdPoint
  | 0, _ => edZero
  | n + 1, k => let r := p.times n (k / 2); let q := r.plus r; if k % 2 == 1 then q.plus p else q

/-- The 57 bytes of a point. -/
def EdPoint.encode (p : EdPoint) : List Byte :=
  let i := edInv p.z
  leBytes 56 (edMul p.y i) ++ [BitVec.ofNat 8 (edMul p.x i % 2 * 128)]

/-- The point of 57 bytes, if they name one. -/
def edDecode (bs : List Byte) : Option EdPoint :=
  let v := leNat bs
  let sign := v / 2 ^ 455 % 2
  let y := v % 2 ^ 455
  if bs.length != 57 || edP ≤ y then none
  else
    let yy := edMul y y
    let u := edSub yy 1
    let w := edSub (edSub 0 (edMul edNegD yy)) 1
    let u3 := edMul u (edMul u u)
    let w3 := edMul w (edMul w w)
    let c := edMul (edMul u3 w) (edPow (edMul (edMul u3 (edMul u u)) w3) 448 ((edP - 3) / 4))
    if edMul w (edMul c c) != u then none
    else if c == 0 && sign == 1 then none
    else some ⟨if c % 2 == sign then c else edSub 0 c, y, 1⟩

/-- The prefix of pure Ed448 with an empty context. -/
def edDom : List Byte := [0x53, 0x69, 0x67, 0x45, 0x64, 0x34, 0x34, 0x38, 0, 0]

/-- The scalar of a hash. -/
def edHash (bs : List Byte) : Nat := leNat (shake256 (edDom ++ bs) 114) % edL

/-- A 57-byte secret as its scalar and prefix. -/
def edSecret (sk : List Byte) : Nat × List Byte :=
  let h := shake256 sk 114
  (leNat (h.take 56) / 4 * 4 % 2 ^ 447 + 2 ^ 447, h.drop 57)

/-- The public key of a secret. -/
def edPublic (sk : List Byte) : List Byte := (edBase.times 448 (edSecret sk).1).encode

/-- The signature of a message. -/
def edSign (sk msg : List Byte) : List Byte :=
  let (a, pre) := edSecret sk
  let r := edHash (pre ++ msg)
  let rr := (edBase.times 448 r).encode
  let k := edHash (rr ++ edPublic sk ++ msg)
  rr ++ leBytes 57 ((r + k * a) % edL)

/-- Two points are one. -/
def EdPoint.same (p q : EdPoint) : Bool := edMul p.x q.z == edMul q.x p.z && edMul p.y q.z == edMul q.y p.z

/-- A signature verifies under a public key. -/
def edVerify (pk msg sig : List Byte) : Bool :=
  match edDecode pk, edDecode (sig.take 57) with
  | some a, some r =>
    let s := leNat (sig.drop 57)
    sig.length == 114 && s < edL
      && ((edBase.times 448 s).times 3 4).same (((a.times 448 (edHash (sig.take 57 ++ pk ++ msg))).plus r).times 3 4)
  | _, _ => false

end Sys2Proof.Machine
end

