-- ==== Sys2Proof/Machine/Twin.lean ====
section
/-! DEFINITION. Sys2Proof/Machine/Twin.lean: counted loads, adjoint stores and reads of group 0xA (R339 to R353) -/

namespace Sys2Proof.Machine

/-! ## The access of a thread (R340 to R342) -/

/-- The page has a twin (R341). -/
def pteHasTwin (e : DWord) : Bool := pteTwin e && 13 ≤ pteFmt e
/-- The element bytes that a page's format gives a twin instruction (R341). -/
def twinBytes (fmt : Nat) : Nat := if fmt == 0 then 4 else fmtBytes fmt
/-- The registers per element. -/
def twinCols (fmt : Nat) : Nat := if fmt == 15 then 2 else 1
/-- The tag of an adjoint store (R341). -/
def twinOp (fmt : Nat) : MemOp := if fmt == 13 then .addBf16x2 else if fmt == 15 then .addC32 else .addF32

/-- A block or scalar that a C32 page refuses (R341) (DEDUCED, assumption log 36). -/
def oddBlock (f : Fields) : Operand → Bool
  | .vec n => n.toNat % 2 == 1 || f.cols < 2
  | .scalar n => n.toNat % 2 == 1
  | _ => false

/-- A checked access: its primal, twin and count translations, the element size, the registers per element, the number of elements.  The twin bytes of the
granules that it touches, which TWINOFF may set across lines and pages, run from `t0` to `t1`, with `x0` and `x1`. -/
structure Twin where
  va  : DWord
  x   : Xlat
  tva : DWord
  tx  : Xlat
  t0  : DWord
  x0  : Xlat
  t1  : DWord
  x1  : Xlat
  cx  : Xlat
  z   : Nat
  w   : Nat
  n   : Nat
  deriving DecidableEq, Repr

/-- The granule of each element, and the granules touched, ascending. -/
def Twin.granule (a : Twin) (k : Nat) : Nat := (a.va.toNat % 128 + k * a.z) / 16
/-- The granules touched. -/
def Twin.granules (a : Twin) : List Nat := (List.range 8).filter fun g => (List.range a.n).any fun k => a.granule k == g
/-- The physical address of a twin byte of the granules touched. -/
def Twin.at_ (a : Twin) (v : DWord) : Nat :=
  if v.toNat / 65536 == a.t0.toNat / 65536 then a.x0.pa + (v - a.t0).toNat else a.x1.pa - (a.t1 - v).toNat
/-- The twin bytes of a granule, by physical address. -/
def Twin.granuleAt (a : Twin) (g : Nat) : List Nat :=
  let v := a.tva - BitVec.ofNat 64 (a.va.toNat % 128) + BitVec.ofNat 64 (16 * g)
  (List.range 16).map fun i => a.at_ (v + BitVec.ofNat 64 i)
/-- The physical address of element `k` in the twin. -/
def Twin.elemAt (a : Twin) (k : Nat) : Nat := a.at_ (a.tva + BitVec.ofNat 64 (k * a.z))
/-- The twin lines of the elements. -/
def Twin.lines (a : Twin) : List Nat := ((List.range a.n).map fun k => lineOf (a.elemAt k)).eraseDups

/-- The twin lines of the granules touched: those of the elements, and where TWINOFF is no multiple of 16 a further one. -/
def Twin.whole (a : Twin) : List Nat := ((a.granules.flatMap a.granuleAt).map lineOf).eraseDups

/-- What a twin instruction asks for: whether it has elements, the operand that a C32 page checks, the rights on the primal and the twin page,
the access code (R405), and whether it changes count words. -/
structure TwinQuery where
  elems  : Bool := true
  block  : Operand := .none
  primal : Bool := false
  tread  : Bool := false
  twrite : Bool := false
  code   : Nat := 0
  cwrite : Bool := true

/-- R and W on a count page, SUP ignored (R340). -/
def countStop (va : DWord) (x : Xlat) : Option Stop := permStop true true true va x

/-- The checks of R342 up to step 6 with the A and D bits set; a twin element that TWINOFF misaligns traps ALIGN (DESIGN CHOICE, assumption log 82). -/
def State.twinElems (s : State) (c : Ctx) (f : Fields) (q : TwinQuery) (va : DWord) : Nat → Except Stop Twin × State
  | 0 => (.error (.stall va q.code 1), s)
  | k + 1 =>
    let C := s.ctx c.dev c.ctx
    let tva := va + C.twinoff
    let cva := s.countAddr c.dev c.ctx va
    let bad (a : DWord) : Bool := !canonical a
    if bad va || bad tva || bad cva then (.error (.trap .memoryAccess 1 va 0), s)
    else match s.lookups c.dev c.ctx q.code [va] with
    | (.error e, s1) => (.error e, s1)
    | (.ok xs, s1) =>
    let x := xs.headD { pa := 0, pte := 0, bits := 0, at_ := 0 }
    let fmt := pteFmt x.pte
    let z := twinBytes fmt
    let w := twinCols fmt
    let n := if q.elems then elemCount f w else 1
    if va.toNat % z != 0 || 128 < va.toNat % 128 + n * z then (.error (.trap .memoryAccess 2 va 0), s1)
    else if q.elems && tva.toNat % z != 0 then (.error (.trap .memoryAccess 2 tva 0), s1)
    else
    let t0 := tva - BitVec.ofNat 64 (va.toNat % 16)
    let t1 := tva + BitVec.ofNat 64 ((va.toNat % 16 + n * z + 15) / 16 * 16 - 1 - va.toNat % 16)
    match s1.lookups c.dev c.ctx q.code [tva, t0, t1] with
    | (.error e, s2) => (.error e, s2)
    | (.ok ts, s2) =>
    match s2.lookups c.dev c.ctx (if q.cwrite then 3 else 0) [cva] with
    | (.error e, s3) => (.error e, s3)
    | (.ok cs, s3) =>
    let tx := ts.headD x
    let x0 := ts.getD 1 x
    let x1 := ts.getD 2 x
    let twins : List (DWord × Xlat) := [(tva, tx), (t0, x0), (t1, x1)]
    let cx := cs.headD x
    let stop : Option Stop :=
      (if q.primal then permStop c.priv true false va x else none)
      <|> (if q.tread || q.twrite then twins.findSome? fun e => permStop c.priv q.tread q.twrite e.1 e.2 else none)
      <|> countStop cva cx
      <|> (if pteHasTwin x.pte then none else some (.trap .twin 4 va 0))
      <|> ((twins.find? fun e => pteFmt e.2.pte != fmt).map fun e => .trap .memoryAccess 7 e.1 0)
      <|> (if w == 2 && oddBlock f q.block then some (.trap .memoryAccess 7 va 0) else none)
      <|> (if pteFmt cx.pte != 0 then some (.trap .memoryAccess 7 cva 0) else none)
      <|> (((va, x) :: twins ++ [(cva, cx)]).find? fun e => s3.unmapped e.2.pa).map fun e => .trap .memoryAccess 9 e.1 0
    match stop with
    | some e => (.error e, s3)
    | none =>
      match s3.touchAll c.dev c.ctx ((x, false) :: (twins.map fun e => (e.2, q.twrite)) ++ [(cx, q.cwrite)]) with
      | (false, s4) => s4.twinElems c f q va k
      | (true, s4) => (.ok { va, x, tva, tx, t0, x0, t1, x1, cx, z, w, n }, s4)

/-- The count words of an access's line at their home, after the core's own changes (R340, R343). -/
def State.countWords (s : State) (c : Ctx) (a : Twin) : List Nat × State :=
  let l := lineOf a.cx.pa
  let s1 := (s.publishLine c.dev c.core l).reach c.dev c.core l
  ((List.range 8).map fun g => leNat (s1.bytes (a.cx.pa + 2 * g) 2), s1)

/-- COUNT. -/
def countOf (w : Nat) : Nat := w % 256
/-- STATE. -/
def countSt (w : Nat) : Nat := w / 256 % 4
/-- The word is COUNT_INVALID (R340). -/
def countBad (w : Nat) : Bool := countSt w == 3 || 1024 ≤ w
/-- A count word. -/
def countWord (n st : Nat) : Nat := n + 256 * st

/-- The count words written back in one change. -/
def State.putCounts (s : State) (a : Twin) (ws : List Nat) : State := (s.setBytes a.cx.pa (ws.flatMap fun w => leBytes 2 w)).uncache (lineOf a.cx.pa)

/-- The twin lines that an access reaches: with its elements' the whole of its granules where it consumes them (R348, R350). -/
def TwinQuery.lines (q : TwinQuery) (a : Twin) : List Nat := if q.tread && q.twrite then a.whole else a.lines

/-- The twin lines that an access reaches, each with the address of its first element. -/
def TwinQuery.twins (q : TwinQuery) (a : Twin) : List (DWord × Nat) :=
  (q.lines a).map fun l => (a.tva + BitVec.ofNat 64 ((((List.range a.n).find? fun k => lineOf (a.elemAt k) == l).getD 0) * a.z), l)

/-- The access of a thread once its pages are checked (R342): the rights of its writes at other devices (R267), its count words, and then its work. -/
def State.twinCounts (s : State) (c : Ctx) (q : TwinQuery) (a : Twin) (go : State → Twin → List Nat → Thr × State) : Thr × State :=
  let cva := s.countAddr c.dev c.ctx a.va
  match s.deniedAt c ((if q.twrite then q.twins a else []) ++ if q.cwrite then [(cva, a.cx.pa)] else []) with
  | some va => (.lost .memoryAccess 15 va, s)
  | none =>
    let (ws, s2) := s.countWords c a
    if s2.poisoned c.dev c.core a.cx.pa then (.stop (poisonStop cva), s2)
    else match (a.granules.map fun g => ws.getD g 0).find? countBad with
    | some w => (.stop (.trap .twin 3 a.va (BitVec.ofNat 32 w)), s2)
    | none => go s2 a ws

/-- The checks of a thread with its count words (R342), and then its work at the homes of its lines (DEDUCED, assumption log 42). -/
def State.twinAccess (s : State) (c : Ctx) (f : Fields) (q : TwinQuery) (t : Nat) (va : DWord) (go : State → Twin → List Nat → Thr × State) : Thr × State :=
  match s.twinElems c f q va 8 with
  | (.error e, s1) => (.stop e, s1)
  | (.ok a, s1) => s1.overFabric c t ((a.va, a.x.pa) :: (s1.countAddr c.dev c.ctx a.va, a.cx.pa) :: q.twins a) fun s1 => s1.twinCounts c q a go

/-- The elements of the primal, or of the merged twin line, as registers (R341, R348). -/
def State.twinRead (s : State) (c : Ctx) (f : Fields) (a : Twin) (twin : Bool) (take : Nat → Bool) : Except Stop (List (List Word)) × State :=
  let e (k : Nat) : Elem :=
    if twin then { va := a.tva + BitVec.ofNat 64 (k * a.z), x := { a.tx with pa := a.elemAt k } }
    else { va := a.va + BitVec.ofNat 64 (k * a.z), x := { a.x with pa := a.x.pa + k * a.z } }
  let s1 := if twin then a.lines.foldl (fun s l => s.publishLine c.dev c.core l) s else s
  match s1.readElems c (modRaw f.mod) a.z ((List.range a.n).map e) with
  | (.error x, s2) => (.error x, s2)
  | (.ok ws, s2) => (.ok (ws.zipIdx.map fun (w, k) => if take (a.granule k) then w else List.replicate a.w 0), s2)

/-! ## ldf (R344, R345) -/

/-- An ldf that counts: the elements are read, then each touched granule is raised once. -/
def State.ldfCounted (s : State) (c : Ctx) (f : Fields) (t : Nat) (va : DWord) : Thr × State :=
  s.twinAccess c f { block := f.d, primal := true, code := 0 } t va fun s1 a ws =>
    if a.granules.any fun g => countOf (ws.getD g 0) == 255 then (.stop (.trap .twin 1 va 0), s1)
    else match s1.twinRead c f a false fun _ => true with
      | (.error e, s2) => (.stop e, s2)
      | (.ok vals, s2) =>
        let up := ws.zipIdx.map fun (w, g) => if a.granules.contains g then countWord (countOf w + 1) 1 else w
        (.ok (elemWrites f a.w (c.targets f t) vals), (s2.putCounts a up).recordAt c (lineOf a.cx.pa) (relLevel f))

/-- What an `ldf` that counts nothing asks for at an address on a page of a format (R341). -/
def ldfQuery (f : Fields) (fmt : Nat) : Query :=
  { read := true, raw := modRaw f.mod && fmt != 15, align := twinBytes fmt, z := twinBytes fmt, n := elemCount f (twinCols fmt),
    pair := fun x => !(x == 15 && oddBlock f f.d) }

/-- An ldf that counts nothing: a load whose element the page gives (R341, R344) (DEDUCED, assumption log 37). -/
def State.ldfPlain (s : State) (c : Ctx) (f : Fields) (t : Nat) (va : DWord) (fmt : Nat) : Thr × State :=
  let q := ldfQuery f fmt
  if va.toNat % q.z != 0 || 128 < va.toNat % 128 + q.n * q.z then (.stop (.trap .memoryAccess 2 va 0), s)
  else match s.checkAccess c q va with
    | (.error e, s1) => (.stop e, s1)
    | (.ok es, s1) =>
      s1.overFabric c t (es.flatMap (s1.homes c)) fun s1 => match s1.readElems c q.raw q.z es with
        | (r, s2) => (thrOf f (twinCols fmt) (c.targets f t) r, s2)

/-- One thread's ldf. -/
def State.ldfThread (s : State) (c : Ctx) (f : Fields) (t : Nat) : Thr × State :=
  let va := c.addr s f.a (offsetOf f.b) t
  if !canonical va then (.stop (.trap .memoryAccess 1 va 0), s)
  else match s.translate c.dev c.ctx va with
    | (.error r, s1) => (.stop (.stall va 0 r), s1)
    | (.ok x, s1) => if c.R.counting && pteHasTwin x.pte then s1.ldfCounted c f t va else s1.ldfPlain c f t va (pteFmt x.pte)

/-- ldf (R344, R345). -/
def execLdf (f : Fields) (s : State) : Host.Outcome State Fault Refusal := issue .ldf f (fun c s => s.threads c f fun s t => s.ldfThread c f t) s

/-! ## adst (R346, R347) -/

/-- The contributions of a thread's elements: physical address in the twin and value; two halves of a BF16 word are one contribution. -/
def Ctx.adjoints (c : Ctx) (s : State) (f : Fields) (a : Twin) (t : Nat) : List (Nat × Nat) :=
  let off (k : Nat) : Nat := a.elemAt k
  let places := (List.range a.n).zip (blockElems f a.w)
  if a.z == 2 then
    let half (ij : Nat × Nat) : Nat :=
      let v := c.elem s (.flt .f32) 1 f.a t ij.1 ij.2
      if modRaw f.mod then v % 65536 else Fmt.bf16.encode .rn false (f32v (BitVec.ofNat 32 v))
    let words := (places.map fun p => off p.1 / 4 * 4).eraseDups
    words.map fun o => (o, places.foldl (fun v p => if off p.1 / 4 * 4 == o then v + half p.2 * 2 ^ (8 * (off p.1 % 4)) else v) 0)
  else places.map fun p => (off p.1, c.elem s (twinOp (pteFmt a.x.pte)).widen a.w f.a t p.2.1 p.2.2)

/-- A count word after an adjoint store (R346). -/
def lowered (w : Nat) : Nat := if 2 ≤ countOf w then countWord (countOf w - 1) 1 else countWord 0 2

/-- TWIN_EXTRA with the address of the first such store (R347). -/
def Context.extra (C : Context) (va : DWord) : Context := if C.twinstat then C else { C with twinstat := true, twinxa := va }

/-- One thread's adst: the deposits, then the decrements, a release at device scope (R321), before which the core's writes are published. -/
def State.adstThread (s : State) (c : Ctx) (f : Fields) (t : Nat) : Thr × State :=
  let va := c.addr s f.d 0 t
  (s.release c.dev c.core 2).twinAccess c f { block := f.a, twrite := true, code := 1 } t va fun s1 a ws =>
    let op := twinOp (pteFmt a.x.pte)
    let det := c.R.det && op.exact
    let sa := a.lines.foldl (fun s l => (s.publishLine c.dev c.core l).enterA l op det) s1
    if a.lines.any fun l => s1.lossy sa l then (.stop (poisonStop a.tva), sa)
    else
      let s2 := (c.adjoints s1 f a t).foldl (fun s x => s.deposit c.dev c.core c.ctx (lineOf x.1) op det (x.1 % 128) x.2) sa
      let s3 := a.lines.foldl (fun s l => s.recordAt c l (relLevel f)) s2
      let s4 := s3.putCounts a (ws.zipIdx.map fun (w, g) => if a.granules.contains g then lowered w else w)
      let s5 := (s4.recordAt c (lineOf a.cx.pa) (max 2 (relLevel f))).lowerOwn c (c.shares f)
      (.ok [], if a.granules.any fun g => countOf (ws.getD g 0) == 0 then s5.modCtx c.dev c.ctx fun C => C.extra va else s5)

/-- adst (R346). -/
def execAdst (f : Fields) (s : State) : Host.Outcome State Fault Refusal := issue .adst f (fun c s => s.threads c f fun s t => s.adstThread c f t) s

/-! ## adld, adforce, adpeek (R348 to R350) -/

/-- The consumption of an access: every line that holds twin bytes of its granules merged, the elements taken, the consumed granules zeroed, the count words
cleared, and the predicate. -/
def State.consume (s : State) (c : Ctx) (f : Fields) (t : Nat) (a : Twin) (ws : List Nat) : Thr × State :=
  let word g := ws.getD g 0
  let take (g : Nat) : Bool := countSt (word g) != 0
  let s0 := a.whole.foldl (fun (s : State) l => (s.atHome c l).2) s
  if a.whole.any fun l => s0.poison.contains l then (.stop (poisonStop a.tva), s0)
  else match s0.twinRead c f a true take with
  | (.error e, s1) => (.stop e, s1)
  | (.ok vals, s1) =>
    let zeroed := ((a.granules.filter take).flatMap a.granuleAt).foldl (fun (s : State) x => (s.setBytes x [0]).uncache (lineOf x)) s1
    let s2 := zeroed.putCounts a (ws.zipIdx.map fun (w, g) => if a.granules.contains g then 0 else w)
    let ready := a.granules.all fun g => countSt (word g) == 2
    let pred : List (RegKey × Word) := match f.b with | .pred n => [(.p n.toNat t, if ready then 1 else 0)] | _ => []
    (.ok (elemWrites f a.w [t] vals ++ pred), s2.recordAt c (lineOf a.cx.pa) (relLevel f))

/-- The cycle at which a thread's wait traps: that of its hold, or ADJTMO from now (R349). -/
def Ctx.adjDue (c : Ctx) (clk t : Nat) : Nat :=
  if lowThread (c.sel &&& ~~~c.done) == t && c.hold.isSome && c.arg != 0 && !c.heldAs .stall then c.arg
  else clk + if c.R.adjtmo == 0 then 1048576 else c.R.adjtmo

/-- One thread's adld: it waits until no touched granule is in use (DEDUCED, assumption log 65). -/
def State.adldThread (s : State) (c : Ctx) (f : Fields) (t : Nat) : Thr × State :=
  let va := c.addr s f.a 0 t
  s.twinAccess c f { block := f.d, tread := true, twrite := true, code := 3 } t va fun s1 a ws =>
    if a.granules.any fun g => countOf (ws.getD g 0) != 0 then
      let due := c.adjDue s.clk t
      if due ≤ s.clk then (.stop (.trap .twin 2 va 0), s1) else (.stop (.hold .adld due va), s1)
    else s1.consume c f t a ws

/-- adld (R348, R349). -/
def execAdld (f : Fields) (s : State) : Host.Outcome State Fault Refusal := issue .adld f (fun c s => s.threads c f fun s t => s.adldThread c f t) s
/-- ADLD_RETRY (R349): a waiting request is tried again, with the time that its thread has left. -/
def execAdldRetry (r : PathRef) (s : State) : Host.Outcome State Fault Refusal :=
  .next (match s.ctxAt r with
    | some c => if c.heldAs .adld then s.modP c fun p => { p with hold := p.hold.map fun h => { h with why := .retry } } else s
    | none => s)
/-- ADJ_EARLY (R349): a thread that has waited for ADJTMO traps. -/
def execAdjEarly (r : PathRef) (s : State) : Host.Outcome State Fault Refusal :=
  .next (match s.ctxAt r with
    | some c => if c.heldAs .adld && c.arg ≤ s.clk then s.trap c .twin 2 c.done ((c.hold.map fun h => h.va).getD 0) 0 else s
    | none => s)

/-- One thread's adforce. -/
def State.adforceThread (s : State) (c : Ctx) (f : Fields) (t : Nat) : Thr × State :=
  s.twinAccess c f { block := f.d, tread := true, twrite := true, code := 3 } t (c.addr s f.a 0 t) fun s1 a ws => s1.consume c f t a ws
/-- adforce (R350). -/
def execAdforce (f : Fields) (s : State) : Host.Outcome State Fault Refusal := issue .adforce f (fun c s => s.threads c f fun s t => s.adforceThread c f t) s

/-- One thread's adpeek. -/
def State.adpeekThread (s : State) (c : Ctx) (f : Fields) (t : Nat) : Thr × State :=
  s.twinAccess c f { block := f.d, tread := true, code := 0, cwrite := false } t (c.addr s f.a (offsetOf f.b) t) fun s1 a _ => match s1.twinRead c f a true fun _ => true with
    | (r, s2) => (thrOf f a.w [t] r, s2)
/-- adpeek (R350). -/
def execAdpeek (f : Fields) (s : State) : Host.Outcome State Fault Refusal := issue .adpeek f (fun c s => s.threads c f fun s t => s.adpeekThread c f t) s

/-! ## usecnt, useadj (R350, R351) -/

/-- The granule that holds an address. -/
def granuleOf (va : DWord) : Nat := va.toNat / 16 % 8

/-- One thread's usecnt. -/
def State.usecntThread (s : State) (c : Ctx) (f : Fields) (t : Nat) : Thr × State :=
  let va := c.addr s f.a 0 t
  s.twinAccess c f { elems := false, code := 0, cwrite := false } t va fun s1 a ws =>
    (.ok (elemWrites f 1 [t] [[BitVec.ofNat 32 (ws.getD (granuleOf va) 0)]]), s1.recordAt c (lineOf a.cx.pa) (relLevel f))
/-- usecnt (R350). -/
def execUsecnt (f : Fields) (s : State) : Host.Outcome State Fault Refusal := issue .usecnt f (fun c s => s.threads c f fun s t => s.usecntThread c f t) s

/-- A count word after a delta (R351). -/
def adjusted (w : Nat) (d : Int) : Nat :=
  let n := (clampInt 0 255 (countOf w + d)).toNat
  countWord n (if n != 0 then 1 else if countSt w == 1 then 2 else countSt w)

/-- One thread's useadj. -/
def State.useadjThread (s : State) (c : Ctx) (f : Fields) (t : Nat) : Thr × State :=
  let va := c.addr s f.d 0 t
  s.twinAccess c f { elems := false, code := 3 } t va fun s1 a ws =>
    let C := s1.ctx c.dev c.ctx
    if !c.priv && !(C.adjlo.toNat ≤ va.toNat && va.toNat < C.adjhi.toNat) then (.stop (.trap .privilege 9 va 0), s1)
    else
      let d := (c.val s1 f.a t).toInt
      let s2 := s1.putCounts a (ws.zipIdx.map fun (w, g) => if g == granuleOf va then adjusted w d else w)
      (.ok [], (s2.recordAt c (lineOf a.cx.pa) (relLevel f)).lowerOwn c (c.shares f))
/-- useadj (R351). -/
def execUseadj (f : Fields) (s : State) : Host.Outcome State Fault Refusal := issue .useadj f (fun c s => s.threads c f fun s t => s.useadjThread c f t) s

end Sys2Proof.Machine
end

