-- ==== Sys2Proof/Machine/Engine.lean ====
section
/-! DEFINITION. Sys2Proof/Machine/Engine.lean: how the engines reach memory: the shuttle, the tile fetch unit and the Jacquard read and write
elements through the context's translation with the checks of R205 (R216, R223, R241, R309, R345, R369). -/

namespace Sys2Proof.Machine

/-- What stops an engine: a paused link, for which it waits (R265), a translation fault, which pauses it, or a failure that ends its work. -/
inductive Halt where
  | wait
  | pause (va : DWord) (access reason : Nat)
  | bad (cls : TrapClass) (reason : Nat) (va : DWord) (info : Word)
  deriving DecidableEq, Repr

/-- The engine's place: device, core, context and the agent it is in records; `rw` says that every access needs both R and W (R358). -/
structure Port where
  dev   : Nat
  core  : Nat
  ctx   : Nat
  agent : Agent
  rw    : Bool := false
  deriving DecidableEq, Repr

/-- How a request of an engine fails (R264): the shuttle's is bulk, which may go where line-addressed traffic does not (R259). -/
def State.engLost (s : State) (p : Port) (pa : Nat) : Option Nat :=
  s.failOver (if p.agent == .shuttle then s.reachesBulk p.dev (devOf pa) else s.reaches p.dev (devOf pa)) p.dev pa 17

/-- One element's access checked in R205's order, with its A and D bits set; `fmt` says which formats a page may have. -/
def State.engAccess (s : State) (p : Port) (write : Bool) (z : Nat) (fmt : Nat → Bool) (va : DWord) : Nat → Except Halt Xlat × State
  | 0 => (.error (.pause va (if write then 1 else 0) 1), s)
  | k + 1 =>
    if !canonical va then (.error (.bad .memoryAccess 1 va 0), s)
    else if va.toNat % z != 0 then (.error (.bad .memoryAccess 2 va 0), s)
    else match s.translate p.dev p.ctx va with
    | (.error r, s1) => (.error (.pause va (if write then 1 else 0) r), s1)
    | (.ok x, s1) =>
      let no (c : Bool) (cls : TrapClass) (reason : Nat) : Option Halt := if c then some (.bad cls reason va 0) else none
      if s1.away p.dev x.pa then (.error .wait, s)
      else match no (pteSup x.pte) .memoryAccess 6 <|> no ((!write || p.rw) && !pteR x.pte) .memoryAccess 3 <|> no ((write || p.rw) && !pteW x.pte) .memoryAccess 4
          <|> no (!fmt (pteFmt x.pte)) .memoryAccess 7 <|> no (s1.unmapped x.pa) .memoryAccess 9
          <|> (s1.engLost p x.pa).map (fun r => .bad .fabric r va 0)
          <|> no (write && s1.refused p.dev p.ctx x.pa) .memoryAccess 15 with
      | some h => (.error h, s1)
      | none => match s1.touch p.dev p.ctx x write with
        | (true, s2) => (.ok x, s2)
        | (false, s2) => s2.engAccess p write z fmt va k

/-- The bytes of one element read through the core's write queue (R309); poison stops the engine (R416). -/
def State.engRead (s : State) (p : Port) (x : Xlat) (va : DWord) (z : Nat) : Except Halt (List Byte) × State :=
  match s.readBytes p.dev p.core x.pa z with
  | (bs, s1) => if s1.poisoned p.dev p.core x.pa then (.error (.bad .uncorrectable 1 va 0), s1) else (.ok bs, s1)

/-- The release records that an engine's write leaves: a tile operation follows the releases of its core's wefts (R310). -/
def State.engRecords (s : State) (p : Port) : List RelRec := if p.agent == .engine then (s.core p.dev p.core).records 0 else []

/-- The bytes of one element written at their home at once (R222, R309, R317): a merge that they force and that loses a partial stops the engine (R327). -/
def State.engPut (s : State) (p : Port) (x : Xlat) (va : DWord) (bs : List Byte) : Except Halt Unit × State :=
  match mmioOff x.pa with
  | some o => (.ok (), s.mmioWrite (devOf x.pa) o bs)
  | none =>
    let a := lineOf x.pa
    let s1 := s.publishLine p.dev p.core a
    let s2 := ((s1.applyCont p.dev p.core a (.bytes (x.pa % 128) bs)).uncache a).putRecs a (s1.engRecords p)
    if s1.mergeLost a then (.error (.bad .uncorrectable 1 va 0), s2) else (.ok (), s2)

/-- The checks of a count word's page (R340). -/
def State.countNo (s : State) (p : Port) (cva : DWord) (x : Xlat) : Option Halt :=
  if !pteR x.pte then some (.bad .memoryAccess 3 cva 0)
  else if !pteW x.pte then some (.bad .memoryAccess 4 cva 0)
  else if pteFmt x.pte != 0 then some (.bad .memoryAccess 7 cva 0)
  else if s.unmapped x.pa then some (.bad .memoryAccess 9 cva 0)
  else if s.away p.dev x.pa then some .wait
  else match s.engLost p x.pa with
    | some r => some (.bad .fabric r cva 0)
    | none => if s.refused p.dev p.ctx x.pa then some (.bad .memoryAccess 15 cva 0) else none

/-- A use count raised for one granule that a counting engine reads (R340, R345). -/
def State.raiseCount (s : State) (p : Port) (primal : Xlat) (va : DWord) : Except Halt Unit × State :=
  if !pteHasTwin primal.pte then (.ok (), s)
  else
    let cva := (s.ctx p.dev p.ctx).usebase + ((va.setWidth 55 >>> 4).setWidth 64 <<< 1)
    if !canonical cva then (.error (.bad .memoryAccess 1 cva 0), s)
    else match s.access p.dev p.ctx cva true fun x => (s.countNo p cva x).isNone with
    | (.error r, s1) => (.error (.pause cva 3 r), s1)
    | (.ok x, s1) => match s1.countNo p cva x with
      | some h => (.error h, s1)
      | none =>
        let s2 := (s1.publishLine p.dev p.core (lineOf x.pa)).reach p.dev p.core (lineOf x.pa)
        let w := leNat (s2.bytes x.pa 2)
        if s2.poisoned p.dev p.core x.pa then (.error (.bad .uncorrectable 1 cva 0), s2)
        else if countBad w then (.error (.bad .twin 3 va (BitVec.ofNat 32 w)), s2)
        else if countOf w == 255 then (.error (.bad .twin 1 va 0), s2)
        else (.ok (), (s2.setBytes x.pa (leBytes 2 (countWord (countOf w + 1) 1))).uncache (lineOf x.pa))

end Sys2Proof.Machine
end

