-- ==== Sys2Proof/Machine/Drafts.lean ====
section
/-! DEFINITION. Sys2Proof/Machine/Drafts.lean: drafts and their boxes, the entries of a command ring, and the moves of a command's elements
(R213 to R226) -/

namespace Sys2Proof.Machine

/-! ## Drafts (R213, R214, R216) -/

/-- A draft's fields. -/
structure Draft where
  base   : DWord
  valid  : Bool
  rank   : Nat
  fmt    : Nat
  esize  : Nat
  count  : Bool
  ctx    : Nat
  resv   : Bool
  fill   : Nat
  ext    : List Nat
  stride : List Nat
  box    : List Nat
  deriving DecidableEq, Repr

/-- The draft in 64 bytes. -/
def draftOf (bs : List Byte) : Draft :=
  let n (o k : Nat) : Nat := leNat ((bs.drop o).take k)
  let w := n 8 4
  { base := BitVec.ofNat 64 (n 0 8), valid := w.testBit 0, rank := bitsOf w 3 1, fmt := bitsOf w 7 4, esize := bitsOf w 10 8, count := w.testBit 11,
    ctx := bitsOf w 27 16, resv := bitsOf w 15 12 != 0 || bitsOf w 31 28 != 0 || n 0x3D 3 != 0, fill := n 12 4,
    ext := (List.range 5).map fun i => n (0x10 + 4 * i) 4, stride := (List.range 4).map fun i => n (0x24 + 5 * i) 5,
    box := (List.range 5).map fun i => n (0x38 + i) 1 }

/-- The element bytes. -/
def Draft.z (d : Draft) : Nat := if d.fmt == 0 then 2 ^ d.esize else fmtBytes d.fmt
/-- Elements of a box. -/
def Draft.count_ (d : Draft) : Nat := (d.box.take d.rank).foldl (fun n b => n * (b + 1)) 1
/-- Bytes of a box. -/
def Draft.bytes (d : Draft) : Nat := d.z * d.count_

/-- The checks of R214 in their order: a class and a reason; an operand reference asks for RANK 2 (`two`, R240). -/
def Draft.check (d : Draft) (ctx : Nat) (two : Bool) : Option (TrapClass × Nat) :=
  let tail (l : List Nat) (k : Nat) : Bool := (l.drop k).all fun x => x == 0
  if !d.valid || d.resv || (1 ≤ d.fmt && d.fmt ≤ 7) || d.rank == 0 || 5 < d.rank || (two && d.rank != 2) || (if d.fmt == 0 then 4 < d.esize else d.esize != 0) then
    some (.operand, 18)
  else if d.ctx != ctx then some (.memoryAccess, 13)
  else if !tail d.ext d.rank || !tail d.stride (d.rank - 1) || !tail d.box d.rank || d.stride.any fun x => x % d.z != 0 then some (.operand, 18)
  else if 2 ^ 20 < d.bytes then some (.operand, 18)
  else none

/-- The coordinates of element `e` of the box at an origin, in box order (R216). -/
def boxCoords : List Nat → List Int → Nat → List Int
  | b :: bs, o :: os, e => (o + (e % (b + 1) : Nat)) :: boxCoords bs os (e / (b + 1))
  | _, _, _ => []

/-- The address of the element at some coordinates, if they are in bounds (R216). -/
def Draft.at_ (d : Draft) (cs : List Int) : Option DWord :=
  if (cs.zip d.ext).all fun (c, x) => 0 ≤ c && c < (x : Int) then
    let steps := d.z :: d.stride
    some (d.base + BitVec.ofNat 64 ((cs.zip steps).foldl (fun n (c, st) => n + c.toNat * st) 0))
  else none

/-- The address of element `e` of a box, if it is in bounds. -/
def Draft.addr (d : Draft) (org : List Int) (e : Nat) : Option DWord := d.at_ (boxCoords (d.box.take d.rank) org e)

/-- FILL's bytes for one element (R216). -/
def Draft.fillBytes (d : Draft) : List Byte := ((List.replicate 4 (leBytes 4 d.fill)).flatten).take d.z

/-- The format that a page must have for the draft (R216). -/
def Draft.pageFmt (d : Draft) (fmt : Nat) : Bool := d.fmt == 0 || fmt == d.fmt

/-! ## Entries (R219) -/

/-- A number in an entry's bytes. -/
def Command.n (c : Command) (o k : Nat) : Nat := leNat ((c.bytes.drop o).take k)
/-- KIND. -/
def Command.kind (c : Command) : Nat := c.n 0 4 % 16
/-- FENCE. -/
def Command.fence (c : Command) : Bool := (c.n 0 4).testBit 4
/-- CWEN. -/
def Command.cwen (c : Command) : Bool := (c.n 0 4).testBit 5
/-- MODE. -/
def Command.mode (c : Command) : Nat := bitsOf (c.n 0 4) 7 6
/-- BOB. -/
def Command.bobbin (c : Command) : Nat := bitsOf (c.n 0 4) 13 8
/-- DRAFT. -/
def Command.handle (c : Command) : Nat := bitsOf (c.n 0 4) 31 16
/-- CWORD. -/
def Command.cwordAt (c : Command) : Nat := c.n 4 4 % 2 ^ 20
/-- ARG. -/
def Command.argField (c : Command) : Nat := c.n 0x1A 2
/-- ARG2. -/
def Command.arg2 (c : Command) : Nat := c.n 0x1C 4
/-- The box origin. -/
def Command.origin (c : Command) : List Int :=
  ((List.range 4).map fun i => (BitVec.ofNat 32 (c.n (8 + 4 * i) 4)).toInt) ++ [(BitVec.ofNat 16 (c.n 0x18 2)).toInt]
/-- Bobbins of a creel. -/
def Command.nb (c : Command) : Nat := c.argField % 64 + 1
/-- SDIM. -/
def Command.sdim (c : Command) : Nat := bitsOf c.argField 8 6

/-- Fields of a PERMX (R272). -/
def Command.logn (c : Command) : Nat := bitsOf (c.n 0x10 4) 5 0
/-- ESIZE. -/
def Command.esize (c : Command) : Nat := bitsOf (c.n 0x10 4) 10 8
/-- LBIT. -/
def Command.lbit (c : Command) : Nat := bitsOf (c.n 0x10 4) 21 16
/-- JBIT. -/
def Command.jbit (c : Command) : Nat := bitsOf (c.n 0x10 4) 27 24
/-- XTAG. -/
def Command.xtag (c : Command) : Nat := c.n 0x14 4

/-- The reserved fields and codes of an entry are zero and its values in range (R219 to R221, R272). -/
def Command.formatOk (c : Command) : Bool :=
  let w0 := c.n 0 4
  let k := c.kind
  let cw := !c.cwen || c.cwordAt % 8 == 0
  bitsOf (c.n 4 4) 31 20 == 0 && k ≤ 5 && cw &&
  (if k == 3 then
    w0 / 64 == 0 && bitsOf (c.n 0x10 4) 7 6 == 0 && bitsOf (c.n 0x10 4) 15 11 == 0 && bitsOf (c.n 0x10 4) 23 22 == 0 && bitsOf (c.n 0x10 4) 31 28 == 0
      && c.n 0x18 8 == 0 && 1 ≤ c.logn && c.logn ≤ 40 && c.esize ≤ 4 && c.lbit < c.logn && c.jbit ≤ 11 && c.n 8 8 % 2 ^ c.esize == 0
  else
    bitsOf w0 15 14 == 0 && c.mode != 3 && (!(k == 1 || k == 2) || c.mode ≤ 1)
      && (if k == 0 && c.mode == 2 then true else if k == 1 then c.argField / 512 == 0 else if k == 5 then c.argField / 2 == 0 else c.argField == 0)
      && (c.arg2 == 0 || k == 1 || k == 4 || k == 5))

/-- The origin of a command's box `j` (R221). -/
def Command.boxOrigin (c : Command) (d : Draft) (j : Nat) : List Int :=
  if c.kind == 1 then modAt (fun x => x + (j * (d.box.getD c.sdim 0 + 1) : Nat)) c.sdim c.origin else c.origin

/-! ## Lines of the destination (R232, R274, R408) -/

/-- The bobbin of the box under way. -/
def Command.boxBob (c : Command) : Nat := if c.kind == 1 then (c.bobbin + c.box % c.nb) % 64 else c.bobbin

/-- The index of the `k`-th position of a device's side (R273): bit `l` is the complement of the device's bit `j`. -/
def permPos (l bit k : Nat) : Nat := k / 2 ^ l * 2 ^ (l + 1) + bit * 2 ^ l + k % 2 ^ l
/-- The index of the `k`-th position of a command's side (R273). -/
def Group.permIdx (G : Group) (c : Command) (k : Nat) : Nat := permPos c.lbit (1 - G.dev / 2 ^ c.jbit % 2) k

/-- Where element `e` of the box under way goes: an address, an offset in the window or in the Beam; none where it is skipped (R216, R221, R273). -/
def Group.destOf (G : Group) (c : Command) (e : Nat) : Option Nat :=
  let d := draftOf c.draft
  if c.kind == 3 then some (c.n 8 8 + G.permIdx c e * 2 ^ c.esize)
  else if c.kind == 4 then some (c.arg2 + e * d.z)
  else if c.kind ≤ 2 && c.mode == 0 then some ((G.bobs.getD c.boxBob {}).off.toNat + e * d.z)
  else (if c.kind == 0 && c.mode == 2 then (draftOf c.draft2).addr c.origin e else d.addr (c.boxOrigin d c.box) e).map fun va => va.toNat

/-- The 128-byte line that the last byte before element `e` has gone to. -/
def Group.lineBefore (G : Group) (c : Command) : Nat → Option Nat
  | 0 => none
  | e + 1 => match G.destOf c e with
    | some a => some (a / 128)
    | none => G.lineBefore c e

/-- Element `e` begins another 128-byte line of the destination, or the box (DEDUCED, assumption log 87). -/
def Group.atLine (G : Group) (c : Command) (e : Nat) : Bool :=
  match G.destOf c e with
  | some a => G.lineBefore c e != some (a / 128)
  | none => e == 0

/-- The elements from `e` on, of `left` of the box, up to its next 128-byte boundary of the destination. -/
def Group.toLine (G : Group) (c : Command) : Nat → Nat → Nat
  | 0, _ => 0
  | left + 1, e => if left == 0 || G.atLine c (e + 1) then 1 else 1 + G.toLine c left (e + 1)

/-- The bytes of a line written one after another, a bit each, with `z` more; whether they are the whole line. -/
def coverStep (cover : Nat × Nat) (pa z : Nat) : (Nat × Nat) × Bool :=
  let m := (if cover.1 == lineOf pa then cover.2 else 0) ||| (2 ^ z - 1) * 2 ^ (pa % 128)
  ((lineOf pa, m), m == 2 ^ 128 - 1)

/-- A line that an engine has written whole is poisoned no more (R207, R415) (DEDUCED, assumption log 78). -/
def State.coverLine (s : State) (cover : Nat × Nat) (pa z : Nat) : State :=
  if (coverStep cover pa z).2 then s.setPoison (lineOf pa) false else s

/-! ## Elements (R221, R223 to R225) -/

/-- The port of a group's shuttle channel. -/
def Group.port (G : Group) : Port := { dev := G.dev, core := G.core, ctx := G.ctx, agent := .shuttle }

/-- An in-bounds element read; a counting command raises its granule once (R220, R345). -/
def State.drawElem (s : State) (G : Group) (c : Command) (d : Draft) (counts : Bool) (va : DWord) : Except Halt (List Byte) × Command × State :=
  match s.engAccess G.port false d.z d.pageFmt va 4 with
  | (.error h, s1) => (.error h, c, s1)
  | (.ok x, s1) => match s1.engRead G.port x va d.z with
    | (.error h, s2) => (.error h, c, s2)
    | (.ok bs, s2) =>
      let g := va.toNat / 16
      if counts && d.count && !c.counted.contains g && pteHasTwin x.pte then
        match s2.raiseCount G.port x va with
        | (.error h, s3) => (.error h, c, s3)
        | (.ok _, s3) => (.ok bs, { c with counted := c.counted ++ [g] }, s3)
      else (.ok bs, c, s2)

/-- Element `e` of the box under way: its bytes, FILL's out of bounds. -/
def State.boxElem (s : State) (G : Group) (c : Command) (d : Draft) (counts : Bool) (e : Nat) : Except Halt (List Byte) × Command × State :=
  match d.addr (c.boxOrigin d c.box) e with
  | none => (.ok d.fillBytes, c, s)
  | some va => s.drawElem G c d counts va

/-- The element under way stored in bounds; one out of bounds is skipped. -/
def State.storeElem (s : State) (G : Group) (c : Command) (d : Draft) (org : List Int) (bs : List Byte) : Option Halt × Command × State :=
  match d.addr org c.elem with
  | none => (none, { c with elem := c.elem + 1 }, s)
  | some va => match s.engAccess G.port true d.z d.pageFmt va 4 with
    | (.error h, s1) => (some h, c, s1)
    | (.ok x, s1) => match s1.engPut G.port x va bs with
      | (.error h, s2) => (some h, c, s2)
      | (.ok _, s2) => (none, { c with elem := c.elem + 1, done := c.done + d.z, cover := (coverStep c.cover x.pa d.z).1 }, s2.coverLine c.cover x.pa d.z)

/-- The window offset of an element of bobbin `b`, if the element fits (R222). -/
def Group.bobbinAt (G : Group) (b e z : Nat) : Option Nat :=
  let o := (G.bobs.getD b {}).off.toNat + e * z
  if G.spadsz < o + z then none else some o

/-- A bobbin of a group changed. -/
def State.modBob (s : State) (g b : Nat) (f : Bobbin → Bobbin) : State := s.modGroup g fun G => { G with bobs := modAt f b G.bobs }

/-- One element of a load into the command's bobbin (R224, R225). -/
def State.loadElem (s : State) (G : Group) (c : Command) (d : Draft) (b : Nat) (fill counts : Bool) : Option Halt × Command × State :=
  match (if fill then (.ok d.fillBytes, c, s) else s.boxElem G c d counts c.elem) with
  | (.error h, c1, s1) => (some h, c1, s1)
  | (.ok bs, c1, s1) =>
    match G.bobbinAt b c.elem d.z with
    | none => (some (.bad .memoryAccess 10 (BitVec.ofNat 64 ((G.bobs.getD b {}).off.toNat + c.elem * d.z)) 0), c1, s1)
    | some o =>
      let B := ((s1.group? G.uid).getD G).bobs.getD b {}
      let s2 := (s1.storeSpad G o bs).modBob G.uid b fun B => { B with remain := BitVec.ofNat 32 (B.remain.toNat - d.z) }
      (none, { c1 with elem := c.elem + 1, done := c.done + d.z, excess := c.excess || B.remain.toNat < d.z }, s2)

/-- One element of a drain of the command's bobbin. -/
def State.drainElem (s : State) (G : Group) (c : Command) (d : Draft) (b : Nat) : Option Halt × Command × State :=
  match G.bobbinAt b c.elem d.z with
  | none => (some (.bad .memoryAccess 10 (BitVec.ofNat 64 ((G.bobs.getD b {}).off.toNat + c.elem * d.z)) 0), c, s)
  | some o => s.storeElem G c d (c.boxOrigin d c.box) (s.spadBytes G o d.z)

/-- One element of a copy between drafts: read, then written (R221). -/
def State.copyElem (s : State) (G : Group) (c : Command) (d d2 : Draft) (counts : Bool) : Option Halt × Command × State :=
  match s.boxElem G c d counts c.elem with
  | (.error h, c1, s1) => (some h, c1, s1)
  | (.ok bs, c1, s1) => s1.storeElem G c1 d2 c.origin bs

/-- One element of a fill of a box. -/
def State.fillElem (s : State) (G : Group) (c : Command) (d : Draft) : Option Halt × Command × State := s.storeElem G c d c.origin d.fillBytes

/-- One element of a Beam write; a line rewritten whole is poisoned no more (R415). -/
def State.beamElem (s : State) (G : Group) (c : Command) (d : Draft) : Option Halt × Command × State :=
  match s.boxElem G c d false c.elem with
  | (.error h, c1, s1) => (some h, c1, s1)
  | (.ok bs, c1, s1) =>
    let a := beamAddr G.dev (c.arg2 + c.elem * d.z)
    (none, { c1 with elem := c.elem + 1, done := c.done + d.z, cover := (coverStep c.cover a d.z).1 }, (s1.setBytes a bs).coverLine c.cover a d.z)

/-- Elements moved one after another until one stops. -/
def runElems (one : State → Command → Option Halt × Command × State) : Nat → State → Command → Option Halt × Command × State
  | 0, s, c => (none, c, s)
  | n + 1, s, c =>
    match one s c with
    | (some h, c1, s1) => (some h, c1, s1)
    | (none, c1, s1) => runElems one n s1 c1

end Sys2Proof.Machine
end

