-- ==== Sys2Proof/Machine/Shuttle.lean ====
section
/-! DEFINITION. Sys2Proof/Machine/Shuttle.lean: the command ring, the commands and the bobbin instructions of group 0xB (R217 to R232, R272 to
R275), countb and relh (R94 to R96) -/

namespace Sys2Proof.Machine

/-! ## The ring (R217, R218) -/

/-- A trap that the shuttle raises on a group for a command (R222, R395). -/
def State.shuttleTrap (s : State) (g : Nat) (cls : TrapClass) (reason : Nat) (va : DWord) (info : Word) (seq : Word) (bytes : Nat) : State :=
  (s.modGroup g fun G => { G with ringDead := true }).later s.clk
    (.deferredTrap g { cls, reason, agent := .shuttle, precise := false, addr := va, info, seq, bytes })

/-- One entry read from a group's ring (R217); a ring that has run over traps (R218). -/
def State.readEntry (s : State) (g : Nat) (G : Group) : State :=
  let q := BitVec.ofNat 32 G.head
  if s.unread G == 0 then s
  else if G.nent < s.unread G then s.shuttleTrap g .operand 16 0 0 q 0
  else (s.setSpad G (G.ringOff + 4) (leBytes 4 (q + 1).toNat)).modGroup g fun H => { H with head := (q + 1).toNat, cmds := H.cmds ++ [s.entryOf G q] }

/-- The shuttle reads the next entry of a ring that it watches. -/
def State.ringRead (s : State) (g : Nat) : State :=
  match s.group? g with
  | none => s
  | some G => if G.life == .placed && G.watched then s.readEntry g G else s

/-- Every published entry read for a cancellation, which names unread ones too (R232); one of a ring that is not watched starts no earlier for it (DEDUCED,
assumption log 87). -/
def State.ringReadAll (s : State) (g : Nat) : State :=
  (List.range 256).foldl (fun s _ => match s.group? g with | some G => s.readEntry g G | none => s) s

/-! ## The life of a command -/

/-- A command of a group. -/
def State.command? (s : State) (g seq : Nat) : Option (Group × Command) :=
  match s.group? g with
  | none => none
  | some G => (G.cmds.find? fun c => c.seq.toNat == seq).map fun c => (G, c)

/-- A command replaced. -/
def State.putCmd (s : State) (g : Nat) (c : Command) : State :=
  s.modGroup g fun G => { G with cmds := modIf (fun x => x.seq == c.seq) (fun _ => c) G.cmds }

/-- A command has done its work: it lets its bobbin go and ends (R222, R224). -/
def State.finishCmd (s : State) (g : Nat) (c : Command) (status : Nat) : State :=
  let s1 := match c.bob with | some b => s.modBob g b fun B => { B with holder := none } | none => s
  (s1.putCmd g { c with bob := none, status := some status }).later s.clk (.commandEnd g c.seq.toNat)

/-- A command fails: its bobbin goes to FAULT, it ends FAULTED and the trap is raised on the group (R222, R224). -/
def State.failCmd (s : State) (g : Nat) (c : Command) (cls : TrapClass) (reason : Nat) (va : DWord) (info : Word) : State :=
  let s1 := match c.bob with | some b => s.modBob g b fun B => { B with st := .faulted, overrun := false } | none => s
  (s1.finishCmd g c 2).shuttleTrap g cls reason va info c.seq c.done

/-- A command stops at an element: it pauses for a page, waits for a link (R265), or fails (R222, R223). -/
def State.haltCmd (s : State) (g : Nat) (G : Group) (c : Command) : Halt → State
  | .pause va access reason => (s.raiseFault G.dev G.ctx va access .shuttle reason).putCmd g { c with pause := some (va.toNat / 65536) }
  | .bad cls reason va info => s.failCmd g c cls reason va info
  | .wait => s.putCmd g c

/-- The command may start (R220): the ones before it have started, FENCE waits for their ends, and at most 8 are active. -/
def Group.mayStart (G : Group) (c : Command) : Bool :=
  let before := G.cmds.takeWhile fun x => x.seq != c.seq
  !G.ringDead && (!c.quiet || G.ringcfg.getLsbD 28) && before.all (fun x => x.started || x.status.isSome) && (!c.fence || before.isEmpty) && (G.cmds.filter fun x => x.started).length < 8

/-- A draft read from the context's table and checked (R214), as an operand reference asks with `two` (R240); SUP of its page is ignored.  `view` says how the
reader sees the bytes at some places. -/
def State.readDraft (s : State) (G : Group) (h : Nat) (two : Bool) (view : List Nat → List Byte → List Byte := fun _ bs => bs) : Except Halt (List Byte) × State :=
  let va := (s.ctx G.dev G.ctx).dtbase + BitVec.ofNat 64 (64 * h)
  match s.access G.dev G.ctx va false fun x => pteR x.pte && !s.unmapped x.pa with
  | (.error r, s1) => (.error (.pause va 0 r), s1)
  | (.ok x, s1) =>
    if !pteR x.pte then (.error (.bad .memoryAccess 3 va 0), s1)
    else if s1.unmapped x.pa then (.error (.bad .memoryAccess 9 va 0), s1)
    else if s1.away G.dev x.pa then (.error .wait, s1)
    else match s1.failTo G.dev x.pa 17 with
    | some r => (.error (.bad .fabric r va 0), s1)
    | none =>
      let (now, s2) := s1.readBytes G.dev G.core x.pa 64
      let bs := view ((List.range 64).map fun i => x.pa + i) now
      if s2.poisoned G.dev G.core x.pa then (.error (.bad .uncorrectable 1 va 0), s2)
      else match (draftOf bs).check G.ctx two with
        | some (cls, reason) => (.error (.bad cls reason 0 0), s2)
        | none => (.ok bs, s2)

/-- The drafts that a command names read at its start, and the checks between them (R214, R221). -/
def State.readDrafts (s : State) (G : Group) (c : Command) : Except Halt Command × State :=
  match s.readDraft G c.handle false with
  | (.error h, s1) => (.error h, s1)
  | (.ok a, s1) =>
    let d := draftOf a
    let c1 : Command := { c with draft := a, started := true }
    let bad : Except Halt Command × State := (.error (.bad .operand 19 0 0), s1)
    if c.kind == 1 && d.rank ≤ c.sdim then bad
    else if c.kind == 4 && (c.arg2 % 128 != 0 || 2 ^ 31 < c.arg2 + d.bytes) then bad
    else if c.kind == 0 && c.mode == 2 then
      match s1.readDraft G c.argField false with
      | (.error h, s2) => (.error h, s2)
      | (.ok b, s2) =>
        if (draftOf b).z != d.z || (draftOf b).box != d.box then (.error (.bad .operand 19 0 0), s2)
        else (.ok { c1 with draft2 := b }, s2)
    else (.ok c1, s1)

/-- A running grid of the device reads the Beam (R201): a node that runs, or a group that is placed or saved. -/
def State.beamReaders (s : State) (d : Nat) : Bool :=
  s.regions.any fun R => R.dev == d && R.beam
    && ((R.nodes.any fun N => N.kind ≤ 1 && N.st == 2) || s.groups.any fun G => G.rid == R.rid && !G.copy)

/-- Commands named by a predicate cancelled (R232). -/
def State.cancelCmds (s : State) (g : Nat) (p : Command → Bool) : State :=
  s.modGroup g fun G => { G with cmds := G.cmds.map fun c => if p c && c.status.isNone then { c with cancel := true } else c }

/-- The commands that a CANCEL names: one, or with ALL those before it (R221). -/
def Group.names (G : Group) (c x : Command) : Bool :=
  if c.argField % 2 == 1 then (G.cmds.takeWhile fun y => y.seq != c.seq).any fun y => y.seq == x.seq else x.seq.toNat == c.arg2 && x.seq != c.seq

/-- A CANCEL starts: the commands that it names are cancelled, published ones that have not been read among them (R221, R232). -/
def State.startCancel (s : State) (g : Nat) (c : Command) : State :=
  let s1 := s.ringReadAll g
  match s1.group? g with
  | some G => (s1.cancelCmds g (G.names c)).putCmd g { c with started := true }
  | none => s1

/-- A command's start: its entry and its drafts are checked (R214, R220); a Beam write that finds a running reader writes nothing (R201, R221). -/
def State.startCmd (s : State) (g : Nat) (G : Group) (c : Command) : State :=
  if !G.mayStart c then s
  else if !c.formatOk then s.failCmd g c .operand 19 0 0
  else if c.cwen && G.spadsz < c.cwordAt + 8 then s.failCmd g c .memoryAccess 10 (BitVec.ofNat 64 c.cwordAt) 0
  else if c.kind == 3 then s.putCmd g { c with started := true }
  else if c.kind == 5 then s.startCancel g c
  else match s.readDrafts G c with
    | (.error h, s1) => s1.haltCmd g G c h
    | (.ok c1, s1) => if c.kind == 4 && s1.beamReaders G.dev then s1.finishCmd g c1 3 else s1.putCmd g c1

/-! ## Commands that nothing can serve (R424) -/

/-- A command still has a box to load into, or to drain from, a bobbin. -/
def Command.uses (c : Command) (load : Bool) (b : Nat) : Bool :=
  let dir := if load then (c.kind ≤ 2 && c.mode == 0) else (c.kind ≤ 1 && c.mode == 1)
  dir && (if c.kind == 1 then (List.range c.nb).any fun i => (c.arg2 == 0 || c.box + i < c.arg2) && (c.bobbin + (c.box + i) % c.nb) % 64 == b else c.bobbin == b)

/-- The bobbin that a command needs for its next box, and whether to load it (R221). -/
def Command.needs (c : Command) : Option (Bool × Nat) :=
  if c.bob.isSome then none else if c.uses true c.boxBob then some (true, c.boxBob) else if c.uses false c.boxBob then some (false, c.boxBob) else none

/-- The bobbin is in the state that a command waits for. -/
def Group.has (G : Group) (load : Bool) (b : Nat) : Bool := (G.bobs.getD b {}).st == (if load then .free else .full)

/-- Some command can bring a bobbin into the state that `x` waits for: its holder does, or another of `able` drains or loads it (R224, R424). -/
def Group.served (G : Group) (able : List Command) (x : Command) (load : Bool) (b : Nat) : Bool :=
  let B := G.bobs.getD b {}
  let other (ld : Bool) : Bool := able.any fun y => y.seq != x.seq && y.uses ld b
  match B.st with
  | .free => load || other true
  | .full => !load || other false
  | .filling => B.holder.isSome && (!load || other false)
  | .draining => B.holder.isSome && (load || other true)
  | .faulted => false

/-- A live command can go on, or start and go on, if those of `able` can: FENCE waits for the ends of the ones before it, and at most 8 are active (R220). -/
def Group.goesOn (G : Group) (live able : List Command) (x : Command) : Bool :=
  let before := live.takeWhile fun y => y.seq != x.seq
  let can (y : Command) : Bool := able.any fun z => z.seq == y.seq
  let act := before.filter fun y => y.started
  (x.started || (before.all (fun y => y.started || can y) && (!x.fence || before.all can) && (act.length < 8 || act.any can)))
    && (match x.needs with | none => true | some (load, b) => G.served able x load b)

/-- The live commands that can go on, found in `n` rounds. -/
def Group.ables (G : Group) (live : List Command) : Nat → List Command
  | 0 => []
  | n + 1 => live.filter (G.goesOn live (G.ables live n))

/-- A STREAM that only a cancellation ends. -/
def Command.endless (c : Command) : Bool := c.kind == 1 && c.arg2 == 0

/-- The live commands of a ring, published ones that have not been read among them, but for those that are being cancelled (R424). -/
def State.liveCmds (s : State) (G : Group) : List Command :=
  (G.cmds ++ s.unreadCmds G).filter fun x => x.status.isNone && !x.cancel && !x.endless

/-- A command of a group whose wefts have exited never ends by itself: an unbounded STREAM, or one that waits for a bobbin state that no live command can
bring about (R424) (DEDUCED, assumption log 61). -/
def State.stuck (s : State) (G : Group) (c : Command) : Bool :=
  let live := s.liveCmds G
  c.endless || (c.started && (match c.needs with | some (load, b) => !G.has load b | none => false)
    && !(G.ables live live.length).any fun x => x.seq == c.seq)

/-- A command is to be cancelled: `shcancel` or CANCEL names it, or it can never end by itself (R232, R424). -/
def State.ceases (s : State) (G : Group) (c : Command) : Bool := c.cancel || (G.exited && !G.copy && s.treadlesOff G && s.stuck G c)

/-- A command has no box under way: it has not started, or a load or drain has no bobbin. -/
def Command.between (c : Command) : Bool := !c.started || (c.bob.isNone && (c.uses true c.boxBob || c.uses false c.boxBob))

/-- A shootdown is pending for a context (R403): a `tlbi` that names it is held. -/
def State.shootPending (s : State) (d ctx : Nat) : Bool :=
  let names (G : Group) (h : Option Hold) : Bool := match h with | some h => h.why == .tlbi && (h.arg == 1 || G.ctx == ctx) | none => false
  s.groups.any fun G => G.dev == d && G.wefts.any fun w => w.paths.any fun p => names G p.hold

/-- The 64 KiB blocks of the memory that element `e` of the box under way is read from and written to (R223). -/
def Group.blocksOf (G : Group) (c : Command) (e : Nat) : List (Option Nat) :=
  let d := draftOf c.draft
  let block (a : Nat) : Nat := a / 65536
  let source := if c.kind == 0 || (c.kind == 1 && c.mode == 0) || c.kind == 4 then (d.addr (c.boxOrigin d c.box) e).map fun va => block va.toNat else none
  let dest := if c.kind == 3 || (c.kind ≤ 2 && c.mode != 0) then (G.destOf c e).map block else none
  [source, dest]

/-- Element `e` lies on in the blocks of the one before it, so that it needs no new translation of its page. -/
def Group.staysIn (G : Group) (c : Command) : Nat → Bool
  | 0 => false
  | e + 1 => G.blocksOf c (e + 1) == G.blocksOf c e

/-- How many of `n` elements from `e` on the command may move now: while a shootdown is pending, those before the next 64 KiB boundary (R223). -/
def State.mayMove (s : State) (G : Group) (c : Command) : Nat → Nat → Nat
  | 0, _ => 0
  | n + 1, e => if s.shootPending G.dev G.ctx && !G.staysIn c e then 0 else 1 + s.mayMove G c n (e + 1)

/-- The command stands at a 64 KiB boundary of its stream while a shootdown is pending: it pauses there (R223). -/
def State.shootHeld (s : State) (G : Group) (c : Command) : Bool := c.started && !c.between && c.kind ≤ 4 && s.mayMove G c 1 c.elem == 0

/-- One step of a command of a given kind and mode: a paused one stands still (R223), one to be cancelled ends at its next line of the destination, and any
other starts or moves on. -/
def State.onCommand (s : State) (g seq : Nat) (kind : Command → Bool) (go : State → Group → Command → State) : State :=
  match s.command? g seq with
  | none => s
  | some (G, c) =>
    if !kind c || c.status.isSome || G.life != .placed || c.pause.isSome || s.shootHeld G c then s
    else if s.ceases G c && (c.between || 5 ≤ c.kind || (c.kind == 3 && c.paired.isNone) || G.atLine c c.elem) then s.finishCmd g c 1
    else if !c.started then s.startCmd g G c
    else go s G c

/-- The elements up to the next line of the destination moved; the box's end follows. -/
def State.chunk (s : State) (g : Nat) (G : Group) (c : Command) (d : Draft) (one : State → Command → Option Halt × Command × State)
    (last : State → Command → State) : State :=
  match runElems one (s.mayMove G c (G.toLine c (d.count_ - c.elem) c.elem) c.elem) s c with
  | (some h, c1, s1) => s1.haltCmd g G c1 h
  | (none, c1, s1) => if d.count_ ≤ c1.elem then last s1 c1 else s1.putCmd g c1

/-- The next box of a stream, or the end of the command. -/
def State.nextBox (s : State) (g : Nat) (c : Command) : State :=
  let c1 : Command := { c with bob := none, elem := 0, excess := false, box := c.box + 1 }
  if c.kind == 1 && (c.arg2 == 0 || c.box + 1 < c.arg2) then s.putCmd g c1 else s.finishCmd g c1 0

/-- The end of a box loaded (R224, R225). -/
def State.loadOver (s : State) (g b : Nat) (c : Command) : State :=
  if c.excess then (s.modBob g b fun B => { B with st := .faulted, overrun := true }).finishCmd g c 4
  else (s.modBob g b fun B => { B with holder := none, st := if B.remain == 0 then .full else B.st }).nextBox g c

/-- One step of a load: the bobbin is taken once it is FREE, then filled chunk by chunk (R224). -/
def State.loadStep (s : State) (g : Nat) (G : Group) (c : Command) (fill : Bool) : State :=
  let d := draftOf c.draft
  let b := c.boxBob
  match c.bob with
  | none =>
    if (G.bobs.getD b {}).st != .free then s
    else (s.modBob g b fun B => { B with st := .filling, remain := B.expect, holder := some c.seq.toNat }).putCmd g { c with bob := some b, elem := 0, excess := false }
  | some b => s.chunk g G c d (fun s c => s.loadElem G c d b fill (s.regionOf G).counting) fun s c => s.loadOver g b c

/-- One step of a drain (R224). -/
def State.drainStep (s : State) (g : Nat) (G : Group) (c : Command) : State :=
  let d := draftOf c.draft
  let b := c.boxBob
  match c.bob with
  | none =>
    if (G.bobs.getD b {}).st != .full then s
    else (s.modBob g b fun B => { B with st := .draining, holder := some c.seq.toNat }).putCmd g { c with bob := some b, elem := 0 }
  | some b => s.chunk g G c d (fun s c => s.drainElem G c d b) fun s c => (s.modBob g b fun B => { B with holder := none, st := .free }).nextBox g c

/-! ## Ring and command events -/

/-- A started command of any kind but PERMX moves on. -/
def State.goCmd (s : State) (g : Nat) (G : Group) (c : Command) : State :=
  let counts := (s.regionOf G).counting
  let d := draftOf c.draft
  match c.kind, c.mode with
  | 0, 0 => s.loadStep g G c false
  | 0, 1 => s.drainStep g G c
  | 0, _ => s.chunk g G c d (fun s c => s.copyElem G c d (draftOf c.draft2) counts) fun s c => s.finishCmd g c 0
  | 1, 0 => s.loadStep g G c false
  | 1, _ => s.drainStep g G c
  | 2, 0 => s.loadStep g G c true
  | 2, _ => s.chunk g G c d (fun s c => s.fillElem G c d) fun s c => s.finishCmd g c 0
  | 4, _ => s.chunk g G c d (fun s c => s.beamElem G c d) fun s c => s.finishCmd g c 0
  | _, _ => if G.cmds.any (fun x => x.cancel && G.names c x) then s else s.finishCmd g c 0

/-- SHUTTLE_RING_READ (R217, R218). -/
def execShuttleRingRead (g : Nat) (s : State) : Host.Outcome State Fault Refusal := .next (s.ringRead g)
/-- COPY 00 (R221). -/
def execCopyDraftToBobbin (g seq : Nat) (s : State) : Host.Outcome State Fault Refusal :=
  .next (s.onCommand g seq (fun c => c.kind == 0 && c.mode == 0) (State.goCmd · g))
/-- COPY 01 (R221). -/
def execCopyBobbinToDraft (g seq : Nat) (s : State) : Host.Outcome State Fault Refusal :=
  .next (s.onCommand g seq (fun c => c.kind == 0 && c.mode == 1) (State.goCmd · g))
/-- COPY 10 (R221). -/
def execCopyDraftToDraft (g seq : Nat) (s : State) : Host.Outcome State Fault Refusal :=
  .next (s.onCommand g seq (fun c => c.kind == 0 && 2 ≤ c.mode) (State.goCmd · g))
/-- STREAM 00 (R221, R226). -/
def execStreamFill (g seq : Nat) (s : State) : Host.Outcome State Fault Refusal :=
  .next (s.onCommand g seq (fun c => c.kind == 1 && c.mode == 0) (State.goCmd · g))
/-- STREAM 01 (R221, R226). -/
def execStreamDrain (g seq : Nat) (s : State) : Host.Outcome State Fault Refusal :=
  .next (s.onCommand g seq (fun c => c.kind == 1 && c.mode != 0) (State.goCmd · g))
/-- FILL 00 (R221). -/
def execFillBobbin (g seq : Nat) (s : State) : Host.Outcome State Fault Refusal :=
  .next (s.onCommand g seq (fun c => c.kind == 2 && c.mode == 0) (State.goCmd · g))
/-- FILL 01 (R221). -/
def execFillDraft (g seq : Nat) (s : State) : Host.Outcome State Fault Refusal :=
  .next (s.onCommand g seq (fun c => c.kind == 2 && c.mode != 0) (State.goCmd · g))
/-- BEAMWR (R201, R221). -/
def execBeamwr (g seq : Nat) (s : State) : Host.Outcome State Fault Refusal :=
  .next (s.onCommand g seq (fun c => c.kind == 4) (State.goCmd · g))

/-- CANCEL (R221, R232): it ends once every command it has cancelled has ended. -/
def execCancel (g seq : Nat) (s : State) : Host.Outcome State Fault Refusal :=
  .next (s.onCommand g seq (fun c => 5 ≤ c.kind) (State.goCmd · g))

/-- COMMAND_END (R222): the completion word is written, then the CP unit falls, and the command is no more; with its last a COPY node ends, unless a failed
command's trap is on its way (R89, R90). -/
def execCommandEnd (g seq : Nat) (s : State) : Host.Outcome State Fault Refusal :=
  .next (match s.command? g seq with
    | none => s
    | some (G, c) => match c.status with
      | none => s
      | some st =>
        let s1 := s.cword G c st
        let s2 := match G.cpw.find? fun x => x.1 == c.seq with
          | some (_, w) => s1.modWeft g w fun wf => { wf with cp := wf.cp - 1 }
          | none => s1
        let s3 := s2.modGroup g fun G => { G with cmds := G.cmds.filter (fun x => x.seq != c.seq), cpw := G.cpw.filter fun x => x.1 != c.seq }
        if G.copy && G.cmds.length == 1 && !G.ringDead then (s3.dropGroup G).endNode G.rid G.node 3 else s3)

/-! ## PERMX (R272 to R275) -/

/-- The started PERMX of a partner device with the same XTAG and JBIT that no other has paired with (R273). -/
def State.partner (s : State) (d : Nat) (c : Command) : Option (Group × Command) :=
  s.groups.findSome? fun (H : Group) =>
    if H.dev == d && H.life == .placed then
      (H.cmds.find? fun (x : Command) =>
        x.kind == 3 && x.started && x.status.isNone && x.paired.isNone && !x.cancel && x.xtag == c.xtag && x.jbit == c.jbit).map fun x => (H, x)
    else none

/-- The two devices of an exchange reach each other, by any route (R259, R264). -/
def State.joined (s : State) (d p : Nat) : Bool := s.hasDev p && s.reachesBulk d p && s.reachesBulk p d

/-- PERMX_COMMAND (R272 to R274): it is checked, and pairs with its partner once that has come; a partner that is absent, or whose command has gone without
it, is lost. -/
def execPermxCommand (g seq : Nat) (s : State) : Host.Outcome State Fault Refusal :=
  .next (match s.command? g seq with
    | some (G, c) =>
      if c.paired.isNone then
        s.onCommand g seq (fun c => c.kind == 3) fun s G c =>
          let p := G.dev ^^^ 2 ^ c.jbit
          if !s.joined G.dev p then s.finishCmd g c 6
          else match s.partner p c with
            | some (H, e) => (s.putCmd g { c with paired := some (H.uid, e.seq) }).putCmd H.uid { e with paired := some (g, c.seq) }
            | none => s
      else match c.paired with
        | some (h, q) =>
          if c.status.isNone && c.pause.isNone && G.life == .placed && ((s.command? h q.toNat).bind fun x => if x.2.status.isNone then some x else none).isNone then
            s.finishCmd g c (if c.cancel then 1 else 6)
          else s
        | none => s
    | none => s)

/-- One side's element: its access, then its bytes. -/
def State.permElem (s : State) (G : Group) (c : Command) (va : DWord) : Except Halt (Xlat × List Byte) × State :=
  let z := 2 ^ c.esize
  match s.engAccess G.port false z (fun _ => true) va 4 with
  | (.error h, s1) => (.error h, s1)
  | (.ok _, s1) => match s1.engAccess G.port true z (fun _ => true) va 4 with
    | (.error h, s2) => (.error h, s2)
    | (.ok x, s2) => match s2.engRead G.port x va z with
      | (.error h, s3) => (.error h, s3)
      | (.ok bs, s3) => (.ok (x, bs), s3)

/-- One pair of elements exchanged, or the side that stops with why. -/
def State.permPair (s : State) (G H : Group) (c e : Command) (k : Nat) : Option (Bool × Halt) × State :=
  let at_ (G : Group) (c : Command) : DWord := BitVec.ofNat 64 (c.n 8 8 + G.permIdx c k * 2 ^ c.esize)
  match s.permElem G c (at_ G c) with
  | (.error h, s1) => (some (true, h), s1)
  | (.ok (x, xs), s1) => match s1.permElem H e (at_ H e) with
    | (.error h, s2) => (some (false, h), s2)
    | (.ok (y, ys), s2) => match s2.engPut G.port x (at_ G c) ys with
      | (.error h, s3) => (some (true, h), s3)
      | (.ok _, s3) => match s3.engPut H.port y (at_ H e) xs with
        | (.error h, s4) => (some (false, h), s4)
        | (.ok _, s4) => (none, s4)

/-- Pairs exchanged from the `k`-th until one stops. -/
def State.permRun (s : State) (G H : Group) (c e : Command) : Nat → Nat → Option (Bool × Halt) × Nat × State
  | 0, k => (none, k, s)
  | n + 1, k => match s.permPair G H c e k with
    | (some h, s1) => (some h, k, s1)
    | (none, s1) => s1.permRun G H c e n (k + 1)

/-- Two paired commands end, each with its status. -/
def State.finishPair (s : State) (g : Nat) (c : Command) (a h : Nat) (e : Command) (b : Nat) : State := (s.finishCmd g c a).finishCmd h e b

/-- One element that the other side has sent written on one side, whose partner moves on no more (R274): it is read where it stands. -/
def State.permOne (s : State) (G H : Group) (c e : Command) (k : Nat) : Option (Bool × Halt) × State :=
  let at_ (G : Group) (c : Command) : DWord := BitVec.ofNat 64 (c.n 8 8 + G.permIdx c k * 2 ^ c.esize)
  match s.engAccess H.port false (2 ^ e.esize) (fun _ => true) (at_ H e) 4 with
  | (.error h, s1) => (some (false, h), s1)
  | (.ok y, s1) => match s1.engRead H.port y (at_ H e) (2 ^ e.esize) with
    | (.error h, s2) => (some (false, h), s2)
    | (.ok ys, s2) => match s2.permElem G c (at_ G c) with
      | (.error h, s3) => (some (true, h), s3)
      | (.ok (x, _), s3) => match s3.engPut G.port x (at_ G c) ys with
        | (.error h, s4) => (some (true, h), s4)
        | (.ok _, s4) => (none, s4)

/-- Sent elements written on one side from the `k`-th until one stops. -/
def State.permTail (s : State) (G H : Group) (c e : Command) : Nat → Nat → Option (Bool × Halt) × Nat × State
  | 0, k => (none, k, s)
  | n + 1, k => match s.permOne G H c e k with
    | (some h, s1) => (some h, k, s1)
    | (none, s1) => s1.permTail G H c e n (k + 1)

/-- The elements that one side of `total` still has to its next 128-byte boundary (R274). -/
def Group.permLeft (G : Group) (c : Command) (total : Nat) : Nat := if G.atLine c c.elem then 0 else G.toLine c (total - c.elem) c.elem

/-- A side that has moved `k` elements. -/
def Command.moved (c : Command) (k : Nat) : Command := { c with elem := k, done := k * 2 ^ c.esize }

/-- One side of a stopped exchange goes on alone to its next 128-byte boundary, as far as the elements sent to it can be read and written (R274)
(DEDUCED, assumption log 87). -/
def State.permAlone (s : State) (G H : Group) (c e : Command) (total : Nat) : Option (Bool × Halt) × Command × State :=
  match s.permTail G H c e (G.permLeft c total) c.elem with
  | (h, k, s1) => (h, c.moved k, s1)

/-- A stop of an exchange where an access stops: both sides pause for a page; a side that faults fails, and its partner goes on to its next line (R274). -/
def State.permHalt (s : State) (G H : Group) (c e : Command) (total : Nat) : Bool × Halt → State
  | (_, .wait) => s
  | (true, .pause va a r) => s.haltCmd G.uid G c (.pause va a r)
  | (false, .pause va a r) => s.haltCmd H.uid H e (.pause va a r)
  | (true, h) => match s.permAlone H G e c total with
    | (_, e1, s1) => (s1.haltCmd G.uid G c h).finishCmd H.uid e1 6
  | (false, h) => match s.permAlone G H c e total with
    | (_, c1, s1) => (s1.haltCmd H.uid H e h).finishCmd G.uid c1 6

/-- A cancelled exchange (R274): each side goes on to its own next 128-byte boundary, together and then one alone, and both end. -/
def State.permStop (s : State) (G H : Group) (c e : Command) (total : Nat) : State :=
  let both := if c.elem == e.elem then min (G.permLeft c total) (H.permLeft e total) else 0
  match s.permRun G H c e both c.elem with
  | (some h, k, s1) => ((s1.putCmd G.uid (c.moved k)).putCmd H.uid (e.moved k)).permHalt G H (c.moved k) (e.moved k) total h
  | (none, _, s1) => match s1.permAlone G H (c.moved (c.elem + both)) (e.moved (e.elem + both)) total with
    | (some h, c1, s2) => ((s2.putCmd G.uid c1).putCmd H.uid (e.moved (e.elem + both))).permHalt G H c1 (e.moved (e.elem + both)) total h
    | (none, c1, s2) => match s2.permAlone H G (e.moved (e.elem + both)) c1 total with
      | (some (w, h), e1, s3) => ((s3.putCmd G.uid c1).putCmd H.uid e1).permHalt G H c1 e1 total (!w, h)
      | (none, e1, s3) => s3.finishPair G.uid c1 (if c.cancel then 1 else 6) H.uid e1 (if e.cancel then 1 else 6)

/-- An exchange stands still: a side is paused for a page (R274) or at a boundary (R223), or a link between the devices is (R265). -/
def State.permStill (s : State) (G H : Group) (c e : Command) : Bool :=
  c.pause.isSome || e.pause.isSome || s.shootHeld G c || s.shootHeld H e || s.paused G.dev H.dev 0 || s.paused H.dev G.dev 0

/-- One step of two paired commands (R273, R274): they stop where one is cancelled, end where the other is not reached, stand still while one is paused, and
else exchange their elements up to the next line of either side. -/
def State.exchange (s : State) (G H : Group) (c e : Command) : State :=
  if s.permStill G H c e then s
  else if !s.joined G.dev H.dev then s.finishPair G.uid c 6 H.uid e 6
  else if c.logn != e.logn || c.esize != e.esize || c.lbit != e.lbit then s.finishPair G.uid c 5 H.uid e 5
  else
    let total := 2 ^ (c.logn - 1)
    let left := total - c.elem
    if c.cancel || e.cancel then s.permStop G H c e total
    else match s.permRun G H c e (min (s.mayMove G c (G.toLine c left c.elem) c.elem) (s.mayMove H e (H.toLine e left e.elem) e.elem)) c.elem with
    | (stop, k, s1) =>
      let s2 := (s1.putCmd G.uid (c.moved k)).putCmd H.uid (e.moved k)
      match stop with
      | none => if total ≤ k then s2.finishPair G.uid (c.moved k) 0 H.uid (e.moved k) 0 else s2
      | some h => s2.permHalt G H (c.moved k) (e.moved k) total h

/-- PERMX_EXCHANGE (R273, R274). -/
def execPermxExchange (g seq : Nat) (s : State) : Host.Outcome State Fault Refusal :=
  .next (match s.command? g seq with
    | none => s
    | some (G, c) => match c.paired.bind fun x => s.command? x.1 x.2.toNat with
      | none => s
      | some (H, e) =>
        if c.kind == 3 && c.status.isNone && e.status.isNone && G.life == .placed && H.life == .placed then s.exchange G H c e else s)

/-- A started command of a group that is being killed moved to its next 128-byte boundary, unless it is paused (R232, R429) (DESIGN CHOICE, assumption log 87). -/
def State.stopAtLine (s : State) (g : Nat) (seq : Word) : State :=
  match s.command? g seq.toNat with
  | none => s
  | some (G, c) =>
    if !c.started || c.status.isSome || c.pause.isSome then s
    else if c.kind == 3 then
      match c.paired.bind fun x => s.command? x.1 x.2.toNat with
      | some (H, e) => if e.status.isNone then s.exchange G H c e else s
      | none => s
    else if c.between || G.atLine c c.elem || 5 ≤ c.kind then s
    else s.goCmd g G c

/-- The commands of a group that is being killed cancelled, and those that move brought to their next 128-byte boundary (R232, R429). -/
def State.stopCmds (s : State) (g : Nat) : State :=
  match s.group? g with
  | none => s
  | some G => if G.life != .placed then s else (G.cmds.map fun c => c.seq).foldl (fun s q => s.stopAtLine g q) (s.cancelCmds g fun _ => true)

/-! ## The instructions (R227 to R232) -/

/-- The group of an instruction as it stands. -/
def State.groupNow (s : State) (c : Ctx) : Group := (s.group? c.r.g).getD c.G

/-- An instruction that acts once per path on a bobbin: its number, which a held `bwait` keeps, is checked first. -/
def State.withBobbin (s : State) (c : Ctx) (f : Fields) (go : Nat → Bobbin → State) : State :=
  let n := if c.heldAs .bwait then c.arg else (c.once s f.a).toNat
  if c.sel == 0 then s.finishIdle c
  else if 63 < n then s.trap c .operand 11
  else go n ((s.groupNow c).bobs.getD n {})

/-- The reason of a bobbin in FAULT (R225). -/
def Bobbin.why (b : Bobbin) : Nat := if b.overrun then 1 else 2

/-- The state that a `bwait` or `bset` names. -/
def bobStateOf (f : Fields) : BobState := match modLo f.mod with | 0 => .free | 1 => .filling | 2 => .full | _ => .draining

/-- bwait (R229, R225). -/
def execBwait (f : Fields) (s : State) : Host.Outcome State Fault Refusal :=
  issue .bwait f (fun c s => s.withBobbin c f fun n b =>
    if b.st == .faulted then s.trap c .bobbin b.why
    else if b.st == bobStateOf f then s.finishLate c []
    else s.holdP c .bwait n 0) s
/-- bset (R230): a release of the path's earlier writes at group scope, which raises the core's epoch (R310). -/
def execBset (f : Fields) (s : State) : Host.Outcome State Fault Refusal :=
  issue .bset f (fun c s => s.withBobbin c f fun n b =>
    if b.st == .faulted then s.trap c .bobbin b.why
    else if b.holder.isSome || b.st == .filling || b.st == .draining then s.trap c .bobbin 3
    else ((s.raiseEpoch c.dev c.core).modBob c.r.g n fun b => { b with st := bobStateOf f }).finishLate c []) s
/-- bexp (R231). -/
def execBexp (f : Fields) (s : State) : Host.Outcome State Fault Refusal :=
  issue .bexp f (fun c s => s.withBobbin c f fun n b =>
    let v := c.val64 s f.b (lowThread c.sel)
    if (s.groupNow c).spadsz < (loWord v).toNat + (hiWord v).toNat then s.trap c .bobbin 4
    else if b.holder.isSome then s.trap c .bobbin 3
    else (s.modBob c.r.g n fun b => { b with st := .free, overrun := false, off := loWord v, expect := hiWord v, remain := hiWord v }).finishLate c []) s
/-- The value of `bstat` (R231). -/
def Bobbin.word (b : Bobbin) : Nat := bobCode b.st + (if b.st == .faulted && b.overrun then 8 else 0) + 2048 * (b.remain.toNat % 2 ^ 21)
/-- bstat (R231). -/
def execBstat (f : Fields) (s : State) : Host.Outcome State Fault Refusal :=
  issue .bstat f (fun c s => s.withBobbin c f fun _ b => s.finishLate c (c.laneWrites f.d fun _ => b.word)) s

/-- An entry written at TAIL by a weft, if the ring has room (R228); EN is tested before the path is held, and not again.
The write of TAIL is a release at group scope, which raises the core's epoch (R310). -/
def State.publishEntry (s : State) (c : Ctx) (f : Fields) : State :=
  let G := s.groupNow c
  let k := match f.a with | .scalar n => n.toNat | _ => 0
  let q := s.ringTail G
  if !c.heldAs .cmdw && !G.ringcfg.getLsbD 28 then s.trap c .operand 17
  else if (q - s.ringHead G).toNat < G.nent then
    let entry := (List.range 8).flatMap fun i => leBytes 4 (c.s s (k + i)).toNat
    let s1 := ((s.raiseEpoch c.dev c.core).setSpad G (G.entryAt q) entry).setSpad G G.ringOff (leBytes 4 (q + 1).toNat)
    (s1.modG c fun G => { G with cpw := G.cpw ++ [(q, c.r.w)] }).finishLate c (match f.d with | .none => [] | d => c.laneWrites d fun _ => q.toNat)
  else s.holdP c .cmdw 0 0

/-- cmdw (R228). -/
def execCmdw (f : Fields) (s : State) : Host.Outcome State Fault Refusal :=
  issue .cmdw f (fun c s => if c.sel == 0 then s.finishIdle c else s.publishEntry c f) s
/-- permx (R275). -/
def execPermx (f : Fields) (s : State) : Host.Outcome State Fault Refusal :=
  issue .permx f (fun c s =>
    let k := match f.a with | .scalar n => n.toNat | _ => 0
    if c.sel == 0 then s.finishIdle c
    else if (c.s s k).toNat % 16 != 3 then s.trap c .operand 19
    else s.publishEntry c f) s

/-- A command lies in a range of sequence numbers, modulo 2^32. -/
def inSeqs (a n : Nat) (c : Command) : Bool := (c.seq - BitVec.ofNat 32 a).toNat < n

/-- shcancel (R232): the hold keeps the range that it names, and waits for the commands of it that this or another cancellation has named. -/
def execShcancel (f : Fields) (s : State) : Host.Outcome State Fault Refusal :=
  issue .shcancel f (fun c s =>
    if c.sel == 0 then s.finishIdle c
    else if c.heldAs .shcancel then
      if (s.groupNow c).cmds.any (fun x => x.cancel && inSeqs (c.arg % 2 ^ 32) (c.arg / 2 ^ 32) x) then s else s.finishLate c []
    else
      let a := (c.once s f.a).toNat
      let b := (c.once s f.b).toNat
      if 256 < b then s.trap c .operand 11
      else
        let s1 := s.ringReadAll c.r.g
        let cmds := (s1.groupNow c).cmds
        let (a, n) : Nat × Nat := if b == 0 then
            (match cmds with | x :: _ => (x.seq.toNat, (BitVec.ofNat 32 (s1.groupNow c).head - x.seq).toNat) | [] => (0, 0))
          else (a, b)
        let s2 := s1.cancelCmds c.r.g (inSeqs a n)
        if cmds.any (inSeqs a n) then s2.holdP c .shcancel (a + 2 ^ 32 * n) 0 else s2.finishLate c []) s

/-! ## countb, relh (R94 to R96) -/

/-- The word of a count slot taken to its home for a change (R94, R96): its value and the state, or why the change stops. -/
def State.slotWord (s : State) (c : Ctx) (d ctx : Nat) (va : DWord) : Except Stop (Nat × Xlat) × State :=
  match s.access d ctx va true fun x => !s.refused d ctx x.pa with
  | (.error r, s1) => (.error (.stall va 3 r), s1)
  | (.ok x, s1) =>
    let s2 := (s1.publishLine c.dev c.core (lineOf x.pa)).reach c.dev c.core (lineOf x.pa)
    if s2.poisoned c.dev c.core x.pa then (.error (poisonStop va), s2) else (.ok (leNat (s2.bytes x.pa 4), x), s2)

/-- The word of a count slot changed. -/
def State.putSlot (s : State) (pa v : Nat) : State := (s.setBytes pa (leBytes 4 v)).uncache (lineOf pa)

/-- One thread's countb; a negative immediate index is its unsigned value (DESIGN CHOICE, assumption log 70). -/
def State.countThread (s : State) (c : Ctx) (f : Fields) (t : Nat) : Thr × State :=
  let k := (c.val s f.a t).toNat
  if c.R.nslots ≤ k then (.stop (.trap .operand 8 0 0), s)
  else
    let va := c.R.cslots + BitVec.ofNat 64 (4 * k)
    match s.slotWord c c.dev c.ctx va with
    | (.error e, s1) => (.stop e, s1)
    | (.ok (v, x), s1) =>
      s1.overRight c t [(va, x.pa)] fun s => (.ok [], (s.putSlot x.pa (v + (c.val s f.b t).toNat)).lowerOwn c 1)

/-- countb (R96). -/
def execCountb (f : Fields) (s : State) : Host.Outcome State Fault Refusal :=
  issue .countb f (fun c s =>
    if c.sel == 0 then s.finishIdle c
    else (runThreads (fun s t => s.countThread c f t) (c.todo f) { s, done := c.done }).finish c) s

/-- The node address that a scalar reference names. -/
def Ctx.nodeRef (c : Ctx) (s : State) (f : Fields) : DWord := c.addr s f.a 0 (lowThread c.sel)

/-- A held node released: its slot is taken, LEN is set, HELD is cleared and the node may become READY (R96). -/
def State.relhNode (s : State) (c : Ctx) (R : Region) (n slot : Nat) : State :=
  match s.slotWord c R.dev R.ctx (R.cslots + BitVec.ofNat 64 (4 * slot)) with
  | (.error (.stall va a e), s1) => s1.stall c va a e 0
  | (.error (.trap cls reason va _), s1) => s1.trap c cls reason 0 va
  | (.error (.hold ..), s1) => s1
  | (.ok (v, x), s1) =>
    let s2 := if s1.refused R.dev R.ctx x.pa then s1.failLater c .memoryAccess 15 c.sel (R.cslots + BitVec.ofNat 64 (4 * slot)) else s1.putSlot x.pa 0
    let s3 := s2.modNode R.rid n fun N => { N with len := v, held := false }
    let s4 := (s3.dput R.dev R.ctx (R.nodeAddr n + 0x10) 31 0 v).dput R.dev R.ctx (R.nodeAddr n) 4 4 0
    (s4.readyCheck R.rid n).finishLate c []

/-- A `relh` of a node that no dobby holds, since its region has not been started or its start is paused or has failed: by its descriptor in memory (R96). -/
def State.relhUnread (s : State) (c : Ctx) (R : Region) (n : Nat) : State :=
  let s1 := s.dneed R.dev R.ctx (R.nodeAddr n) 64
  let x := s1.vwords R.dev R.ctx (R.nodeAddr n) 8
  let N := nodeOf n x []
  if R.killed || !N.held || bitsOf (x.getD 0 0) 11 8 != 0 then s1.trap c .operand 9 else s1.relhNode c R n N.slot

/-- relh (R96). -/
def execRelh (f : Fields) (s : State) : Host.Outcome State Fault Refusal :=
  issue .relh f (fun c s =>
    if c.sel == 0 then s.finishIdle c
    else match s.nodeInTree c.R.rid (c.nodeRef s f) with
      | none =>
        let q := s.unstarted c.R (c.nodeRef s f)
        match q.1 with
        | none => q.2.trap c .operand 3
        | some (R, n) => q.2.relhUnread c R n
      | some (r, n) => match s.region? r with
        | none => s.trap c .operand 3
        | some R => match R.node? n with
          | none => s.relhUnread c R n
          | some N => if R.killed || !N.held || N.st != 0 then s.trap c .operand 9 else s.relhNode c R n N.slot) s

end Sys2Proof.Machine
end

