-- ==== Sys2Proof/Machine/HostSide.lean ====
section
/-! DEFINITION. Sys2Proof/Machine/HostSide.lean: storage errors, the host's registers and memory, boot, bring-up, sleep and limits (R199, R201,
R415, R431 to R440) -/

namespace Sys2Proof.Machine

/-! ## Storage errors (R415) -/

/-- The number of a storage kind; its counters are words 2 k (corrected) and 2 k + 1 (uncorrectable) of ERR (DESIGN CHOICE, assumption log 9). -/
def storageNo : Storage → Nat
  | .core => 0 | .cleanLine => 1 | .dirtyLine => 2 | .hbm => 3 | .beam => 4 | .directory => 5

/-- An error counted. -/
def State.countError (s : State) (d k : Nat) : State := s.modDev d fun D => { D with err := Sparse.put D.err k (Sparse.get D.err k + 1) }

/-- CORRECTABLE_ERROR (R415). -/
def execCorrectableError (dev : Nat) (k : Storage) (s : State) : Host.Outcome State Fault Refusal := .next (s.countError dev (2 * storageNo k))

/-- The device stops, and its host is told (R439). -/
def State.haltDev (s : State) (d : Nat) : State := { s.modDev d (fun D => { D with st := 8 }) with msix := s.msix ++ [(d, 0)] }

/-- UNCORRECTABLE_ERROR (R415, R417): `at_` names the owning group of core storage, or a physical address.  Of a line in A it takes the device's partials,
which the merge of R327 misses. -/
def execUncorrectableError (dev : Nat) (k : Storage) (at_ : Nat) (s : State) : Host.Outcome State Fault Refusal :=
  .next (
    let s1 := s.countError dev (2 * storageNo k + 1)
    match k with
    | .core => match s1.group? at_ with
      | some G => if G.dev == dev then s1.takeTrap at_ { cls := .uncorrectable, reason := 2, precise := false } else s1
      | none => s1
    | .cleanLine => s1
    | .dirtyLine =>
      if (s1.line (lineOf at_)).st == .a then
        s1.modLine (lineOf at_) fun L => { L with holders := modIf (fun h => L.holderDev h.pos == dev) (fun h => { h with lost := true }) L.holders }
      else s1.setPoison (lineOf at_) true
    | .hbm | .beam => s1.setPoison (lineOf at_) true
    | .directory => s1.haltDev dev)

/-! ## Sleep and wake (R199, R433, R439) -/

/-- Every Accrue line of a device, and every one that holds a partial of it, merged (R326, R433). -/
def State.mergeAll (s : State) (d : Nat) : State :=
  (s.lines.filter fun L => L.st == .a && (devOf L.addr == d || L.holders.any fun h => L.holderDev h.pos == d)).foldl (fun s L => s.mergeLine L.addr) s

/-- SLEEP from READY: the cores publish, Accrue lines are merged, and the L2 is clean. -/
def State.sleepDev (s : State) (d : Nat) : State :=
  if (s.dev d).st != 6 then s
  else
    let s1 := (s.cores.filter fun k => k.dev == d).foldl (fun s k => s.publishAll k.dev k.n) s
    ((s1.drain d).mergeAll d).modDev d fun D => { D with st := 7 }

/-- The next generation at a wake. -/
def State.wakeDev (s : State) (d : Nat) (discard : Bool) : State :=
  if (s.dev d).st != 7 then s
  else s.modDev d fun D =>
    let g := D.l2gen + 1
    { D with st := 6, l2gen := g, l2floor := if discard || g == 0 then g else D.l2floor }

/-- WAKE_KEEP. -/
def execWakeKeep (dev : Nat) (s : State) : Host.Outcome State Fault Refusal := .next (s.wakeDev dev false)
/-- WAKE_DISCARD. -/
def execWakeDiscard (dev : Nat) (s : State) : Host.Outcome State Fault Refusal := .next (s.wakeDev dev true)
/-- SLEEP_REQUEST. -/
def execSleepRequest (dev : Nat) (s : State) : Host.Outcome State Fault Refusal := .next (s.sleepDev dev)

/-! ## READYPOST, drafts, attestation (R435, R436, R438) -/

/-- The host posts a node of a context (R435): it becomes READY, or POSTERR is set (DEDUCED, assumption log 53). -/
def State.readypost (s : State) (d c : Nat) (va : DWord) : State :=
  if (s.dev d).st != 6 then s
  else
    let refuse : State := s.modDev d fun D => { D with mode := Sparse.put D.mode (4 * c + 2) (Sparse.get D.mode (4 * c + 2) ||| 0x10000) }
    match s.nodeAt d c va with
    | none => refuse
    | some (r, n) => match s.region? r, s.node? r n with
      | some R, some N =>
        if s.modeBit d c 1 && R.st == 1 && !R.killed && N.st == 0 && !N.isRival then (s.modNode r n fun N => { N with readyAt := s.clk }).setNodeSt r n 1
        else refuse
      | _, _ => refuse

/-- READYPOST. -/
def execReadypost (dev ctx : Nat) (node : DWord) (s : State) : Host.Outcome State Fault Refusal := .next (s.readypost dev ctx node)

/-- The command word of a staging slot answered: its status in bits 30:29, and GO cleared (R436). -/
def State.draftStatus (s : State) (d slot st : Nat) : State :=
  s.modDev d fun D =>
    let w := leNat (Sparse.range D.draftq (128 * slot) 4)
    { D with draftq := Sparse.putRange D.draftq (128 * slot) (leBytes 4 (w % 2 ^ 29 + st * 2 ^ 29)) }

/-- A GO command word: the staged draft goes to the context's draft table (R436). -/
def State.draftWrite (s : State) (d slot : Nat) (byHost : Bool) : State :=
  let D := s.dev d
  let w := leNat (Sparse.range D.draftq (128 * slot) 4)
  let c := bitsOf w 27 16
  if D.st != 6 || !w.testBit 31 then s
  else if s.modeBit d c 2 != byHost then s.draftStatus d slot 1
  else
    let va := (s.ctx d c).dtbase + BitVec.ofNat 64 (64 * bitsOf w 15 0)
    match s.access d c va true fun x => pteW x.pte && !s.unmapped x.pa && !s.refused d c x.pa with
    | (.error _, s1) => s1.draftStatus d slot 2
    | (.ok x, s1) =>
      if !pteW x.pte || s1.unmapped x.pa || s1.refused d c x.pa then s1.draftStatus d slot 2
      else
        let s2 := s1.settleHome d x.pa
        ((s2.setBytes x.pa (Sparse.range D.draftq (128 * slot + 0x40) 64)).uncache (lineOf x.pa)).draftStatus d slot 0

/-- DRAFT_WRITE. -/
def execDraftWrite (dev slot : Nat) (byHost : Bool) (s : State) : Host.Outcome State Fault Refusal := .next (s.draftWrite dev slot byHost)

/-- The report's bytes 0x100 to 0x1C7 (R438). -/
def Device.report (D : Device) : List Byte :=
  Sparse.range D.attest 0 64 ++ (D.runDigest ++ List.replicate 64 0).take 64 ++ leBytes 4 D.runVersion ++ leBytes 4 D.devid
  ++ (edPublic D.identity).take 57 ++ List.replicate 7 0

/-- An attestation report written, and the request cleared (R438). -/
def State.attest (s : State) (d : Nat) : State :=
  s.modDev d fun D =>
    let r := D.report
    let a := Sparse.putRange D.attest 0x100 (r ++ (edSign D.identity (digest (r.take 193))).take 114)
    { D with attest := Sparse.putRange a 0xFF0 (List.replicate 8 0) }

/-- ATTEST_REQUEST. -/
def execAttestRequest (dev : Nat) (s : State) : Host.Outcome State Fault Refusal := .next (s.attest dev)

/-! ## The MMIO window (R432 to R438) -/

/-- What a device does on account of bytes written to a word of its window: sleep and wake (R433), READYPOST (R435), the write of a draft whose command word
has GO (R436), a link's command (R435), an attestation (R438). -/
def State.mmioAct (s : State) (d o : Nat) (bs : List Byte) (byHost : Bool) : State :=
  let D := s.dev d
  let w := o / 8 * 8
  let put := leNat ((List.replicate (o % 8) 0 ++ bs).take 8)
  if w == 0x10 then
    (match put % 4 with
    | 1 => s.wakeDev d false
    | 2 => s.wakeDev d true
    | 3 => s.sleepDev d
    | _ => s)
  else if 0x20000 ≤ o && o < 0x40000 && w % 32 == 24 && D.st == 6 then s.readypost d ((w - 0x20000) / 32) (BitVec.ofNat 64 put)
  else if 0x40000 ≤ o && o < 0x42000 && D.st == 6 && (o - 0x40000) % 128 < 4 then s.draftWrite d ((o - 0x40000) / 128) byHost
  else if w == 0x60FF0 then (if leNat (Sparse.range D.attest 0xFF0 8) == 1 then s.attest d else s)
  else if 0x100000 ≤ o && o < 0x127000 && w % 4096 == 0 then
    (match D.mmioHeld w % 4 with
    | 1 => s.linkCommand d ((o - 0x100000) / 4096) false
    | 2 => s.linkCommand d ((o - 0x100000) / 4096) true
    | _ => s)
  else s

/-- A write of up to eight bytes within one 64-bit word of a device's window. -/
def State.mmioPut (s : State) (d o : Nat) (bs : List Byte) (byHost : Bool) : State :=
  (s.modDev d fun D => D.mmioSet o bs).mmioAct d o bs byHost

/-- MMIO_REGISTER_WRITE (R432): a write of `size` bytes at an offset of the window by the host; or what a device does after such a write by a mapping with SUP
and CPOL 11, whose registers already stand written. -/
def execMmioRegisterWrite (dev off size : Nat) (v : DWord) (byHost : Bool) (s : State) : Host.Outcome State Fault Refusal :=
  let bs := leBytes (min size (8 - off % 8)) v.toNat
  .next (if byHost then s.mmioPut dev off bs byHost else s.mmioAct dev off bs byHost)

/-! ## The host's accesses to memory (R431, R201) -/

/-- The host port trained to CXL, which is coherent; PCIe is not (R431). -/
def Device.coherent (D : Device) : Bool := match D.gen with | some .cxl20 | some .cxl31 | some .cxl32 => true | _ => false

/-- A host write of bytes at their homes: under CXL line by line with what coherence asks for, under PCIe as it comes (R431). -/
def State.hostPut (s : State) (d : Nat) : Nat → List Byte → State
  | _, [] => s
  | a, b :: bs =>
    if (s.dev d).coherent then ((((s.force 4096 0 (lineOf a)).mergeLine (lineOf a)).setBytes a [b]).uncache (lineOf a)).hostPut d (a + 1) bs
    else (s.setBytes a [b]).hostPut d (a + 1) bs

/-- The poison of the lines that a write of `n` bytes rewrites whole cleared (R207, R415). -/
def State.cleanse (s : State) (a n : Nat) : State := { s with poison := s.poison.filter fun l => !(a ≤ l && l + 128 ≤ a + n) }

/-- A host read of `n` bytes: what it must see is published, and Accrue episodes are merged (R311, R324). -/
def State.hostGet (s : State) (a : Nat) : Nat → State
  | 0 => s
  | n + 1 => ((s.force 4096 0 (lineOf (a + n))).mergeLine (lineOf (a + n))).hostGet a n

/-- HOST_MEMORY_ACCESS (R431, R201): once the host port has trained, bytes `w` stored at a device-local address, or `n` bytes read, which under PCIe asks for
nothing; a Beam write is admitted only when no grid with BEAM_READ runs. -/
def execHostMemoryAccess (dev : Nat) (addr : Nat) (w : List Byte) (n : Nat) (s : State) : Host.Outcome State Fault Refusal :=
  .next (
    let a := dev * 2 ^ 44 + addr % 2 ^ 44
    let st := (s.dev dev).st
    let ok := s.hasDev dev && 4 ≤ st && st ≤ 6 && addr + max n w.length ≤ 2 ^ 44
    let inZone (z : Zone) : Bool := zoneOf addr == z && (w.isEmpty || zoneOf (addr + w.length - 1) == z)
    if !ok then s
    else if w.isEmpty then (if (s.dev dev).coherent then s.hostGet a n else s)
    else if inZone .hbm || inZone .tier2 || inZone .spad then (s.hostPut dev a w).cleanse a w.length
    else if inZone .beam && !s.beamReaders dev then (s.hostPut dev a w).cleanse a w.length
    else s)

/-! ## Boot and bring-up (R437, R439) -/

/-- The fields of an image: version, length, digest, signature and body (R437; widths: PRESUMED, assumption log 10). -/
def imageOk (D : Device) (img : List Byte) : Bool :=
  let len := leNat ((img.drop 4).take 4)
  let body := (img.drop 186).take len
  let sum := (img.drop 8).take 64
  body.length == len && digest body == sum && digest D.vendor == D.fused && edVerify D.vendor sum ((img.drop 72).take 114)
    && D.rollback ≤ leNat (img.take 4)

/-- The boot ROM's choice of an image (R437). -/
def Device.boot (D : Device) : Device :=
  let run (img : List Byte) : Device := { D with st := 2, runDigest := (img.drop 8).take 64, runVersion := leNat (img.take 4) }
  if imageOk D D.primary then run D.primary
  else if imageOk D D.second then run D.second
  else { D with st := 1 }

/-- What a reset keeps of a device: its name, its images, keys and fuses. -/
def Device.powered (D : Device) (clk : Nat) : Device :=
  { id := D.id, bootAt := clk, primary := D.primary, second := D.second, vendor := D.vendor, fused := D.fused, rollback := D.rollback, identity := D.identity }

/-- RESET (R439): power is good, every register of the device is at its reset value and no work is left on it, and the boot ROM verifies the
firmware (R437) (DEDUCED, assumption log 55). -/
def State.resetDev (s : State) (d : Nat) : State :=
  let rids := (s.regions.filter fun R => R.dev == d).map fun R => R.rid
  let gids := (s.groups.filter fun G => G.dev == d).map fun G => G.uid
  let s1 : State := { s with
    mem := Sparse.drop s.mem fun a => devOf a == d,
    poison := s.poison.filter fun a => devOf a != d,
    ctxs := s.ctxs.filter fun C => C.dev != d, tlb := s.tlb.filter fun t => t.dev != d,
    lines := s.lines.filter fun L => devOf L.addr != d,
    cores := s.cores.filter fun k => k.dev != d, clusters := s.clusters.filter fun k => k.dev != d,
    regions := s.regions.filter fun R => R.dev != d, tourns := s.tourns.filter fun T => !rids.contains T.rid,
    groups := s.groups.filter fun G => G.dev != d,
    units := s.units.filter fun P => !P.members.any gids.contains,
    deliveries := s.deliveries.filter fun x => !rids.contains x.grid.1,
    reqs := s.reqs.filter fun r => r.msg.src != d, casts := s.casts.filter fun (c : Cast) => !gids.contains c.path.g,
    done := s.done.filter fun x => x.1.src != d && x.1.dst != d,
    mseq := s.mseq.filter fun x => x.1 != d, dfault := none, dstalls := s.dstalls.filter fun w => w.dev != d }
  s1.modDev d fun D => (D.powered s.clk).boot

/-- A device that the domain does not have so far comes into it in RESET (assumption log 66). -/
def State.plug (s : State) (d : Nat) : State := if s.hasDev d || 4096 ≤ d then s else { s with devs := s.devs ++ [{ id := d }] }

/-- RESET. -/
def execReset (dev : Nat) (s : State) : Host.Outcome State Fault Refusal := .next ((s.plug dev).resetDev dev)

/-- MEMORY_TRAINED (R439): HBM4E and the second tier are zeroed. -/
def execMemoryTrained (dev : Nat) (s : State) : Host.Outcome State Fault Refusal :=
  .next (
    if (s.dev dev).st != 2 then s
    else
      let ram (a : Nat) : Bool := devOf a == dev && (zoneOf (localOf a) == .hbm || zoneOf (localOf a) == .tier2)
      ({ s with mem := Sparse.drop s.mem ram } : State).modDev dev fun D => { D with st := 3 })

/-- HOST_LINK_TRAINED (R431). -/
def execHostLinkTrained (dev : Nat) (gen : HostGen) (s : State) : Host.Outcome State Fault Refusal :=
  .next (if (s.dev dev).st != 3 then s else s.modDev dev fun D => { D with st := 4, gen := some gen })

/-- A device takes the number of its DEVID register in the domain, and its memory with it (DEDUCED, assumption log 54). -/
def State.rename (s : State) (d e : Nat) : State :=
  let move (a : Nat) : Nat := if devOf a == d then e * 2 ^ 44 + localOf a else a
  let s1 : State := { s with
    mem := s.mem.foldl (fun m (x : Nat × Byte) => Sparse.set m (move x.1) x.2) [], poison := s.poison.map move,
    lines := s.lines.map fun L => { L with addr := move L.addr } }
  s1.modDev d fun D => { D with id := e }

/-- FABRIC_TRAINED (R439): once DEVID is written and the links are trained the device is in FABRIC, from where the next cycle takes it to READY.  A number that
another device holds is not taken. -/
def execFabricTrained (dev : Nat) (s : State) : Host.Outcome State Fault Refusal :=
  .next (
    let D := s.dev dev
    if D.st != 4 || !D.named || (D.devid != dev && s.hasDev D.devid) then s
    else (if D.devid == dev then s else s.rename dev D.devid).modDev D.devid fun D => { D with st := 5 })

/-! ## Limits (R440) -/

/-- THERMAL_TRIP (R439, R440). -/
def execThermalTrip (dev : Nat) (s : State) : Host.Outcome State Fault Refusal := .next (s.haltDev dev)
/-- CLOCK_THROTTLE_STEP (R440): 100 MHz down, or back up to the full clock; no count of cycles changes. -/
def execClockThrottleStep (dev : Nat) (down : Bool) (s : State) : Host.Outcome State Fault Refusal :=
  .next (s.modDev dev fun D => { D with mhz := if down then D.mhz - 100 else min 1100 (D.mhz + 100) })

end Sys2Proof.Machine
end

