-- ==== Sys2Proof/Machine/Integer.lean ====
section
/-! DEFINITION. Sys2Proof/Machine/Integer.lean: the integer instructions of group 0x1 (R148 to R157) -/

namespace Sys2Proof.Machine

/-- The type of a group 0x1 or 0x2 word. -/
def modTy (f : Fields) : IntTy := intTy (modHi f.mod)
/-- Columns of an element of the type. -/
def tyCols (t : IntTy) : Nat := if t.wide then 2 else 1

/-- A group 0x1 instruction other than addc and subb over its block (R152 to R157); in the `.i` forms D and the immediate are the sources. -/
def State.intBlock (s : State) (i : Form) (f : Fields) (c : Ctx) : State :=
  let ty := modTy f
  let w := tyCols ty
  let m := intWiden ty
  let immI := modBit2 f.mod
  let e := c.elem s m w
  s.finish i c (c.blockWrites f w fun t r j =>
    if immI then intElem i ty (f.mod.getLsbD 0) (e f.d t r j) (imm32Nat (ty == .i64) w f) 0
    else intElem i ty (f.mod.getLsbD 0) (e f.a t r j) (e f.b t r j) (e f.d t r j))

/-- addc and subb (R154): one chain per thread through p6. -/
def State.carryBlock (s : State) (i : Form) (f : Fields) (c : Ctx) : State :=
  let ty := modTy f
  let w := tyCols ty
  let e := c.elem s .int w
  s.finish i c ((threadsOf c.sel).flatMap fun t =>
    let u := c.srcThread f t
    let els := blockElems f w
    let (xs, carry) := carryChain (i == .subb) ty.width (els.map fun (r, j) => (e f.a u r j, e f.b u r j)) (c.pd s 6 u)
    ((els.zip xs).flatMap fun ((r, j), x) => putKeys (destKeys f.d w t r j) x) ++ [(.p 6 t, if carry then 1 else 0)])

/-- add (R153). -/
def execAdd (f : Fields) (s : State) : Host.Outcome State Fault Refusal := issue .add f (fun c s => s.intBlock .add f c) s
/-- sub (R153). -/
def execSub (f : Fields) (s : State) : Host.Outcome State Fault Refusal := issue .sub f (fun c s => s.intBlock .sub f c) s
/-- addc (R154). -/
def execAddc (f : Fields) (s : State) : Host.Outcome State Fault Refusal := issue .addc f (fun c s => s.carryBlock .addc f c) s
/-- subb (R154). -/
def execSubb (f : Fields) (s : State) : Host.Outcome State Fault Refusal := issue .subb f (fun c s => s.carryBlock .subb f c) s
/-- mul (R153). -/
def execMul (f : Fields) (s : State) : Host.Outcome State Fault Refusal := issue .mul f (fun c s => s.intBlock .mul f c) s
/-- mulhi (R153). -/
def execMulhi (f : Fields) (s : State) : Host.Outcome State Fault Refusal := issue .mulhi f (fun c s => s.intBlock .mulhi f c) s
/-- mulw (R156). -/
def execMulw (f : Fields) (s : State) : Host.Outcome State Fault Refusal := issue .mulw f (fun c s => s.intBlock .mulw f c) s
/-- mad (R153). -/
def execMad (f : Fields) (s : State) : Host.Outcome State Fault Refusal := issue .mad f (fun c s => s.intBlock .mad f c) s
/-- madw (R156). -/
def execMadw (f : Fields) (s : State) : Host.Outcome State Fault Refusal := issue .madw f (fun c s => s.intBlock .madw f c) s
/-- div (R155). -/
def execDiv (f : Fields) (s : State) : Host.Outcome State Fault Refusal := issue .div f (fun c s => s.intBlock .div f c) s
/-- rem (R155). -/
def execRem (f : Fields) (s : State) : Host.Outcome State Fault Refusal := issue .rem f (fun c s => s.intBlock .rem f c) s
/-- abs (R153). -/
def execAbs (f : Fields) (s : State) : Host.Outcome State Fault Refusal := issue .abs f (fun c s => s.intBlock .abs f c) s
/-- neg (R153). -/
def execNeg (f : Fields) (s : State) : Host.Outcome State Fault Refusal := issue .neg f (fun c s => s.intBlock .neg f c) s
/-- min (R153). -/
def execMin (f : Fields) (s : State) : Host.Outcome State Fault Refusal := issue .min f (fun c s => s.intBlock .min f c) s
/-- max (R153). -/
def execMax (f : Fields) (s : State) : Host.Outcome State Fault Refusal := issue .max f (fun c s => s.intBlock .max f c) s
/-- clamp (R153). -/
def execClamp (f : Fields) (s : State) : Host.Outcome State Fault Refusal := issue .clamp f (fun c s => s.intBlock .clamp f c) s
/-- sad (R157). -/
def execSad (f : Fields) (s : State) : Host.Outcome State Fault Refusal := issue .sad f (fun c s => s.intBlock .sad f c) s
/-- dp4 (R157). -/
def execDp4 (f : Fields) (s : State) : Host.Outcome State Fault Refusal := issue .dp4 f (fun c s => s.intBlock .dp4 f c) s

end Sys2Proof.Machine
end

