-- ==== Sys2Proof/Machine/Jacquard.lean ====
section
/-! DEFINITION. Sys2Proof/Machine/Jacquard.lean: the solver sequencer of a cluster: its pattern, its samples and their steps, jqstart, jqdone and
jqstat (R355 to R373) -/

namespace Sys2Proof.Machine

/-! ## Arithmetic (R62, R171, R180) -/

/-- RN(a b). -/
def mul32 (a b : Word) : Word := toF32 .rn ((f32v a).mul (f32v b))
/-- fusedMultiplyAdd, rounded RN, with subnormals kept. -/
def fma32 (a b c : Word) : Word := floatElem .fma .f32 .rn false a b c
/-- A correctly rounded function result. -/
def funWord (x : Fun) : Word := BitVec.ofNat 32 (x.round .f32 .rn false)
/-- a < b as FP32. -/
def lt32 (a b : Word) : Bool := fcmpTest 2 a b
/-- a = b as FP32. -/
def eq32 (a b : Word) : Bool := fcmpTest 0 a b
/-- +0 or -0. -/
def zero32 (a : Word) : Bool := a &&& 0x7FFFFFFF == 0
/-- The magnitude. -/
def abs32 (a : Word) : Word := a &&& 0x7FFFFFFF
/-- A number limited to an interval. -/
def clamp32 (lo hi x : Word) : Word := if lt32 x lo then lo else if lt32 hi x then hi else x
/-- FP32 1.0. -/
def one32 : Word := 0x3F800000

/-! ## The pattern (R355, R357) -/

/-- A 32-bit field of a pattern. -/
def Cluster.pw (C : Cluster) (off : Nat) : Word := BitVec.ofNat 32 (leNat ((C.jqBuf.drop off).take 4))
/-- A 64-bit field. -/
def Cluster.pd (C : Cluster) (off : Nat) : DWord := BitVec.ofNat 64 (leNat ((C.jqBuf.drop off).take 8))
/-- STAGES. -/
def Cluster.stages (C : Cluster) : Nat := bitsOf (C.pw 0).toNat 3 0
/-- NHIST. -/
def Cluster.nhist (C : Cluster) : Nat := bitsOf (C.pw 0).toNat 6 4
/-- HSRC. -/
def Cluster.hsrc (C : Cluster) : Nat := bitsOf (C.pw 0).toNat 11 8
/-- Q. -/
def Cluster.order (C : Cluster) : Nat := bitsOf (C.pw 0).toNat 15 12
/-- NS, the samples less one. -/
def Cluster.ns (C : Cluster) : Nat := bitsOf (C.pw 0).toNat 24 16
/-- N. -/
def Cluster.elems (C : Cluster) : Nat := (C.pw 4).toNat
/-- The control of a number: ATOL, RTOL, SAFETY, FMIN, FMAX, HMIN, HMAX, TEND. -/
def Cluster.control (C : Cluster) (k : Nat) : Word := C.pw (8 + 4 * k)
/-- SRC of a stage. -/
def Cluster.src (C : Cluster) (j : Nat) : Nat := (C.pd 0x48).toNat / 16 ^ j % 16
/-- a(i, j). -/
def Cluster.ca (C : Cluster) (i j : Nat) : Word := C.pw (0x60 + 4 * (i * (i - 1) / 2 + j))
/-- b(j). -/
def Cluster.cb (C : Cluster) (j : Nat) : Word := C.pw (0x168 + 4 * j)
/-- d(j) (R361). -/
def Cluster.cd (C : Cluster) (j : Nat) : Word := fsub32 (C.cb j) (C.pw (0x198 + 4 * j))
/-- c(j). -/
def Cluster.cc (C : Cluster) (j : Nat) : Word := C.pw (0x1C8 + 4 * j)
/-- The address of element `i` of row `r` of a sample's workspace (R358). -/
def Cluster.row (C : Cluster) (s r i : Nat) : DWord :=
  C.pd 0x28 + BitVec.ofNat 64 (s * (C.pw 0x30).toNat + r * (C.pw 0x34).toNat + 4 * i)
/-- The address of a field of a sample's INIT entry (R368). -/
def Cluster.init (C : Cluster) (s off : Nat) : DWord := C.pd 0x40 + BitVec.ofNat 64 (32 * s + off)

/-- The rows of R357 for JQ_PATTERN. -/
def Cluster.patternOk (C : Cluster) (x : DWord) : Bool :=
  let z (off n : Nat) : Bool := leNat ((C.jqBuf.drop off).take n) == 0
  let w0 := (C.pw 0).toNat
  let ctl := C.control
  !w0.testBit 7 && bitsOf w0 31 25 == 0 && z 0x4E 2 && z 0x50 16 && z 0x1F8 8
    && 2 ≤ C.stages && C.stages ≤ 12 && C.nhist ≤ 4 && C.hsrc < C.stages && 1 ≤ C.order && 1 ≤ C.elems && C.elems ≤ 65536
    && (List.range C.stages).all (fun j => C.src j ≤ C.nhist)
    && x.toNat % 128 == 0 && (C.pd 0x28).toNat % 128 == 0 && (C.pw 0x30).toNat % 128 == 0 && (C.pw 0x34).toNat % 128 == 0
    && 4 * C.elems ≤ (C.pw 0x34).toNat && (C.pd 0x40).toNat % 32 == 0
    && (List.range 8).all (fun k => finiteF32 (ctl k))
    && lt32 0 (ctl 5) && !lt32 (ctl 6) (ctl 5) && lt32 0 (ctl 3) && !lt32 (ctl 4) (ctl 3) && lt32 0 (ctl 2) && !lt32 (ctl 0) 0 && !lt32 (ctl 1) 0

/-- A node is a BIN node of 32-byte records. -/
def Node.takesSamples (N : Node) : Bool := N.kind == 1 && N.recsz == 1

/-- NODE names a BIN node of 32-byte records of a region of the context (R357): by what the dobby holds of it, or, of a region that is still to start, by its
descriptor in memory (DESIGN CHOICE, assumption log 90). -/
def State.jqNodeOk (s : State) (d : Nat) (C : Cluster) : Bool × State :=
  let va := C.pd 0x38
  let inMemory (s : State) : Bool × State :=
    let s1 := s.dneed d C.jqCtx va 64
    ((nodeOf 0 (s1.vwords d C.jqCtx va 8) []).takesSamples, s1)
  match s.nodeAt d C.jqCtx va with
  | some (r, n) => match s.node? r n with
    | some N => (N.takesSamples, s)
    | none => inMemory s
  | none => match s.unstartedIn d C.jqCtx va with
    | (some _, s1) => inMemory s1
    | (none, s1) => (false, s1)

/-! ## Memory -/

/-- The Jacquard's place in memory: no core of the device (R309, R319). -/
def jqPort (d ctx : Nat) : Port := { dev := d, core := 256, ctx, agent := .jacquard }
/-- Its place for workspace accesses, whose pages need R and W (R358). -/
def workPort (d ctx : Nat) : Port := { jqPort d ctx with rw := true }

/-- One word read through the context's translation; `fmt` says which page formats it meets. -/
def State.jqGet (s : State) (p : Port) (fmt : Nat → Bool) (va : DWord) : Except Halt Word × State :=
  match s.engAccess p false 4 fmt va 4 with
  | (.error h, s1) => (.error h, s1)
  | (.ok x, s1) => match s1.engRead p x va 4 with
    | (.error h, s2) => (.error h, s2)
    | (.ok bs, s2) => (.ok (BitVec.ofNat 32 (leNat bs)), s2)

/-- One word written. -/
def State.jqPut (s : State) (p : Port) (fmt : Nat → Bool) (va : DWord) (v : Word) : Except Halt Unit × State :=
  match s.engAccess p true 4 fmt va 4 with
  | (.error h, s1) => (.error h, s1)
  | (.ok x, s1) => s1.engPut p x va (leBytes 4 v.toNat)

/-- The formats of workspace pages (R358). -/
def workFmt (f : Nat) : Bool := f == 0 || f == 14
/-- An INIT entry or a pattern is read as raw bytes. -/
def anyFmt (_ : Nat) : Bool := true

/-- Words read one after another. -/
def State.jqGets (s : State) (p : Port) (fmt : Nat → Bool) : List DWord → Except Halt (List Word) × State
  | [] => (.ok [], s)
  | va :: rest =>
    match s.jqGet p fmt va with
    | (.error h, s1) => (.error h, s1)
    | (.ok w, s1) => match s1.jqGets p fmt rest with
      | (.ok ws, s2) => (.ok (w :: ws), s2)
      | (.error h, s2) => (.error h, s2)

/-! ## Starting a run (R361, R366, R371) -/

/-- A Jacquard that no run holds. -/
def Cluster.jqFree (C : Cluster) : Bool := !C.jqLive && !C.jqWait && C.jqPath.isNone

/-- The run that a pattern describes begins (R361). -/
def Cluster.beginRun (C : Cluster) (x : DWord) (buf : List Byte) : Cluster :=
  let C1 := { C with jqLive := true, jqTag := (C.jqTag + 1) % 2 ^ 14, jqPat := x, jqBuf := buf, jqWait := false, jqPause := none }
  { C1 with samples := (List.range (C1.ns + 1)).map fun i => { idx := i } }

/-- How the start of a run ends: it runs, it waits for a link or for a page, or it fails. -/
inductive JqStart where
  | ran
  | waits
  | paused (page : Nat)
  | failed (cls : TrapClass) (reason : Nat) (va : DWord)
  deriving DecidableEq, Repr

/-- The pattern read and checked, and the run begun (R357, R361) (DEDUCED, assumption log 52). -/
def State.jqTry (s : State) (d jq ctx : Nat) (x : DWord) : JqStart × State :=
  if x.toNat % 128 != 0 then (.failed .operand 25 0, s)
  else match s.jqGets (jqPort d ctx) anyFmt ((List.range 128).map fun k => x + BitVec.ofNat 64 (4 * k)) with
    | (.error .wait, s1) => (.waits, s1)
    | (.error (.pause va access reason), s1) => (.paused (va.toNat / 65536), s1.raiseFault d ctx va access .jacquard reason)
    | (.error (.bad cls reason va _), s1) => (.failed cls reason va, s1)
    | (.ok ws, s1) =>
      let C : Cluster := { s1.cluster d jq with jqCtx := ctx, jqBuf := wordBytes ws }
      if !C.patternOk x then (.failed .operand 25 0, s1)
      else match s1.jqNodeOk d C with
        | (false, s2) => (.failed .operand 26 0, s2)
        | (true, s2) => (.ran, s2.modCluster d jq fun C => { C with jqCtx := ctx }.beginRun x (wordBytes ws))

/-- The Jacquards of a device in the order of a region's search (R366). -/
def Region.jacquards (R : Region) : List Nat := R.dies.flatMap fun die => (List.range 8).map fun k => 8 * die + k

/-- A READY JACQ node goes to RUNNING on the first free Jacquard, which is reserved for its run (R366). -/
def State.reserveJq (s : State) (r n : Nat) (pattern : DWord) : State :=
  match s.region? r with
  | none => s
  | some R => match R.jacquards.find? fun jq => (s.cluster R.dev jq).jqFree with
    | none => s
    | some jq =>
      (s.modCluster R.dev jq fun C => { C with jqWait := true, jqPause := none, jqPat := pattern, jqCtx := R.ctx, jqOwner := some (r, n), jqRid := r }).setNodeSt r n 2

/-- A fault of a run reaches its fault domain (R369, R90). -/
def State.jqFault (s : State) (d jq : Nat) (t : TrapInfo) : State :=
  let C := s.cluster d jq
  match s.region? C.jqRid with
  | none => s
  | some R =>
    let n := match C.jqOwner with | some (_, n) => n | none => 0
    let s1 := s.record C.jqRid t 0 0 n R.rcb
    match C.jqOwner with
    | some _ => s1.applyPolicy C.jqRid t n 0 0 []
    | none => if R.policy == 1 then s1.passUp C.jqRid t 0 0 n R.rcb else s1

/-- JACQ_RUN_START (R361, R366): a reserved start of a node's run; its failure is a fault of the node, which ends FAILED. -/
def State.jacqRunStart (s : State) (d jq : Nat) : State :=
  let C := s.cluster d jq
  if !C.jqWait || C.jqPause.isSome then s
  else match s.jqTry d jq C.jqCtx C.jqPat with
    | (.ran, s1) => s1
    | (.waits, s1) => s1
    | (.paused page, s1) => s1.modCluster d jq fun C => { C with jqPause := some page }
    | (.failed cls reason va, s1) =>
      let s2 := s1.jqFault d jq { cls, reason, agent := .jacquard, precise := false, addr := va }
      let s3 := s2.modCluster d jq fun C => { C with jqWait := false, jqOwner := none }
      match C.jqOwner with
      | some (r, n) => s3.endNode r n 4
      | none => s3

/-- JACQ_RUN_START. -/
def execJacqRunStart (dev jq : Nat) (s : State) : Host.Outcome State Fault Refusal := .next (s.jacqRunStart dev jq)

/-! ## Samples -/

/-- One sample changed. -/
def State.modSample (s : State) (d jq i : Nat) (f : Sample → Sample) : State :=
  s.modCluster d jq fun C => { C with samples := modIf (fun x => x.idx == i) f C.samples }

/-- A sample ends in a state. -/
def State.endSample (s : State) (d jq i st : Nat) : State :=
  (s.modSample d jq i fun x => { x with st, out := 0, pause := none, phase := 0 }).jqEnd d jq

/-- A sample stops at an access: it waits for a link (R265), pauses for a page, or fails with a fault of its run (R369). -/
def State.haltSample (s : State) (d jq i : Nat) : Halt → State
  | .wait => s
  | .pause va access reason =>
    (s.raiseFault d (s.cluster d jq).jqCtx va access .jacquard reason).modSample d jq i fun x => { x with pause := some (va.toNat / 65536) }
  | .bad cls reason va _ =>
    (s.jqFault d jq { cls, reason, agent := .jacquard, precise := false, addr := va, info := BitVec.ofNat 32 i }).endSample d jq i 3

/-- A sample begins a step, or is DONE at TEND (R361). -/
def Cluster.beginStep (C : Cluster) (x : Sample) : Sample :=
  let tend := C.control 7
  let next := fadd32 x.t x.h
  if eq32 x.t tend then { x with st := 2, phase := 0 }
  else
    let cut := (lt32 0 x.h && !lt32 next tend) || (lt32 x.h 0 && !lt32 tend next)
    { x with st := 1, h := if cut then fsub32 tend x.t else x.h, last := if cut then 1 else 0, stage := 0, phase := 0, elem := 0 }

/-- A step size limited to [HMIN, HMAX], its sign kept. -/
def Cluster.limitH (C : Cluster) (h : Word) : Word := clamp32 (C.control 5) (C.control 6) (abs32 h) ||| (h &&& 0x80000000)

/-- A sample's first step from its INIT entry (R361). -/
def Cluster.initSample (C : Cluster) (x : Sample) (t0 h0 : Word) : Sample :=
  let tend := C.control 7
  let back := lt32 tend t0
  if !finiteF32 t0 || !finiteF32 h0 || zero32 h0 || (!eq32 t0 tend && back != h0.getLsbD 31) then { x with st := 3, phase := 0 }
  else C.beginStep { x with t := t0, h := C.limitH h0 }

/-- What follows a complete stage (R362). -/
def Cluster.stageDone (C : Cluster) (x : Sample) : Sample :=
  if x.stage + 1 < C.stages then { x with stage := x.stage + 1, out := 0, phase := 0, elem := 0 }
  else { x with stage := x.stage + 1, out := 0, phase := 2, elem := 0, sum := 0, bad := 0 }

/-- The history row that stands for a stage, if there is one (R362). -/
def Cluster.historyFor (C : Cluster) (x : Sample) : Option Nat :=
  if 0 < C.src x.stage && C.src x.stage ≤ x.acc then some (C.src x.stage - 1) else none

/-- The record of a stage (R359). -/
def Cluster.record (C : Cluster) (x : Sample) : List Byte :=
  let w0 := x.idx + 512 * x.stage + 8192 * C.n + 262144 * C.jqTag
  let ts := fadd32 x.t (mul32 (C.cc x.stage) x.h)
  wordBytes [BitVec.ofNat 32 w0, ts, x.h, C.pw 4] ++ leBytes 8 (C.row x.idx 1 0).toNat ++ leBytes 8 (C.row x.idx (2 + x.stage) 0).toNat

/-- A linear combination: each nonzero coefficient times a k in turn. -/
def combine32 (h : Word) : List (Word × Word) → Word → Word
  | [], x => x
  | (c, k) :: rest, x => combine32 h rest (fma32 (mul32 h c) k x)

/-- Exact units of 2^-298 that a squared residual adds, or what makes the sum infinite or a NaN (R363). -/
def squareUnits (r : Word) : Nat × Nat :=
  match f32v r with
  | .zero _ => (0, 0)
  | .fin _ m e => (m * m * 2 ^ (2 * e + 298).toNat, 0)
  | .inf _ => (0, 1)
  | .nan => (0, 2)

/-- The norm of a step from its exact sum (R363). -/
def Cluster.normOf (C : Cluster) (x : Sample) : Word :=
  let s2 : Num := if x.bad / 2 == 1 then .nan else if x.bad == 1 then .inf false else Num.ofInt x.sum (-298) false
  let mean := funWord (funDiv (f32v (toF32 .rn s2)) (Num.ofInt C.elems 0 false))
  funWord (funSqrt (f32v mean))

/-- The decision of hardware step control: accept, and the next step size (R364). -/
def Cluster.decide (C : Cluster) (x : Sample) : Bool × Word :=
  let fmin := C.control 3
  let fmax := C.control 4
  let (accept, f) : Bool × Word :=
    if !finiteF32 x.norm then (false, fmin)
    else if zero32 x.norm then (true, fmax)
    else
      let l := funWord (funLg2 (f32v x.norm))
      let e := funWord (funDiv (f32v l).neg (Num.ofInt (C.order + 1) 0 false))
      let f := clamp32 fmin fmax (mul32 (C.control 2) (funWord (funEx2 (f32v e))))
      let ok := !lt32 one32 x.norm
      (ok, if !ok && lt32 one32 f then one32 else f)
  (accept, C.limitH (mul32 x.h f))

/-- A rejected step (R364). -/
def Cluster.reject (C : Cluster) (x : Sample) : Sample :=
  if x.rej + 1 == 16 then { x with rej := 16, st := 3, phase := 0 } else C.beginStep { x with rej := x.rej + 1, h := x.hn }

/-- An accepted step, once its rows are moved (R364). -/
def Cluster.accepted (C : Cluster) (x : Sample) : Sample :=
  let x1 := { x with t := if x.last == 1 then C.control 7 else fadd32 x.t x.h, acc := min 65535 (x.acc + 1), rej := 0 }
  if x.last == 1 then { x1 with st := 2, phase := 0 } else C.beginStep { x1 with h := x.hn }

/-- The decision applied to a sample. -/
def Cluster.decided (C : Cluster) (x : Sample) (accept : Bool) (hn : Word) : Sample :=
  if accept then { x with hn, phase := 3, elem := 0 } else C.reject { x with hn }

/-- The element copied by move `k` of an accepted step: from which row to which (R364) (DESIGN CHOICE, assumption log 18). -/
def Cluster.move (C : Cluster) (k : Nat) : Nat × Nat :=
  let h0 := 2 + C.stages
  if k == 0 then (1, 0) else if k < C.nhist then (h0 + C.nhist - k - 1, h0 + C.nhist - k) else (2 + C.hsrc, h0)

/-- A sample put back, and its run ended if it was the last. -/
def State.putSample (s : State) (d jq : Nat) (x : Sample) : State := (s.modSample d jq x.idx fun _ => x).jqEnd d jq

/-! ## One step of a sample (R361 to R364) -/

/-- The INIT entry read. -/
def State.sampleInit (s : State) (d jq : Nat) (C : Cluster) (x : Sample) : State :=
  match s.jqGets (jqPort d C.jqCtx) anyFmt [C.init x.idx 0, C.init x.idx 4] with
  | (.ok [t0, h0], s1) => s1.putSample d jq (C.initSample x t0 h0)
  | (.ok _, s1) => s1
  | (.error h, s1) => s1.haltSample d jq x.idx h

/-- One element of a stage's input, or of the history row that stands for its output (R362). -/
def State.sampleForm (s : State) (d jq : Nat) (C : Cluster) (x : Sample) : State :=
  let p := workPort d C.jqCtx
  let i := x.elem
  let next : Sample := { x with elem := i + 1 }
  match C.historyFor x with
  | some m =>
    if C.elems ≤ i then s.putSample d jq (C.stageDone x)
    else match s.jqGet p workFmt (C.row x.idx (2 + C.stages + m) i) with
      | (.error h, s1) => s1.haltSample d jq x.idx h
      | (.ok v, s1) => match s1.jqPut p workFmt (C.row x.idx (2 + x.stage) i) v with
        | (.error h, s2) => s2.haltSample d jq x.idx h
        | (.ok _, s2) => s2.putSample d jq next
  | none =>
    if C.elems ≤ i then s.putSample d jq { x with phase := 1 }
    else
      let js := (List.range x.stage).filter fun j => !zero32 (C.ca x.stage j)
      match s.jqGets p workFmt (C.row x.idx 0 i :: js.map fun j => C.row x.idx (2 + j) i) with
      | (.ok (y :: ks), s1) => match s1.jqPut p workFmt (C.row x.idx 1 i) (combine32 x.h ((js.map fun j => C.ca x.stage j).zip ks) y) with
        | (.error h, s2) => s2.haltSample d jq x.idx h
        | (.ok _, s2) => s2.putSample d jq next
      | (.ok [], s1) => s1
      | (.error h, s1) => s1.haltSample d jq x.idx h

/-- The record of a stage posted; a full bin and a region that is still to start hold it, a closed one fails the sample (R84, R359). -/
def State.samplePost (s : State) (d jq : Nat) (C : Cluster) (x : Sample) : State :=
  if x.out == 1 || C.samples.any (fun y => y.idx < x.idx && y.st == 1 && y.phase == 1 && y.out == 0 && y.pause.isNone) then s
  else
    let closed : State := s.haltSample d jq x.idx (.bad .operand 7 0 0)
    match s.nodeAt d C.jqCtx (C.pd 0x38) with
    | none => match s.unstartedIn d C.jqCtx (C.pd 0x38) with
      | (some (R, _), s1) => if R.st == 0 && !R.killed then s1 else closed
      | (none, _) => closed
    | some (r, n) => match s.region? r, s.node? r n with
      | some R, none => if R.st == 0 && !R.killed then s else closed
      | some R, some N =>
        if R.killed || 2 ≤ R.st || 3 ≤ N.st then closed
        else if N.full || R.st != 1 then s
        else (s.modSample d jq x.idx fun x => { x with out := 1, rseq := N.nrec }).binAccept r n (C.record x)
      | _, _ => closed

/-- One element of the proposed state and its share of the error norm; then the decision (R363, R364, R368). -/
def State.sampleEvaluate (s : State) (d jq : Nat) (C : Cluster) (x : Sample) : State :=
  let p := workPort d C.jqCtx
  let i := x.elem
  if C.elems ≤ i then
    let x1 : Sample := { x with norm := C.normOf x, steps := x.steps + 1, elem := 0 }
    if s.modeBit d C.jqCtx 5 then s.putSample d jq { x1 with phase := 4 }
    else s.putSample d jq (C.decided x1 (C.decide x1).1 (C.decide x1).2)
  else
    let js := (List.range C.stages).filter fun j => !zero32 (C.cb j) || !zero32 (C.cd j)
    match s.jqGets p workFmt (C.row x.idx 0 i :: js.map fun j => C.row x.idx (2 + j) i) with
    | (.ok (y :: ks), s1) =>
      let terms (f : Nat → Word) : List (Word × Word) := ((js.map f).zip ks).filter fun t => !zero32 t.1
      let yp := combine32 x.h (terms C.cb) y
      let e := combine32 x.h (terms C.cd) 0
      let sc := fma32 (C.control 1) (floatElem .fmax .f32 .rn false (abs32 y) (abs32 yp) 0) (C.control 0)
      let r := if zero32 e then 0 else funWord (funDiv (f32v e) (f32v sc))
      let (u, bad) := squareUnits r
      match s1.jqPut p workFmt (C.row x.idx 1 i) yp with
      | (.error h, s2) => s2.haltSample d jq x.idx h
      | (.ok _, s2) => s2.putSample d jq { x with elem := i + 1, sum := x.sum + u, bad := x.bad ||| bad }
    | (.ok [], s1) => s1
    | (.error h, s1) => s1.haltSample d jq x.idx h

/-- One element of the rows that an accepted step moves. -/
def State.sampleMove (s : State) (d jq : Nat) (C : Cluster) (x : Sample) : State :=
  let p := workPort d C.jqCtx
  let k := x.elem / C.elems
  let i := x.elem % C.elems
  if C.nhist + 1 ≤ k then s.putSample d jq (C.accepted x)
  else match s.jqGet p workFmt (C.row x.idx (C.move k).1 i) with
    | (.error h, s1) => s1.haltSample d jq x.idx h
    | (.ok v, s1) => match s1.jqPut p workFmt (C.row x.idx (C.move k).2 i) v with
      | (.error h, s2) => s2.haltSample d jq x.idx h
      | (.ok _, s2) => s2.putSample d jq { x with elem := x.elem + 1 }

/-- NORM and then SEQ reported to the host (R368). -/
def State.sampleReport (s : State) (d jq : Nat) (C : Cluster) (x : Sample) : State :=
  let p := jqPort d C.jqCtx
  match s.jqPut p anyFmt (C.init x.idx 8) x.norm with
  | (.error h, s1) => s1.haltSample d jq x.idx h
  | (.ok _, s1) => match s1.jqPut p anyFmt (C.init x.idx 0xC) x.steps with
    | (.error h, s2) => s2.haltSample d jq x.idx h
    | (.ok _, s2) => s2.putSample d jq { x with elem := 1 }

/-- The host's decision read and taken, if there is one (R368). -/
def State.hostDecision (s : State) (d jq : Nat) (C : Cluster) (x : Sample) : State :=
  let p := jqPort d C.jqCtx
  match s.jqGets p anyFmt [C.init x.idx 0x14, C.init x.idx 0x10] with
  | (.ok [cmd, hnew], s1) =>
    if cmd == 0 then s1
    else match s1.jqPut p anyFmt (C.init x.idx 0x14) 0 with
      | (.error h, s2) => s2.haltSample d jq x.idx h
      | (.ok _, s2) =>
        if cmd.toNat < 3 && finiteF32 hnew && !zero32 hnew then s2.putSample d jq (C.decided x (cmd == 1) hnew)
        else s2.endSample d jq x.idx 3
  | (.ok _, s1) => s1
  | (.error h, s1) => s1.haltSample d jq x.idx h

/-- A sample that can move on by itself or by the host's decision. -/
def State.sample? (s : State) (d jq i : Nat) : Option (Cluster × Sample) :=
  let C := s.cluster d jq
  if C.jqLive then (C.samples.find? fun x => x.idx == i && x.pause.isNone && (x.st == 1 || (x.st == 0 && x.phase == 5))).map fun x => (C, x) else none

/-- One step of a sample. -/
def State.sampleStep (s : State) (d jq i : Nat) : State :=
  match s.sample? d jq i with
  | none => s
  | some (C, x) => match x.phase with
    | 5 => s.sampleInit d jq C x
    | 0 => s.sampleForm d jq C x
    | 1 => s.samplePost d jq C x
    | 2 => s.sampleEvaluate d jq C x
    | 3 => s.sampleMove d jq C x
    | _ => if x.elem == 0 then s.sampleReport d jq C x else s

/-- JACQ_HOST_DECISION (R368). -/
def execJacqHostDecision (dev jq sample : Nat) (s : State) : Host.Outcome State Fault Refusal :=
  .next (match s.sample? dev jq sample with
    | some (C, x) => if x.phase == 4 && x.elem == 1 then s.hostDecision dev jq C x else s
    | none => s)

/-! ## jqstart, jqdone, jqstat (R370 to R373) -/

/-- The number of the issuing cluster's Jacquard. -/
def Ctx.jq (c : Ctx) : Nat := c.core / 8

/-- The end of a jqstart: its path leaves the Jacquard. -/
def State.jqstartEnd (s : State) (c : Ctx) (f : Fields) : State :=
  (s.modCluster c.dev c.jq fun C => { C with jqPath := none, jqPause := none }).finishLate c (c.laneWrites f.d fun _ => 1)

/-- jqstart goes on until every sample is initialised. -/
def State.jqstartWait (s : State) (c : Ctx) (f : Fields) : State :=
  let C := s.cluster c.dev c.jq
  if C.jqLive && C.samples.any (fun x => x.st == 0 && x.phase == 5) then s.holdP c .jqstart 1 0 else s.jqstartEnd c f

/-- jqstart (R371). -/
def execJqstart (f : Fields) (s : State) : Host.Outcome State Fault Refusal :=
  issue .jqstart f (fun c s =>
    let C := s.cluster c.dev c.jq
    if c.sel == 0 then s.finishIdle c
    else if c.heldAs .jqstart && c.arg == 1 then s.jqstartWait c f
    else if !c.heldAs .jqstart && !C.jqFree then s.finishLate c (c.laneWrites f.d fun _ => 0)
    else if C.jqPause.isSome then s.holdP c .jqstart 0 0
    else match (s.releaseAt c 2).jqTry c.dev c.jq c.ctx (c.addr s f.a 0 (lowThread c.sel)) with
      | (.ran, s1) => (s1.modCluster c.dev c.jq fun C => { C with jqPath := some c.r, jqOwner := none, jqRid := c.G.rid }).holdP c .jqstart 1 0
      | (.waits, s1) => (s1.modCluster c.dev c.jq fun C => { C with jqPath := some c.r, jqCtx := c.ctx }).holdP c .jqstart 0 0
      | (.paused page, s1) => (s1.modCluster c.dev c.jq fun C => { C with jqPath := some c.r, jqPause := some page, jqCtx := c.ctx }).holdP c .jqstart 0 0
      | (.failed cls reason va, s1) => (s1.modCluster c.dev c.jq fun C => { C with jqPath := none }).trap c cls reason 0 va) s

/-- One thread's token (R367, R372). -/
def State.jqdoneThread (s : State) (c : Ctx) (f : Fields) (t : Nat) : Thr × State :=
  let w := (c.val s f.a t).toNat
  let jq := bitsOf w 17 13
  let C := s.cluster c.dev jq
  if !C.jqLive || C.jqTag != bitsOf w 31 18 then (.ok [], s)
  else match C.samples.find? fun x => x.idx == bitsOf w 8 0 && x.st == 1 && x.phase == 1 && x.out == 1 && x.stage == bitsOf w 12 9 with
    | none => (.stop (.trap .operand 27 0 0), s)
    | some x => (.ok [], s.putSample c.dev jq (C.stageDone x))

/-- jqdone (R372). -/
def execJqdone (f : Fields) (s : State) : Host.Outcome State Fault Refusal :=
  issue .jqdone f (fun c s =>
    if c.sel == 0 then s.finishIdle c
    else (runThreads (fun s t => s.jqdoneThread c f t) (c.todo f) { s := s.releaseAt c 2, done := c.done }).finish c) s

/-- The status word of a sample (R360). -/
def Sample.status (x : Sample) : Nat := x.st + 4 * x.last + 8 * x.out + 16 * x.stage + 256 * x.rej + 65536 * x.acc

/-- The word of a selector (R360, R373). -/
def Cluster.statWord (C : Cluster) (i sel : Nat) : Nat :=
  let x := (C.samples.find? fun x => x.idx == i).getD { idx := i }
  match sel with
  | 0 => x.status
  | 1 => x.t.toNat
  | 2 => x.h.toNat
  | 3 => x.norm.toNat
  | _ => C.jqLive.toNat + 1024 * (C.samples.filter fun x => x.st == 1).length

/-- One thread's jqstat. -/
def State.jqstatThread (s : State) (c : Ctx) (f : Fields) (t : Nat) : Thr × State :=
  let a := (c.val s f.a t).toNat
  let sel := (c.once s f.b).toNat
  if 4 < sel || 2 ^ 14 ≤ a then (.stop (.trap .operand 28 0 0), s)
  else (.ok (putKeys (destKeys f.d 1 t 0 0) ((s.cluster c.dev (a / 512)).statWord (a % 512) sel)), s)

/-- jqstat (R373). -/
def execJqstat (f : Fields) (s : State) : Host.Outcome State Fault Refusal :=
  issue .jqstat f (fun c s =>
    if c.sel == 0 then s.finishIdle c
    else (runThreads (fun s t => s.jqstatThread c f t) (c.todo f) { s, done := c.done }).finish c) s

end Sys2Proof.Machine
end

