-- ==== Sys2Proof/Machine/Logic.lean ====
section
/-! DEFINITION. Sys2Proof/Machine/Logic.lean: the logic and bit instructions of group 0x2 (R158 to R163) -/

namespace Sys2Proof.Machine

/-- A group 0x2 instruction over its block (R158 to R163). -/
def State.logicBlock (s : State) (i : Form) (f : Fields) (c : Ctx) : State :=
  let ty := modTy f
  let w := tyCols ty
  let e := c.elem s .int w
  let immI := modBit2 f.mod && (i == .and || i == .or || i == .xor)
  let lut := (match f.b with | .lutVec _ l | .lutScalar _ l => l.toNat | _ => 0) + 32 * modLo f.mod
  s.finish i c (c.blockWrites f w fun t r j =>
    if immI then logicElem i ty 0 0 (e f.d t r j) (imm32Nat true w f) 0
    else logicElem i ty (modLo2 f.mod) lut (e f.a t r j) (e f.b t r j) (e f.d t r j))

/-- and (R159). -/
def execAnd (f : Fields) (s : State) : Host.Outcome State Fault Refusal := issue .and f (fun c s => s.logicBlock .and f c) s
/-- or (R159). -/
def execOr (f : Fields) (s : State) : Host.Outcome State Fault Refusal := issue .or f (fun c s => s.logicBlock .or f c) s
/-- xor (R159). -/
def execXor (f : Fields) (s : State) : Host.Outcome State Fault Refusal := issue .xor f (fun c s => s.logicBlock .xor f c) s
/-- not (R159). -/
def execNot (f : Fields) (s : State) : Host.Outcome State Fault Refusal := issue .not f (fun c s => s.logicBlock .not f c) s
/-- lop3 (R159). -/
def execLop3 (f : Fields) (s : State) : Host.Outcome State Fault Refusal := issue .lop3 f (fun c s => s.logicBlock .lop3 f c) s
/-- shl (R160). -/
def execShl (f : Fields) (s : State) : Host.Outcome State Fault Refusal := issue .shl f (fun c s => s.logicBlock .shl f c) s
/-- shr (R160). -/
def execShr (f : Fields) (s : State) : Host.Outcome State Fault Refusal := issue .shr f (fun c s => s.logicBlock .shr f c) s
/-- sar (R160). -/
def execSar (f : Fields) (s : State) : Host.Outcome State Fault Refusal := issue .sar f (fun c s => s.logicBlock .sar f c) s
/-- rot (R160). -/
def execRot (f : Fields) (s : State) : Host.Outcome State Fault Refusal := issue .rot f (fun c s => s.logicBlock .rot f c) s
/-- fsh (R160). -/
def execFsh (f : Fields) (s : State) : Host.Outcome State Fault Refusal := issue .fsh f (fun c s => s.logicBlock .fsh f c) s
/-- bfx (R161). -/
def execBfx (f : Fields) (s : State) : Host.Outcome State Fault Refusal := issue .bfx f (fun c s => s.logicBlock .bfx f c) s
/-- bfi (R161). -/
def execBfi (f : Fields) (s : State) : Host.Outcome State Fault Refusal := issue .bfi f (fun c s => s.logicBlock .bfi f c) s
/-- popc (R162). -/
def execPopc (f : Fields) (s : State) : Host.Outcome State Fault Refusal := issue .popc f (fun c s => s.logicBlock .popc f c) s
/-- clz (R162). -/
def execClz (f : Fields) (s : State) : Host.Outcome State Fault Refusal := issue .clz f (fun c s => s.logicBlock .clz f c) s
/-- ctz (R162). -/
def execCtz (f : Fields) (s : State) : Host.Outcome State Fault Refusal := issue .ctz f (fun c s => s.logicBlock .ctz f c) s
/-- brev (R162). -/
def execBrev (f : Fields) (s : State) : Host.Outcome State Fault Refusal := issue .brev f (fun c s => s.logicBlock .brev f c) s
/-- bperm (R162). -/
def execBperm (f : Fields) (s : State) : Host.Outcome State Fault Refusal := issue .bperm f (fun c s => s.logicBlock .bperm f c) s
/-- lea (R163). -/
def execLea (f : Fields) (s : State) : Host.Outcome State Fault Refusal := issue .lea f (fun c s => s.logicBlock .lea f c) s

end Sys2Proof.Machine
end

