-- ==== Sys2Proof/Machine/Tiles.lean ====
section
/-! DEFINITION. Sys2Proof/Machine/Tiles.lean: tile registers and the matrix engine: tags and tile operands (R233, R235), operand references
(R239, R240), the arithmetic of mma and mmap (R76, R77, R242), the elements of tdrain (R253), the order of operations on a tile (R245, R246),
and the end of an operation (R244). -/

namespace Sys2Proof.Machine

/-! ## Formats, tags, cells (R233, R75) -/

/-- The tag that an element format needs (R233). -/
def tagOf (fmt : Nat) : Tag := if fmt ≤ 3 then .x128 else if fmt ≤ 6 then .k32 else .c32k
/-- The element bytes of a format (R233). -/
def zOf (fmt : Nat) : Nat := if fmt ≤ 3 then 1 else if fmt ≤ 5 then 2 else if fmt == 6 then 4 else 8
/-- The page format of an element format (R71). -/
def pageFmtOf (fmt : Nat) : Nat := 8 + fmt

/-- The value of a real element; NaR is NaN (R242). -/
def matValue (fmt x : Nat) : Num :=
  match fmt with
  | 0 => t8Value x
  | 1 => t6Value x
  | 2 => Num.ofInt (BitVec.ofNat 8 x).toInt 0 false
  | 3 => Num.ofInt (x % 256 : Nat) 0 false
  | 4 => Fmt.f16.decode false x
  | 5 => Fmt.bf16.decode false x
  | _ => Fmt.f32.decode false x

/-- A product as a number of units of 2^-48; a NaR operand adds zero (R76). -/
def units48 : Num → Int
  | .fin neg m e => (if neg then -1 else 1) * (m * 2 ^ (e + 48).toNat : Nat)
  | _ => 0

/-- A K32 cell with one group of products added (R77). -/
def addGroup (hl : Word × Word) (ps : List Num) : Word × Word := dwAdd hl (groupSum ps)

/-- The products of one group of k: of real elements, or the real and the imaginary parts' products of C32 elements (R77). -/
def products (fmt : Nat) (ab : List (Nat × Nat)) : List Num × List Num :=
  if fmt ≤ 6 then (ab.map fun (a, b) => (matValue fmt a).mul (matValue fmt b), [])
  else
    let re (x : Nat) : Num := Fmt.f32.decode false (x % 2 ^ 32)
    let im (x : Nat) : Num := Fmt.f32.decode false (x / 2 ^ 32)
    (ab.flatMap fun (a, b) => [(re a).mul (re b), ((im a).mul (im b)).neg], ab.flatMap fun (a, b) => [(re a).mul (im b), (im a).mul (re b)])

/-- The groups of up to four of a k-block. -/
def fours (ab : List (Nat × Nat)) : List (List (Nat × Nat)) := (List.range 8).map fun g => (ab.drop (4 * g)).take 4

/-- One cell after one k-block (R242). -/
def macCell (fmt : Nat) (cell : BitVec 128) (ab : List (Nat × Nat)) : BitVec 128 :=
  if fmt ≤ 3 then cell + BitVec.ofInt 128 (ab.foldl (fun n (a, b) => n + units48 ((matValue fmt a).mul (matValue fmt b))) 0)
  else
    let gs := (fours ab).map (products fmt)
    let re := gs.foldl (fun hl p => addGroup hl p.1) (cellWord cell 0, cellWord cell 1)
    if fmt ≤ 6 then cellOf re.1 re.2 0 0
    else
      let im := gs.foldl (fun hl p => addGroup hl p.2) (cellWord cell 2, cellWord cell 3)
      cellOf re.1 re.2 im.1 im.2

/-- A NaR among the operands of a cell. -/
def hasNar (fmt : Nat) (ab : List (Nat × Nat)) : Bool := fmt ≤ 1 && ab.any fun (a, b) => matValue fmt a == .nan || matValue fmt b == .nan

/-- The free value that an undefined cell holds for a reader; in K32 mode bits 127:64 read as zero (R75, R246). -/
def undefinedCell (tag : Tag) (tick k : Nat) : BitVec 128 :=
  if tag == .k32 then (Config.undefCell tick k).extractLsb' 0 64 |>.setWidth 128 else Config.undefCell tick k

/-- A cell as a reader in a mode finds it: an undefined cell holds a free value (R246). -/
def Tile.read (x : Tile) (tag : Tag) (tick c : Nat) : BitVec 128 :=
  if x.undef.getLsbD c then undefinedCell tag tick (1024 * x.n + c) else Sparse.get x.cells c

/-- A tile after one k-block of A rows and B columns, given by row and column within the tile. -/
def Tile.mac (x : Tile) (fmt : Nat) (rows cols : List (List Nat)) : Tile :=
  let cellsOf (m n : Nat) : List (Nat × Nat) := (rows.getD m []).zip (cols.getD n [])
  { x with
    cells := (List.range 1024).foldl (fun cs c => Sparse.set cs c (macCell fmt (Sparse.get cs c) (cellsOf (c / 32) (c % 32)))) x.cells,
    nar := x.nar || (List.range 1024).any fun c => hasNar fmt (cellsOf (c / 32) (c % 32)) }

/-- Two cells added (R248). -/
def addCells (tag : Tag) (x y : BitVec 128) : BitVec 128 :=
  match tag with
  | .x128 => x + y
  | .k32 =>
    let r := dwAdd (cellWord x 0, cellWord x 1) (cellWord y 0, cellWord y 1)
    cellOf r.1 r.2 0 0
  | .c32k =>
    let r := dwAdd (cellWord x 0, cellWord x 1) (cellWord y 0, cellWord y 1)
    let i := dwAdd (cellWord x 2, cellWord x 3) (cellWord y 2, cellWord y 3)
    cellOf r.1 r.2 i.1 i.2

/-! ## References (R239) -/

/-- SRC. -/
def refSrc (x : DWord) : Nat := (x.extractLsb' 62 2).toNat
/-- KN. -/
def refKn (x : DWord) : Nat := (x.extractLsb' 56 6).toNat
/-- TN. -/
def refTn (x : DWord) : Nat := (x.extractLsb' 52 3).toNat
/-- CX. -/
def refCx (x : DWord) : Nat := (x.extractLsb' 34 18).toNat
/-- CK. -/
def refCk (x : DWord) : Nat := (x.extractLsb' 16 18).toNat
/-- The DRAFT handle. -/
def refDraft (x : DWord) : Nat := (x.extractLsb' 0 16).toNat

/-- A reference that R239 accepts (DEDUCED, assumption log 41). -/
def refOk (cluster : Bool) (x : DWord) : Bool :=
  !x.getLsbD 55 &&
  (match refSrc x with
   | 0 => true
   | 1 => !cluster && x.extractLsb' 36 16 == 0
   | 2 => x.extractLsb' 47 5 == 0
   | _ => false)

/-- The offset of row `r`, position `k` of a scratchpad or Beam reference, for elements of `z` bytes. -/
def refOffset (x : DWord) (r k z : Nat) : Nat :=
  if refSrc x == 1 then (x.extractLsb' 0 20).toNat + r * (x.extractLsb' 20 16).toNat + k * z
  else (x.extractLsb' 0 31).toNat + r * (x.extractLsb' 31 16).toNat + k * z

/-! ## The elements of an operation (R240) -/

/-- FMT of an operation's modifier. -/
def TileOp.fmt (o : TileOp) : Nat := (o.mod.extractLsb' 3 3).toNat
/-- The `.raw` bit. -/
def TileOp.raw (o : TileOp) : Bool := o.mod.getLsbD 2
/-- The rounding of an operation. -/
def TileOp.rm (o : TileOp) : Rounding := roundingOf (o.mod.extractLsb' 0 2).toNat

/-- The engine's port of a group. -/
def Group.engPort (G : Group) : Port := { dev := G.dev, core := G.core, ctx := G.ctx, agent := .engine }

/-- What an operation of a weft reads at some places: the bytes as they stood at its issue (R318). -/
def TileOp.asIssued (o : TileOp) (pas : List Nat) (bs : List Byte) : List Byte :=
  (pas.zip bs).map fun x => ((o.kept.find? fun k => k.1 == x.1).map fun k => k.2).getD x.2

/-- A line as a core sees it: with the core's own writes, and an Accrue episode merged. -/
def State.lineSeen (s : State) (d c l : Nat) : List Byte := ((s.publishLine d c l).mergeLine l).bytes l 128

/-- The bytes that a core has seen change from `s` to `t`, as they stood in `s`: those of changed memory, and of lines whose view the core's writes or an Accrue
episode may change. -/
def State.changes (s t : State) (d c : Nat) : List (Nat × Byte) :=
  let cells := (s.mem.filter fun x => !t.mem.contains x) ++ t.mem.filter fun x => !s.mem.contains x
  let pending (s : State) : List Nat :=
    (s.lines.filter fun L => L.st == .a).map (fun L => L.addr) ++ (s.core d c).queue.map (fun e => e.line) ++ (s.reqs.filter fun r => r.msg.src == d).map fun r => r.msg.line
  (cells.map (fun x => lineOf x.1) ++ pending s ++ pending t).eraseDups.flatMap fun l =>
    ((((s.lineSeen d c l).zip (t.lineSeen d c l)).zipIdx.filter fun x => x.1.1 != x.1.2).map fun x => (l + x.2, x.1.1))

/-- A weft's own matrix operations read as at their issue (R318): the bytes that a move from `s` to `t` changes are kept for those that are under way, the
first change of a byte standing. -/
def State.shield (s t : State) : State :=
  let mine (k : Core) (o : TileOp) : Bool := o.out != 0 && (s.core k.dev k.n).ops.any fun x => x.n == o.n
  let keep (old : List (Nat × Byte)) (o : TileOp) : TileOp := { o with kept := o.kept ++ old.filter fun b => !o.kept.any fun k => k.1 == b.1 }
  if !(t.cores.any fun k => k.ops.any (mine k)) then t
  else
    { t with cores := t.cores.map fun k =>
        if k.ops.any (mine k) then { k with ops := k.ops.map fun o => if mine k o then keep (s.changes t k.dev k.n) o else o } else k }

/-- A draft that an operation names, read once and checked for its rank and format; `fmt` is 8 for `.raw`. -/
def State.opDraft (s : State) (G : Group) (o : TileOp) (x : DWord) (fmt z : Nat) (have_ : Option (List Byte)) : Except Halt (Option (List Byte)) × State :=
  if refSrc x != 0 then (.ok none, s)
  else match have_ with
    | some bs => (.ok (some bs), s)
    | none => match s.readDraft G (refDraft x) true o.asIssued with
      | (.error h, s1) => (.error h, s1)
      | (.ok bs, s1) =>
        let d := draftOf bs
        if !((fmt ≤ 7 && d.fmt == pageFmtOf fmt) || (d.fmt == 0 && 2 ^ d.esize == z)) then (.error (.bad .memoryAccess 7 d.base 0), s1)
        else (.ok (some bs), s1)

/-- The element at row `r`, position `k` of an operand of an operation (DEDUCED, assumption log 40). -/
def State.opElem (s : State) (G : Group) (o : TileOp) (x : DWord) (draft : Option (List Byte)) (fmt r k : Nat) : Except Halt Nat × State :=
  let z := zOf fmt
  match refSrc x, draft with
  | 0, some bs =>
    let d := draftOf bs
    match d.at_ [((refCk x + k : Nat) : Int), ((refCx x + r : Nat) : Int)] with
    | none => (.ok (leNat d.fillBytes), s)
    | some va => match s.engAccess G.engPort false z (fun p => p == 0 || p == pageFmtOf fmt) va 4 with
      | (.error h, s1) => (.error h, s1)
      | (.ok y, s1) => match s1.engRead G.engPort y va z with
        | (.error h, s2) => (.error h, s2)
        | (.ok b, s2) => (.ok (leNat (o.asIssued ((List.range z).map fun i => y.pa + i) b)), s2)
  | 1, _ =>
    let at_ := refOffset x r k z
    if G.spadsz < at_ + z then (.error (.bad .memoryAccess 10 (BitVec.ofNat 64 at_) 0), s)
    else (.ok (leNat (o.asIssued ((List.range z).map fun i => G.spadAddr (at_ + i)) (s.spadBytes G at_ z))), s)
  | _, _ =>
    let at_ := refOffset x r k z
    if 2 ^ 31 < at_ + z then (.error (.bad .memoryAccess 11 (BitVec.ofNat 64 at_) 0), s)
    else if !(s.regionOf G).beam then (.error (.bad .memoryAccess 12 (BitVec.ofNat 64 at_) 0), s)
    else if s.poison.contains (lineOf (beamAddr G.dev at_)) then (.error (.bad .uncorrectable 1 (BitVec.ofNat 64 at_) 0), s)
    else (.ok (leNat (o.asIssued ((List.range z).map fun i => beamAddr G.dev at_ + i) (s.bytes (beamAddr G.dev at_) z))), s)

/-- Positions of one row read in ascending k. -/
def State.opRow (s : State) (G : Group) (o : TileOp) (x : DWord) (draft : Option (List Byte)) (fmt r : Nat) : List Nat → Except Halt (List Nat) × State
  | [] => (.ok [], s)
  | k :: ks => match s.opElem G o x draft fmt r k with
    | (.error h, s1) => (.error h, s1)
    | (.ok v, s1) => match s1.opRow G o x draft fmt r ks with
      | (.error h, s2) => (.error h, s2)
      | (.ok vs, s2) => (.ok (v :: vs), s2)

/-- The rows of one k-block of an operand. -/
def State.opRows (s : State) (G : Group) (o : TileOp) (x : DWord) (draft : Option (List Byte)) (fmt q : Nat) : List Nat → Except Halt (List (List Nat)) × State
  | [] => (.ok [], s)
  | r :: rs => match s.opRow G o x draft fmt r ((List.range 32).map fun k => 32 * q + k) with
    | (.error h, s1) => (.error h, s1)
    | (.ok v, s1) => match s1.opRows G o x draft fmt q rs with
      | (.error h, s2) => (.error h, s2)
      | (.ok vs, s2) => (.ok (v :: vs), s2)

/-- One element of a tdrain stored at row `i`, position `j` (R253): the operation with the bytes written. -/
def State.drainPut (s : State) (G : Group) (o : TileOp) (i j : Nat) (bs : List Byte) : Except Halt TileOp × State :=
  let z := bs.length
  let x := o.refA
  let on : TileOp := { o with bytes := o.bytes + z }
  match refSrc x, o.draftA with
  | 0, some b =>
    match (draftOf b).at_ [((refCk x + j : Nat) : Int), ((refCx x + i : Nat) : Int)] with
    | none => (.ok o, s)
    | some va => match s.engAccess G.engPort true z (fun p => p == 0 || (!o.raw && p == pageFmtOf o.fmt)) va 4 with
      | (.error h, s1) => (.error h, s1)
      | (.ok y, s1) => match s1.engPut G.engPort y va bs with
        | (.error h, s2) => (.error h, s2)
        | (.ok _, s2) => (.ok { on with cover := (coverStep o.cover y.pa z).1 }, s2.coverLine o.cover y.pa z)
  | _, _ =>
    let at_ := refOffset x i j z
    if G.spadsz < at_ + z then (.error (.bad .memoryAccess 10 (BitVec.ofNat 64 at_) 0), s) else (.ok on, s.storeSpad G at_ bs)

/-- The exact value of a real cell. -/
def cellValue (tag : Tag) (rm : Rounding) (c : BitVec 128) : Num :=
  if tag == .x128 then x128Value c else k32Value rm (cellWord c 0) (cellWord c 1)

/-- The bytes that tdrain writes of a cell (R253). -/
def drainBytes (fmt : Nat) (raw : Bool) (rm : Rounding) (tag : Tag) (c : BitVec 128) : List Byte :=
  if raw then leBytes 16 c.toNat
  else
    let v := cellValue tag rm c
    match fmt with
    | 0 => leBytes 1 (tenc8 (toF32 rm v))
    | 1 => leBytes 1 (tenc6 (toF32 rm v))
    | 2 => leBytes 1 (BitVec.ofInt 8 (clampInt (-128) 127 (v.toInt rm))).toNat
    | 3 => leBytes 1 (clampInt 0 255 (v.toInt rm)).toNat
    | 4 => leBytes 2 (Fmt.f16.encode rm false v)
    | 5 => leBytes 2 (Fmt.bf16.encode rm false v)
    | 6 => leBytes 4 (toF32 rm v).toNat
    | _ => leBytes 4 (toF32 rm (k32Value rm (cellWord c 0) (cellWord c 1))).toNat ++ leBytes 4 (toF32 rm (k32Value rm (cellWord c 2) (cellWord c 3))).toNat

/-- The tags that a tdrain accepts (R253). -/
def drainTag (fmt : Nat) (raw : Bool) (tag : Tag) : Bool :=
  raw || (match fmt with | 2 | 3 => tag == .x128 | 7 => tag == .c32k | _ => tag != .c32k)

/-! ## Operations in their order (R244, R245) -/

/-- An operation that has not completed: the engine still holds it, or one of its deliveries is on its way. -/
def State.opLive (s : State) (n : Nat) : Bool := (s.cores.any fun c => c.ops.any fun o => o.n == n) || s.deliveries.any fun x => x.op.n == n

/-- A tile of a group. -/
def Group.tile? (G : Group) (n : Nat) : Option Tile := G.tiles.find? fun x => x.n == n
/-- Some tiles of a group changed. -/
def State.modTiles (s : State) (g : Nat) (ns : List Nat) (f : Tile → Tile) : State :=
  s.modGroup g fun G => { G with tiles := modIf (fun x => ns.contains x.n) f G.tiles }

/-- The forms that write the tiles they name. -/
def opWrites (i : Form) : Bool := match i with | .mma | .mmap | .tzero | .topen => true | _ => false

/-- A tile as it stands once an operation of an issuer that has acquired `acq` is accepted on it (R246). -/
def Tile.accept (x : Tile) (n : Nat) (i : Form) (tag : Option Tag) (acq : List Nat) : Tile :=
  let loose := x.tws.filter fun w => !acq.contains w.1
  let marks : BitVec 1024 := loose.foldl (fun m w => m ||| ((BitVec.ofNat 1024 (2 ^ w.2.2 - 1)) <<< w.2.1)) 0
  let undef := if opWrites i && !loose.isEmpty then BitVec.allOnes 1024
    else if (i == .tzero || i == .mmap) then 0 else x.undef ||| marks
  { x with lastOp := n, lastWrites := opWrites i, tws := [], undef, tag := tag.getD x.tag }

/-- The issuing treadle's name for the operation, or the end of a weft's own instruction (DEDUCED, assumption log 39). -/
def State.acceptOp (s : State) (c : Ctx) (o : TileOp) (tag : Option Tag) : State :=
  let G := (s.group? o.g).getD c.G
  let acq := ((s.weft? c.r.g c.r.w).getD c.wf).acq
  let s1 := s.modTiles o.g o.tiles fun x => x.accept o.n o.form tag acq
  let s2 := s1.modCore G.dev G.core fun k =>
    { k with ops := k.ops ++ [o], engAt := if k.ops.all (fun x => x.pause.isSome || x.form == .topen) then s.clk else k.engAt }
  if c.isTreadle then s2.modTreadle c.r.g c.r.w fun T => { T with unfenced := T.unfenced ++ [o.n] } else s2

/-- An operation may run: no earlier one of the same group on any of its tiles is left, and nothing pauses it; one that has
failed stays, not completed, until its trap ends the group (R423). -/
def opTurn (ops : List TileOp) (o : TileOp) : Bool :=
  o.pause.isNone && !o.failed && !(ops.takeWhile fun x => x.n != o.n).any fun x => x.g == o.g && x.tiles.any fun t => o.tiles.contains t

/-- An operation of a core replaced or, with none, taken out; the engine has made progress. -/
def State.putOp (s : State) (d core n : Nat) (o : Option TileOp) : State :=
  s.modCore d core fun k =>
    { k with engAt := s.clk, ops := (match o with | some x => modIf (fun y => y.n == n) (fun _ => x) k.ops | none => k.ops.filter fun y => y.n != n) }

/-- An operation has completed: a weft's own lowers its TL unit and its flag and waits to be acquired (R244, R250). -/
def State.opDone (s : State) (o : TileOp) : State :=
  if o.out == 0 then s
  else
    let setf := (((s.weft? o.g o.w).bind fun w => w.outs.find? fun x => x.n == o.out).map fun x => x.setf).getD 15
    (s.modWeft o.g o.w fun w => { w with own := w.own ++ [(o.n, setf)] }).instrComplete o.g o.w o.out

/-- A trap that an operation raises on its group (R237, R247, R395). -/
def State.opTrap (s : State) (o : TileOp) (cls : TrapClass) (reason : Nat) (va : DWord) : State :=
  s.later s.clk (.deferredTrap o.g {
    cls, reason, agent := .engine, precise := false, pc := o.pc, addr := va,
    wid := if treadleWid ≤ o.w then 0 else o.w, bytes := o.bytes, kblk := o.kblk })

/-- An operation stops at an element: it waits for a link (R265), pauses for a page, or fails. -/
def State.opHalt (s : State) (G : Group) (o : TileOp) : Halt → State
  | .wait => s.putOp G.dev G.core o.n (some o)
  | .pause va access reason => (s.raiseFault G.dev G.ctx va access .engine reason).putOp G.dev G.core o.n (some { o with pause := some (va.toNat / 65536) })
  | .bad cls reason va _ => (s.putOp G.dev G.core o.n (some { o with failed := true })).opTrap o cls reason va

/-- One k-block of an mma or mmap (R242, R247). -/
def State.macStep (s : State) (G : Group) (o : TileOp) : State :=
  let fmt := o.fmt
  let R := refTn o.refA + 1
  let C := refTn o.refB + 1
  let s0 := if o.form == .mmap && o.kblk == 0 then s.modTiles o.g o.tiles fun x => { x with cells := [], nar := false } else s
  match s0.opDraft G o o.refA fmt (zOf fmt) o.draftA with
  | (.error h, s1) => s1.opHalt G o h
  | (.ok da, s1) => match s1.opDraft G o o.refB fmt (zOf fmt) o.draftB with
    | (.error h, s2) => s2.opHalt G { o with draftA := da } h
    | (.ok db, s2) =>
      let o1 : TileOp := { o with draftA := da, draftB := db }
      match s2.opRows G o1 o1.refA da fmt o1.kblk ((List.range (32 * R)).map fun r => o1.rowOff + r) with
      | (.error h, s3) => s3.opHalt G o1 h
      | (.ok rows, s3) => match s3.opRows G o1 o1.refB db fmt o1.kblk ((List.range (32 * C)).map fun r => o1.colOff + r) with
        | (.error h, s4) => s4.opHalt G o1 h
        | (.ok cols, s4) =>
          let block (s : State) (u : Nat × Nat) : State :=
            s.modTiles o1.g [u.1] fun x => x.mac fmt (rows.drop (32 * (u.2 / C))) (cols.drop (32 * (u.2 % C)))
          let s5 := o1.tiles.zipIdx.foldl block s4
          if refKn o1.refA ≤ o1.kblk then (s5.putOp G.dev G.core o1.n none).opDone { o1 with kblk := o1.kblk + 1 }
          else s5.putOp G.dev G.core o1.n (some { o1 with kblk := o1.kblk + 1 })

/-- Cells of one tile drained from the next one on, at most `k` of them. -/
def State.drainCells (s : State) (G : Group) (x : Tile) : Nat → TileOp → Option Halt × TileOp × State
  | 0, o => (none, o, s)
  | k + 1, o =>
    match s.drainPut G o (o.cell / 32) (o.cell % 32) (drainBytes o.fmt o.raw o.rm o.tag (x.read o.tag s.tick o.cell)) with
    | (.error h, s1) => (some h, o, s1)
    | (.ok o1, s1) => s1.drainCells G x k { o1 with cell := o.cell + 1 }

/-- One cell of a tdrain (R253, R247); a kill may stop it before the next (R429). -/
def State.drainNext (s : State) (G : Group) (o : TileOp) : State :=
  match G.tile? (o.tiles.headD 32) with
  | none => s.putOp G.dev G.core o.n none
  | some x => match s.opDraft G o o.refA (if o.raw then 8 else o.fmt) (if o.raw then 16 else zOf o.fmt) o.draftA with
    | (.error h, s1) => s1.opHalt G o h
    | (.ok da, s1) =>
      match s1.drainCells G x 1 { o with draftA := da } with
      | (some h, o1, s2) => s2.opHalt G o1 h
      | (none, o1, s2) => if 1024 ≤ o1.cell then (s2.putOp G.dev G.core o1.n none).opDone o1 else s2.putOp G.dev G.core o1.n (some o1)

/-! ## Deliveries (R248) -/

/-- The members of the issuing cluster group that a core mask names. -/
def State.maskTargets (s : State) (G : Group) (m : Nat) : List Group :=
  match G.unit with
  | none => []
  | some u => match s.party? u with
    | none => []
    | some P => (s.partyGroups P).filter fun H => m.testBit (H.core % 8)

/-- A tdadd sends its tile: one delivery per target that it has named at its acceptance. -/
def State.sendTile (s : State) (G : Group) (o : TileOp) : State :=
  match G.tile? (o.tiles.headD 32) with
  | none => s.putOp G.dev G.core o.n none
  | some x =>
    let cells := (List.range 1024).foldl (fun cs c => Sparse.set cs c (x.read o.tag s.tick c)) []
    let one (s : State) (gid : Nat) : State :=
      let (n, s1) := s.fresh
      let e : Delivery := { n, op := o, tgid := gid, grid := (G.rid, G.node), tile := o.word.toNat / 65536 % 32, nar := x.nar, cells }
      ({ s1 with deliveries := s1.deliveries ++ [e] } : State).later s.clk (.tdaddDelivery n)
    let s1 := o.targets.foldl one (s.putOp G.dev G.core o.n none)
    if o.targets.isEmpty then s1.opDone o else s1

/-- The group that a delivery goes to, as it stands; one whose target has been killed goes to none. -/
def State.target? (s : State) (e : Delivery) : Option Group := if e.lost then none else s.groups.find? fun H => H.rid == e.grid.1 && H.node == e.grid.2 && H.gid == e.tgid && !H.copy

/-- The target group has not yet been placed: it waits in its region's queue, its node has not been launched so far, or no such group has come. -/
def State.unplaced (s : State) (e : Delivery) : Bool :=
  match s.region? e.grid.1 with
  | none => false
  | some R => !e.lost && ((R.queue.any fun W => W.node == e.grid.2 && W.gid == e.tgid) ||
      (match R.node? e.grid.2 with | some N => (if N.kind == 1 then N.nbatch else N.len) ≤ e.tgid | none => false))

/-- A delivery is over; its operation completes with its last. -/
def State.delivered (s : State) (e : Delivery) : State :=
  let s1 : State := { s with deliveries := s.deliveries.filter fun x => x.n != e.n }
  if s1.opLive e.op.n then s1 else s1.opDone e.op

/-- The source traps for a delivery, which is dropped; its operation does not complete (R423). -/
def State.deliveryTrap (s : State) (e : Delivery) (reason : Nat) : State :=
  let s1 : State := { s with deliveries := s.deliveries.filter fun x => x.n != e.n }
  let s2 := match s1.group? e.op.g with
    | some G => s1.modCore G.dev G.core fun k => { k with ops := (k.ops.filter fun (x : TileOp) => x.n != e.op.n) ++ [{ e.op with failed := true }] }
    | none => s1
  s2.opTrap e.op .tile reason 0

/-- A source added to an open tile; with the last one the tile closes and its `topen` completes. -/
def State.addSource (s : State) (e : Delivery) (H : Group) (x : Tile) (n top : Nat) : State :=
  let closes := n ≤ x.added.length + 1
  let s1 := s.modTiles H.uid [x.n] fun x =>
    { x with
      cells := (List.range 1024).foldl (fun cs c => Sparse.set cs c (addCells e.op.tag (Sparse.get cs c) (Sparse.get e.cells c))) x.cells,
      nar := x.nar || e.nar, added := if closes then [] else x.added ++ [e.op.src], open_ := if closes then none else x.open_ }
  let s2 := s1.delivered e
  if closes then
    match (s2.core H.dev H.core).ops.find? fun o => o.n == top with
    | some o => (s2.putOp H.dev H.core top none).opDone o
    | none => s2
  else s2

/-- A delivery taken as far as it goes: it is added, held, dropped on a retired target, or its source traps (R248). -/
def State.deliver (s : State) (n : Nat) : State :=
  match s.deliveries.find? fun e => e.n == n with
  | none => s
  | some e0 =>
    let e : Delivery := { e0 with arrived := some (e0.arrived.getD s.clk) }
    let s0 : State := { s with deliveries := modIf (fun x => x.n == n) (fun _ => e) s.deliveries }
    match s0.target? e with
    | none => if s0.unplaced e then s0 else (s0.modGroup e.op.g fun G => { G with tdfail := true }).delivered e
    | some H =>
      if H.life != .placed then s0
      else match H.tile? e.tile with
        | none => s0
        | some x => match x.open_ with
          | none => s0
          | some (m, top) =>
            let ops := (s0.core H.dev H.core).ops
            if m ≤ e.op.src || x.added.contains e.op.src then s0.deliveryTrap e 10
            else if ops.any fun o => o.n == top && o.tag != e.op.tag then s0.deliveryTrap e 1
            else if !(ops.any fun o => o.n == top && opTurn ops o) then s0
            else if (s0.regionOf H).det && !(List.range e.op.src).all (fun k => x.added.contains k) then s0
            else s0.addSource e H x m top

/-- The cycle at which a held delivery times out: 65,536 cycles after its arrival or its target's placement, while its tile is not open (DEDUCED, assumption log 44). -/
def State.deliveryDue (s : State) (e : Delivery) : Option Nat :=
  match s.target? e, e.arrived with
  | some H, some a =>
    if H.life == .placed && (match H.tile? e.tile with | some x => x.open_.isNone | none => true) then some (max a H.placedAt + 65536) else none
  | _, _ => none

end Sys2Proof.Machine
end

