-- ==== Sys2Proof/Machine/Matrix.lean ====
section
/-! DEFINITION. Sys2Proof/Machine/Matrix.lean: the instructions of group 0xC and the steps of the matrix engine (R233 to R255, R418) -/

namespace Sys2Proof.Machine

/-! ## Tile operands and members (R235, R238) -/

/-- The issuer is a cluster treadle. -/
def Ctx.isCluster (c : Ctx) : Bool := c.r.w == clusterWid
/-- The issuing treadle. -/
def Ctx.trd (c : Ctx) (s : State) : Treadle := (s.treadle? c.r.g c.r.w).getD {}
/-- The value of a reference pair. -/
def Ctx.refVal (c : Ctx) (s : State) (o : Operand) : DWord := c.addr s o 0 (lowThread c.sel)

/-- The `n` tiles that an operand names, or the reason of its trap (R235). -/
def Ctx.tiles (c : Ctx) (s : State) (o : Operand) (n : Nat) : Except Nat (List Nat) :=
  let ok (ts : List Nat) : Except Nat (List Nat) := if ts.all fun t => t < 32 && t < c.G.ntiles then .ok ts else .error 2
  match o with
  | .tile b => ok ((List.range n).map fun u => b.toNat + u)
  | .tileC k e =>
    if !c.isTreadle then .error 3
    else
      let ring := (Sparse.get (c.trd s).ring k.toNat).toNat
      if ring < n then .error 2 else ok ((List.range n).map fun u => ((Sparse.get (c.trd s).lc k.toNat).toNat + e.toNat + u) % ring)
  | _ => .error 2

/-- The loop counter of a counted operand moved on after acceptance (R235). -/
def State.countTiles (s : State) (c : Ctx) (o : Operand) (n : Nat) : State :=
  match o with
  | .tileC k _ =>
    s.modTreadle c.r.g c.r.w fun T =>
      { T with lc := Sparse.set T.lc k.toNat (BitVec.ofNat 8 (((Sparse.get T.lc k.toNat).toNat + n) % (Sparse.get T.ring k.toNat).toNat)) }
  | _ => s

/-- The groups on which an instruction acts: the issuer's own, or every member for a cluster treadle (R238). -/
def State.actsOn (s : State) (c : Ctx) : List Group :=
  if c.isCluster then
    match c.G.unit.bind s.party? with
    | some P => s.partyGroups P
    | none => [c.G]
  else [(s.group? c.r.g).getD c.G]

/-- GC of a cluster group (R238). -/
def gridCols (g : Nat) : Nat := if g % 2 == 0 && 4 ≤ g then g / 2 else g
/-- Groups of the issuer's cluster group. -/
def Ctx.clusterSize (c : Ctx) : Nat := match c.R.node? c.G.node with | some N => N.cluster + 1 | none => 1

/-- An operation accepted on every group it acts on; the issuer goes on, and a weft's own completes with its operation (R244, R250). -/
def State.acceptAll (s : State) (c : Ctx) (tag : Option Tag) (opened : Option Nat) (make : Group → TileOp) : State :=
  let one (s : State) (H : Group) : State :=
    let (n, s1) := s.fresh
    let o0 := make H
    let o : TileOp := { o0 with n, w := c.r.w, pc := c.p.pc, out := if c.isTreadle then 0 else c.out }
    let s2 := s1.acceptOp c o tag
    match opened with
    | some k => s2.modTiles H.uid o.tiles fun x => { x with open_ := some (k, n), added := [] }
    | none => s2
  ((s.actsOn c).foldl one s).advance c

/-- Some tile of some group it acts on satisfies `p`. -/
def State.someTile (s : State) (c : Ctx) (ts : List Nat) (p : Tile → Bool) : Bool :=
  (s.actsOn c).any fun H => ts.any fun t => match H.tile? t with | some x => p x | none => false

/-! ## mma, mmap, tzero, topen, tdrain, tdadd -/

/-- mma and mmap at issue: their checks, then acceptance (R242). -/
def State.issueMac (s : State) (c : Ctx) (f : Fields) (i : Form) : State :=
  let a := c.refVal s f.a
  let b := c.refVal s f.b
  let fmt := modHi f.mod
  let n := (refTn a + 1) * (refTn b + 1)
  let loose (x : DWord) : Bool := refKn x != 3 || (refSrc x == 0 && refCk x % 128 != 0)
  if !refOk c.isCluster a || !refOk c.isCluster b then s.trap c .tile 5
  else if refKn a != refKn b || (i == .mmap && (loose a || loose b)) then s.trap c .tile 6
  else match c.tiles s f.d n with
    | .error e => s.trap c .tile e
    | .ok ts =>
      if i == .mma && s.someTile c ts (fun x => x.tag != tagOf fmt) then s.trap c .tile 1
      else
        let gc := gridCols c.clusterSize
        (s.acceptAll c (if i == .mmap then some .x128 else none) none fun H =>
          { n := 0, g := H.uid, w := 0, form := i, mod := f.mod, tag := tagOf fmt, tiles := ts, refA := a, refB := b,
            rowOff := if c.isCluster then H.member / gc * (32 * (refTn a + 1)) else 0,
            colOff := if c.isCluster then H.member % gc * (32 * (refTn b + 1)) else 0 }).countTiles c f.d n

/-- mma (R242). -/
def execMma (f : Fields) (s : State) : Host.Outcome State Fault Refusal :=
  issue .mma f (fun c s => if c.sel == 0 then s.finishIdle c else s.issueMac c f .mma) s
/-- mmap (R242, R78). -/
def execMmap (f : Fields) (s : State) : Host.Outcome State Fault Refusal :=
  issue .mmap f (fun c s => if c.sel == 0 then s.finishIdle c else s.issueMac c f .mmap) s
/-- tzero (R251). -/
def execTzero (f : Fields) (s : State) : Host.Outcome State Fault Refusal :=
  issue .tzero f (fun c s =>
    let n := (c.once s f.a).toNat
    if c.sel == 0 then s.finishIdle c
    else if n == 0 || 32 < n then s.trap c .operand 20
    else match c.tiles s f.d n with
      | .error e => s.trap c .tile e
      | .ok ts =>
        (s.acceptAll c (some (tagOf (modHi f.mod))) none fun H =>
          { n := 0, g := H.uid, w := 0, form := .tzero, mod := f.mod, tag := tagOf (modHi f.mod), tiles := ts }).countTiles c f.d n) s
/-- The tag of a tile of a group. -/
def Group.tagAt (G : Group) (t : Nat) : Tag := match G.tile? t with | some x => x.tag | none => .x128
/-- topen (R248). -/
def execTopen (f : Fields) (s : State) : Host.Outcome State Fault Refusal :=
  issue .topen f (fun c s =>
    let n := (c.once s f.a).toNat
    if c.sel == 0 then s.finishIdle c
    else if n == 0 || 64 < n then s.trap c .operand 20
    else match c.tiles s f.d 1 with
      | .error e => s.trap c .tile e
      | .ok ts =>
        if s.someTile c ts fun x => x.open_.isSome then s.trap c .tile 7
        else (s.acceptAll c none (some n) fun H => { n := 0, g := H.uid, w := 0, form := .topen, tag := H.tagAt (ts.headD 0), tiles := ts }).countTiles c f.d 1) s
/-- tdrain (R253). -/
def execTdrain (f : Fields) (s : State) : Host.Outcome State Fault Refusal :=
  issue .tdrain f (fun c s =>
    let d := c.refVal s f.d
    let raw := f.mod.getLsbD 2
    if c.sel == 0 then s.finishIdle c
    else if !refOk c.isCluster d || refSrc d == 2 || refKn d != 0 || refTn d != 0 then s.trap c .tile 5
    else match c.tiles s f.a 1 with
      | .error e => s.trap c .tile e
      | .ok ts =>
        if s.someTile c ts fun x => !drainTag (modHi f.mod) raw x.tag then s.trap c .tile 1
        else (s.acceptAll c none none fun H =>
          { n := 0, g := H.uid, w := 0, form := .tdrain, mod := f.mod, tag := H.tagAt (ts.headD 0), tiles := ts, refA := d }).countTiles c f.a 1) s
/-- tdadd (R248). -/
def execTdadd (f : Fields) (s : State) : Host.Outcome State Fault Refusal :=
  issue .tdadd f (fun c s =>
    let d := c.once s f.d
    let src := (c.once s f.b).toNat
    let mask := d.toNat % 65536
    let named (H : Group) : List Group := s.maskTargets H mask
    let bad (H : Group) : Bool := 256 ≤ mask || (List.range 8).any fun k => mask.testBit k && !(named H).any fun T => T.core % 8 == k
    if c.sel == 0 then s.finishIdle c
    else if 63 < src then s.trap c .operand 20
    else if d.toNat / 2 ^ 21 != 0 then s.trap c .tile 5
    else if f.mod.getLsbD 2 && (s.actsOn c).any bad then s.trap c .tile 8
    else match c.tiles s f.a 1 with
      | .error e => s.trap c .tile e
      | .ok ts =>
        (s.acceptAll c none none fun H =>
          { n := 0, g := H.uid, w := 0, form := .tdadd, mod := f.mod, tag := H.tagAt (ts.headD 0), tiles := ts, word := d, src := src,
            targets := if f.mod.getLsbD 2 then (named H).map fun T => T.gid else [mask] }).countTiles c f.a 1) s

/-! ## tread, twrite (R252) -/

/-- Registers of a cell. -/
def cellWidth (f : Fields) : Nat := if f.mod.getLsbD 2 then 4 else if modHi f.mod == 7 then 2 else 1
/-- The tag suits the form. -/
def cellTag (f : Fields) (t : Tag) : Bool := f.mod.getLsbD 2 || (if modHi f.mod == 7 then t == .c32k else t != .c32k)
/-- The words that tread makes of a cell. -/
def treadWords (f : Fields) (t : Tag) (c : BitVec 128) : List Word :=
  let rm := roundingOf (modLo2 f.mod)
  if f.mod.getLsbD 2 then (List.range 4).map fun k => cellWord c k
  else if modHi f.mod == 7 then [toF32 rm (k32Value rm (cellWord c 0) (cellWord c 1)), toF32 rm (k32Value rm (cellWord c 2) (cellWord c 3))]
  else [toF32 rm (cellValue t rm c)]
/-- The cell that twrite makes of the registers of an element. -/
def twriteCell (f : Fields) (t : Tag) (v : Nat) : BitVec 128 :=
  let w (k : Nat) : Word := BitVec.ofNat 32 (v / 2 ^ (32 * k))
  if f.mod.getLsbD 2 then (if t == .k32 then BitVec.ofNat 128 (v % 2 ^ 64) else BitVec.ofNat 128 v)
  else if modHi f.mod == 7 then cellOf (w 0) 0 (w 1) 0
  else if t == .x128 then x128Of (roundingOf (modLo2 f.mod)) (f32v (w 0))
  else cellOf (w 0) 0 0 0

/-- The weft's access of a tile is ordered after the last operation on it (R246). -/
def Ctx.ordered (c : Ctx) (x : Tile) : Bool := x.lastOp == 0 || c.wf.acq.contains x.lastOp

/-- One thread's tread. -/
def State.treadThread (s : State) (c : Ctx) (f : Fields) (x : Tile) (t : Nat) : Thr × State :=
  let w := cellWidth f
  let n := (blockElems f w).length
  let k := (c.val s f.b t).toNat % 1024
  if 1024 < k + n then (.stop (.trap .operand 20 0 0), s)
  else
    let cell (e : Nat) : BitVec 128 := if c.ordered x then x.read x.tag s.tick (k + e) else undefinedCell x.tag s.tick (32768 * (t + 1) + 1024 * x.n + k + e)
    (.ok (((blockElems f w).zipIdx).flatMap fun ((i, j), e) => (destKeys f.d w t i j).zip (treadWords f x.tag (cell e))), s)

/-- One thread's twrite. -/
def State.twriteThread (s : State) (c : Ctx) (f : Fields) (x : Tile) (t : Nat) : Thr × State :=
  let w := cellWidth f
  let n := (blockElems f w).length
  let k := (c.val s f.b t).toNat % 1024
  if 1024 < k + n then (.stop (.trap .operand 20 0 0), s)
  else
    let vals := (blockElems f w).map fun (i, j) => twriteCell f x.tag (c.elem s .int w f.a t i j)
    let marks : BitVec 1024 := (BitVec.ofNat 1024 (2 ^ n - 1)) <<< k
    (.ok [], s.modTiles c.r.g [x.n] fun y =>
      { y with cells := Sparse.setRange y.cells k vals, tws := y.tws ++ [(c.out, k, n)],
               undef := if c.ordered x then y.undef &&& ~~~marks else if y.lastWrites then BitVec.allOnes 1024 else y.undef ||| marks })

/-- A tread or twrite: its checks, then its threads. -/
def State.cellMove (s : State) (c : Ctx) (f : Fields) (o : Operand) (one : Tile → State → Nat → Thr × State) : State :=
  if c.sel == 0 then s.finishIdle c
  else match c.tiles s o 1 with
    | .error e => s.trap c .tile e
    | .ok ts => match ((s.group? c.r.g).getD c.G).tile? (ts.headD 0) with
      | none => s.trap c .tile 2
      | some x =>
        if c.ordered x && !cellTag f x.tag then s.trap c .tile 1
        else (runThreads (one x) (threadsOf c.sel) { s }).finish c

/-- tread (R252). -/
def execTread (f : Fields) (s : State) : Host.Outcome State Fault Refusal :=
  issue .tread f (fun c s => s.cellMove c f f.a fun x s t => s.treadThread c f x t) s
/-- twrite (R252). -/
def execTwrite (f : Fields) (s : State) : Host.Outcome State Fault Refusal :=
  issue .twrite f (fun c s => s.cellMove c f f.d fun x s t => s.twriteThread c f x t) s

/-! ## Batches (R244, R254) -/

/-- The operations of a batch. -/
def Treadle.batch (T : Treadle) (n : Nat) : List Nat := ((T.batches.find? fun b => b.1 == n).map fun b => b.2).getD []
/-- A batch is in flight. -/
def State.inFlight (s : State) (T : Treadle) (n : Nat) : Bool := (T.batch n).any s.opLive
/-- Operations acquired by the issuer (R246). -/
def State.acquireOps (s : State) (c : Ctx) (ns : List Nat) : State := s.modW c fun w => { w with acq := (w.acq ++ ns).eraseDups }

/-- tfence (R244). -/
def execTfence (f : Fields) (s : State) : Host.Outcome State Fault Refusal :=
  issue .tfence f (fun c s =>
    let n := (c.once s f.a).toNat
    let T := c.trd s
    if c.sel == 0 then s.finishIdle c
    else if !c.isTreadle then s.trap c .tile 3
    else if 15 < n then s.trap c .operand 11
    else if s.inFlight T n || (8 ≤ ((List.range 16).filter (s.inFlight T)).length && T.unfenced.any s.opLive) then s.holdP c .tfence 0 0
    else (s.modTreadle c.r.g c.r.w fun T => { T with batches := (T.batches.filter fun b => b.1 != n) ++ [(n, T.unfenced)], unfenced := [] }).advance c) s
/-- The treadle whose batch a `twait` or whose stop a `tstop` names: the cluster treadle with `.cluster`, or for a cluster treadle itself. -/
def Ctx.named (c : Ctx) (f : Fields) : Nat := if f.mod.getLsbD 0 || c.isCluster then clusterWid else treadleWid
/-- twait (R254): the hold keeps the number of the batch. -/
def execTwait (f : Fields) (s : State) : Host.Outcome State Fault Refusal :=
  issue .twait f (fun c s =>
    let n := if c.heldAs .twait then c.arg else (c.once s f.a).toNat
    if c.sel == 0 then s.finishIdle c
    else if f.mod.getLsbD 0 && c.G.unit.isNone then s.trap c .tile 3
    else if 15 < n then s.trap c .operand 11
    else
      let T := (s.treadle? c.r.g (c.named f)).getD {}
      if s.inFlight T n then s.holdP c .twait n 0 else (s.acquireOps c (T.batch n)).finishLate c []) s

/-! ## The treadle (R236, R255) -/

/-- tlc (R255). -/
def execTlc (f : Fields) (s : State) : Host.Outcome State Fault Refusal :=
  issue .tlc f (fun c s =>
    let start := (c.once s f.a).toNat
    let ring := (c.once s f.b).toNat
    let k := modLo2 f.mod
    if c.sel == 0 then s.finishIdle c
    else if !c.isTreadle then s.trap c .tile 3
    else if 31 < start || ring == 0 || 32 < ring || ring ≤ start then s.trap c .operand 20
    else (s.modTreadle c.r.g c.r.w fun T => { T with lc := Sparse.set T.lc k (BitVec.ofNat 8 start), ring := Sparse.set T.ring k (BitVec.ofNat 8 ring) }).advance c) s
/-- trun (R255). -/
def execTrun (f : Fields) (s : State) : Host.Outcome State Fault Refusal :=
  issue .trun f (fun c s =>
    let cluster := f.mod.getLsbD 0
    let w := if cluster then clusterWid else treadleWid
    let T := (s.treadle? c.r.g w).getD {}
    let x := c.refVal s f.a
    if c.sel == 0 then s.finishIdle c
    else if cluster && (c.G.unit.isNone || c.G.member != 0) then s.trap c .tile 3
    else if T.running then s.trap c .tile 11
    else if x.toNat % 4096 != 0 then s.trap c .tile 5
    else
      let sregs := (List.range 64).foldl (fun m k => Sparse.set m k (c.s s k)) []
      (s.modTreadle c.r.g w fun T =>
        { T with running := true, stopping := false, lc := [], ring := [(0, 32), (1, 32), (2, 32), (3, 32)],
                 weft := { wid := w, lane := c.wf.lane, paths := [{ mask := 1 }], s := sregs, seg := x, acq := T.weft.acq } }).finishLate c []) s

/-- Every operation that a treadle has issued. -/
def Treadle.issued (T : Treadle) : List Nat := T.unfenced ++ T.batches.flatMap fun b => b.2
/-- A treadle stopped. -/
def State.stopTreadle (s : State) (g w : Nat) : State :=
  s.modTreadle g w fun T => { T with running := false, stopping := false, weft := { T.weft with paths := [] } }
/-- tstop (R255): in a stream it stops its own treadle, issued by a weft the group's or the cluster's. -/
def execTstop (f : Fields) (s : State) : Host.Outcome State Fault Refusal :=
  issue .tstop f (fun c s =>
    let w := if c.isTreadle then c.r.w else c.named f
    let T := (s.treadle? c.r.g w).getD {}
    if c.sel == 0 then s.finishIdle c
    else if !T.running then s.finishLate c []
    else
      let s1 := if c.isTreadle then s
        else s.modTreadle c.r.g w fun T => { T with stopping := true, weft := { T.weft with paths := T.weft.paths.map fun p => { p with hold := none } } }
      if T.issued.any s.opLive then s1.holdP c .tstop 0 0
      else
        let s2 := s1.stopTreadle c.r.g w
        if c.isTreadle then s2 else (s2.acquireOps c T.issued).finishLate c []) s

/-! ## The engine's steps -/

/-- TILE_OP_COMPLETE (R242 to R245, R253): an operation whose turn it is moves on by one k-block, one cell, its sending, or whole, and completes
with the last. -/
def State.opStep (s : State) (g n : Nat) : State :=
  match s.group? g with
  | none => s
  | some G => match (s.core G.dev G.core).ops.find? fun o => o.n == n with
    | none => s
    | some o =>
      if !opTurn (s.core G.dev G.core).ops o then s
      else match o.form with
        | .mma | .mmap => s.ticked.macStep G o
        | .tdrain => s.ticked.drainNext G o
        | .tdadd => s.ticked.sendTile G o
        | .tzero => ((s.modTiles g o.tiles fun x => { x with cells := [], nar := false }).putOp G.dev G.core n none).opDone o
        | _ => s

/-- TILE_OP_COMPLETE. -/
def execTileOpComplete (g op : Nat) (s : State) : Host.Outcome State Fault Refusal := .next (s.opStep g op)
/-- TDADD_DELIVERY (R248). -/
def execTdaddDelivery (n : Nat) (s : State) : Host.Outcome State Fault Refusal := .next (s.deliver n)
/-- TILE_NOT_OPEN_TIMEOUT (R248). -/
def execTileNotOpenTimeout (n : Nat) (s : State) : Host.Outcome State Fault Refusal :=
  .next (match s.deliveries.find? fun e => e.n == n with
    | none => s
    | some e => match s.deliveryDue e with
      | some due => if due ≤ s.clk then s.deliveryTrap e 9 else s
      | none => s)

/-- The operations of a core that wait on something other than the engine: on a page, on deliveries, or behind one that does (R418). -/
def waitingOps (ops : List TileOp) : List TileOp :=
  ops.foldl (fun ws o => if o.pause.isSome || o.failed || o.form == .topen || ws.any (fun x => x.g == o.g && x.tiles.any fun t => o.tiles.contains t) then ws ++ [o] else ws) []
/-- The operations of a core that the engine could work on. -/
def State.workingOps (s : State) (d core : Nat) : List TileOp :=
  let ops := (s.core d core).ops
  ops.filter fun o => !(waitingOps ops).any fun x => x.n == o.n
/-- The engine of a core has been hung for 2^24 cycles (R418). -/
def State.hung (s : State) (d core : Nat) : Bool :=
  (s.workingOps d core).any (fun o => (match s.group? o.g with | some G => G.life == .placed | none => false)) && (s.core d core).engAt + 2 ^ 24 ≤ s.clk

/-- A hung engine's reset (R418): its operations and tiles are discarded, and the groups that use it are killed. -/
def State.engineReset (s : State) (d core : Nat) : State :=
  let uses (G : Group) : Bool :=
    0 < G.ntiles || (List.range 16).any (s.inFlight G.trd) || G.wefts.any fun w => w.tl != 0
  let gs := (s.resident d core).filter uses
  let kblk (G : Group) : Nat := (((s.workingOps d core).find? fun o => o.g == G.uid).map fun o => o.kblk).getD 0
  let toward := s.deliveries.filter fun e => match s.target? e with | some H => gs.any fun G => G.uid == H.uid | none => false
  let s1 := s.modCore d core fun k => { k with ops := [], engAt := s.clk }
  let s2 := toward.foldl (fun s e => (s.modGroup e.op.g fun G => { G with tdfail := true }).delivered e) s1
  let fall (s : State) (G : Group) : State :=
    let t : TrapInfo := { cls := .engineReset, reason := 1, agent := .engine, precise := false, kblk := kblk G }
    match s.group? G.uid, s.region? G.rid with
    | none, some R => s.record G.rid t G.gid G.core G.node R.rcb
    | _, _ => s.takeTrap G.uid t
  gs.foldl fall s2

/-- ENGINE_HANG_RESET (R418). -/
def execEngineHangReset (dev core : Nat) (s : State) : Host.Outcome State Fault Refusal :=
  .next (if s.hung dev core then s.engineReset dev core else s)

end Sys2Proof.Machine
end

