-- ==== Sys2Proof/Machine/Predicate.lean ====
section
/-! DEFINITION. Sys2Proof/Machine/Predicate.lean: the compare and predicate instructions of group 0x3 (R164 to R167, R172) -/

namespace Sys2Proof.Machine

/-- A predicate result for each selected thread. -/
def State.predBlock (s : State) (i : Form) (f : Fields) (c : Ctx) (g : Nat → Bool) : State :=
  s.finish i c (c.laneWrites f.d fun t => (g (c.srcThread f t)).toNat)

/-- icmp (R165). -/
def execIcmp (f : Fields) (s : State) : Host.Outcome State Fault Refusal :=
  issue .icmp f (fun c s =>
    let ty := modTy f
    let e (o : Operand) (t : Nat) : Nat := c.elem s .int (tyCols ty) o t 0 0
    s.predBlock .icmp f c fun t => icmpTest ty.signed ty.width (modLo f.mod) (e f.a t) (e f.b t)) s
/-- fcmp (R172). -/
def execFcmp (f : Fields) (s : State) : Host.Outcome State Fault Refusal :=
  issue .fcmp f (fun c s =>
    let e (o : Operand) (t : Nat) : Word := BitVec.ofNat 32 (c.elem s (.flt .f32) 1 o t 0 0)
    s.predBlock .fcmp f c fun t => fcmpTest (modLo f.mod) (e f.a t) (e f.b t)) s
/-- fclass (R172): whether the class of A is in the mask B. -/
def execFclass (f : Fields) (s : State) : Host.Outcome State Fault Refusal :=
  issue .fclass f (fun c s =>
    s.predBlock .fclass f c fun t =>
      (c.val s f.b t).getLsbD (fclassBit (BitVec.ofNat 32 (c.elem s (.flt .f32) 1 f.a t 0 0)))) s
/-- sel (R166). -/
def execSel (f : Fields) (s : State) : Host.Outcome State Fault Refusal :=
  issue .sel f (fun c s =>
    let ty := modTy f
    let w := tyCols ty
    let e := c.elem s (intWiden ty) w
    s.finish .sel c (c.blockWrites f w fun t r j => if c.pd s (modLo f.mod) t then e f.a t r j else e f.b t r j)) s
/-- The predicate an operand names, for a thread. -/
def Ctx.predOf (c : Ctx) (s : State) (o : Operand) (t : Nat) : Bool := match o with | .pred n => c.pd s n.toNat t | _ => false
/-- pand (R167). -/
def execPand (f : Fields) (s : State) : Host.Outcome State Fault Refusal := issue .pand f (fun c s => s.predBlock .pand f c fun t => predElem .pand (c.predOf s f.a t) (c.predOf s f.b t)) s
/-- por (R167). -/
def execPor (f : Fields) (s : State) : Host.Outcome State Fault Refusal := issue .por f (fun c s => s.predBlock .por f c fun t => predElem .por (c.predOf s f.a t) (c.predOf s f.b t)) s
/-- pxor (R167). -/
def execPxor (f : Fields) (s : State) : Host.Outcome State Fault Refusal := issue .pxor f (fun c s => s.predBlock .pxor f c fun t => predElem .pxor (c.predOf s f.a t) (c.predOf s f.b t)) s
/-- pnot (R167). -/
def execPnot (f : Fields) (s : State) : Host.Outcome State Fault Refusal := issue .pnot f (fun c s => s.predBlock .pnot f c fun t => predElem .pnot (c.predOf s f.a t) false) s
/-- pmov (R167): between a predicate and any other kind. -/
def execPmov (f : Fields) (s : State) : Host.Outcome State Fault Refusal :=
  issue .pmov f (fun c s =>
    match f.d with
    | .pred _ => s.predBlock .pmov f c fun t => c.val s f.a t != 0
    | _ => s.finish .pmov c (c.blockWrites f 1 fun t _ _ => (c.predOf s f.a t).toNat)) s
/-- pany (R167). -/
def execPany (f : Fields) (s : State) : Host.Outcome State Fault Refusal :=
  issue .pany f (fun c s =>
    let m := c.once s f.a
    s.predBlock .pany f c fun t => (List.range 8).any fun k => m.getLsbD k && c.pd s k t) s

end Sys2Proof.Machine
end

