-- ==== Sys2Proof/Machine/Moves.lean ====
section
/-! DEFINITION. Sys2Proof/Machine/Moves.lean: data movement of group 0x7 (R183 to R189) -/

namespace Sys2Proof.Machine

/-- Columns of a `.b32` or `.b64` element (R183). -/
def movCols (f : Fields) : Nat := if modHi f.mod == 7 then 2 else 1

/-- mov (R184). -/
def execMov (f : Fields) (s : State) : Host.Outcome State Fault Refusal :=
  issue .mov f (fun c s => s.finish .mov c (c.blockWrites f (movCols f) fun t r j => c.elem s .int (movCols f) f.a t r j)) s
/-- movi (R184). -/
def execMovi (f : Fields) (s : State) : Host.Outcome State Fault Refusal :=
  issue .movi f (fun c s => s.finish .movi c (c.blockWrites f (movCols f) fun _ _ _ => imm32Nat true (movCols f) f)) s
/-- movs (R186): the scalar takes the register of thread b mod 16. -/
def execMovs (f : Fields) (s : State) : Host.Outcome State Fault Refusal :=
  issue .movs f (fun c s =>
    let b := c.elem s .int (movCols f) f.b (lowThread c.sel) 0 0 % 16
    s.finish .movs c (c.blockWrites f (movCols f) fun _ r j => c.elem s .int (movCols f) f.a b r j)) s
/-- bcast (R186). -/
def execBcast (f : Fields) (s : State) : Host.Outcome State Fault Refusal :=
  issue .bcast f (fun c s =>
    let b := c.elem s .int (movCols f) f.b (lowThread c.sel) 0 0 % 16
    s.finish .bcast c (c.blockWrites f (movCols f) fun _ r j => c.elem s .int (movCols f) f.a b r j)) s

/-- The source thread of shfl and whether it is valid (R186). -/
def shflSource (mode t b : Nat) : Nat × Bool :=
  match mode with
  | 0 => (b, b < 16)
  | 1 => (t - b, b ≤ t)
  | 2 => (t + b, t + b < 16)
  | _ => (t ^^^ b, b < 16)

/-- shfl (R186) (DEDUCED, assumption log 22). -/
def execShfl (f : Fields) (s : State) : Host.Outcome State Fault Refusal :=
  issue .shfl f (fun c s =>
    let w := movCols f
    let src (t : Nat) : Nat × Bool := shflSource (modLo2 f.mod) t (c.val s f.b t).toNat
    let ws := c.blockWrites f w fun t r j => c.elem s .int w f.a (if (src t).2 then (src t).1 else t) r j
    let pv : List (RegKey × Word) := if modBit2 f.mod then (threadsOf c.sel).map fun t => (.p 6 t, if (src t).2 then 1 else 0) else []
    s.finish .shfl c (ws ++ pv)) s

/-- vote (R187) from the count, the threshold and the number of selected threads. -/
def voteTest (mode n k all : Nat) : Bool :=
  let k := if k == 0 then all else k
  match mode with
  | 0 => decide (k ≤ n)
  | 1 => decide (n < k)
  | 2 => n == 0 || n == all
  | _ => n % 2 == 1

/-- vote (R187). -/
def execVote (f : Fields) (s : State) : Host.Outcome State Fault Refusal :=
  issue .vote f (fun c s =>
    let n := ((threadsOf c.sel).filter fun t => c.predOf s f.a t).length
    let r := voteTest (modLo2 f.mod) n (c.once s f.b).toNat (threadsOf c.sel).length
    s.finish .vote c (c.laneWrites f.d fun _ => r.toNat)) s
/-- ballot (R187). -/
def execBallot (f : Fields) (s : State) : Host.Outcome State Fault Refusal :=
  issue .ballot f (fun c s =>
    let m := maskOf ((threadsOf c.sel).filter fun t => c.predOf s f.a t)
    s.finish .ballot c (c.laneWrites f.d fun _ => m.toNat)) s
/-- match (R187). -/
def execMatchThreads (f : Fields) (s : State) : Host.Outcome State Fault Refusal :=
  issue .matchThreads f (fun c s =>
    let w := movCols f
    let a (t : Nat) : Nat := c.elem s .int w f.a t 0 0
    let same (t : Nat) : Mask := maskOf ((threadsOf c.sel).filter fun u => a u == a t)
    s.finish .matchThreads c (c.blockWrites f w fun t _ _ =>
      if modLo f.mod == 1 then (if same t == c.sel then c.sel.toNat else 0) else (same t).toNat)) s
/-- blkmov (R188): the block transposed. -/
def execBlkmov (f : Fields) (s : State) : Host.Outcome State Fault Refusal :=
  issue .blkmov f (fun c s => s.finish .blkmov c (c.blockWrites f 1 fun t r j => c.elem s .int 1 f.a t j r)) s
/-- rdsr (R189): one or two special registers from one sample. -/
def execRdsr (f : Fields) (s : State) : Host.Outcome State Fault Refusal :=
  issue .rdsr f (fun c s =>
    let n := match f.a with | .special n => n.toNat | _ => 0
    s.finish .rdsr c (c.blockWrites f (movCols f) fun t _ _ =>
      (c.special s n t).toNat + if movCols f == 2 then 2 ^ 32 * (c.special s (n + 1) t).toNat else 0)) s

/-- The check on a value written to `%ringcfg`: RING_BUSY before RING_RANGE (R217). -/
def Group.ringCheck (G : Group) (v : Word) : Option Nat :=
  let new := ringNorm v
  let old := ringNorm G.ringcfg
  let changed := new.extractLsb' 0 28 != old.extractLsb' 0 28
  if changed && (old.getLsbD 28 || G.cmds.any fun c => c.started && c.status.isNone) then some 15
  else if new.getLsbD 28 && G.spadsz < (new.extractLsb' 0 20).toNat + 32 * ((new.extractLsb' 20 8).toNat + 2) then some 14
  else none

/-- wrsr (R189): the values are checked thread by thread before any is written. -/
def execWrsr (f : Fields) (s : State) : Host.Outcome State Fault Refusal :=
  issue .wrsr f (fun c s =>
    let n := match f.d with | .special n => n.toNat | _ => 0
    let w := movCols f
    let val (t : Nat) : Nat := c.elem s .int w f.a (c.srcThread f t) 0 0
    let ts := if f.u then [lowThread c.sel] else threadsOf c.sel
    let writes (t : Nat) : List (Nat × Word) := (n, BitVec.ofNat 32 (val t)) :: if w == 2 then [(n + 1, BitVec.ofNat 32 (val t / 2 ^ 32))] else []
    if c.sel == 0 then s.finishIdle c
    else match ((ts.flatMap writes).filter fun x => x.1 == 0x017).findSome? fun x => c.G.ringCheck x.2 with
      | some reason => s.trap c .operand reason
      | none =>
        let keys := n :: if w == 2 then [n + 1] else []
        let s1 := (ts.flatMap writes).foldl (fun s x => s.writeSpecial c x.1 x.2) s
        let ys : List Young := keys.map fun k => { key := .sp k, old := s.special c k (lowThread c.sel), gap := c.p.gap, mask := c.p.mask, at_ := c.p.last }
        let s2 := s1.modW c fun w => { w with young := ys ++ w.young.filter fun y => !keys.any fun k => y.key == .sp k }
        (s2.advance c).completeAt c (c.p.last + 6)) s

end Sys2Proof.Machine
end

