-- ==== Sys2Proof/Machine/Scopes.lean ====
section
/-! DEFINITION. Sys2Proof/Machine/Scopes.lean: tournament scopes: their launch, rounds, rankings and ends, score and trnd (R376 to R389) -/

namespace Sys2Proof.Machine

/-- The least score (R378). -/
def leastScore : DWord := 0x8000000000000000

/-- A rival that has not been killed takes part in the rounds (R378, R382). -/
def Rival.live (r : Rival) : Bool := (r.st == 1 || r.st == 3) && !r.killed

/-- One rival of a scope changed. -/
def State.modRival (s : State) (sid i : Nat) (f : Rival → Rival) : State :=
  s.modTourn sid fun T => { T with rivals := modIf (fun r => r.idx == i) f T.rivals }

/-- Bits hi:lo of the 64-bit word at an offset of a scope's record written (R376). -/
def State.putScope (s : State) (T : Tourn) (off hi lo v : Nat) : State :=
  match s.region? T.rid with
  | none => s
  | some R => s.dput R.dev R.ctx (T.addr + BitVec.ofNat 64 off) hi lo v

/-! ## The start (R377, R378) -/

/-- A rival's grid launched: its groups wait for placement. -/
def State.launchRival (s : State) (T : Tourn) (r : Rival) : State :=
  let s1 := (s.putScope T (0x40 + 16 * r.idx) 17 16 1).putScope T (0x48 + 16 * r.idx) 63 0 leastScore.toNat
  match s1.node? T.rid r.node with
  | none => s1
  | some N =>
    let Ws : List Waiting := (List.range N.len).map fun g => { node := r.node, gid := g, age := s.clk, rival := some r.idx }
    ((s1.setNodeSt T.rid r.node 2).modNode T.rid r.node fun N => { N with inFlight := N.len }).modRegion T.rid fun R => { R with queue := R.queue ++ Ws }

/-- A node that cannot start its work fails with a descriptor fault in its region (R90, R377). -/
def State.nodeFault (s : State) (r n : Nat) (t : TrapInfo) : State :=
  match s.region? r with
  | none => s
  | some R => ((s.record r t 0 0 n R.rcb).applyPolicy r t n 0 0 []).endNode r n 4

/-- A TOURN node goes to RUNNING: its scope starts, or the node fails because the scope is not IDLE (R377, R378).  A page of the record that
does not translate leaves the node READY. -/
def State.startTourn (s : State) (r n : Nat) (addr : DWord) : State :=
  match s.region? r with
  | none => s
  | some R =>
    let size := 64 + 16 * 2 ^ (s.vnum R.dev R.ctx addr 1 % 8)
    match s.dcheck R.dev R.ctx addr size false with
    | (.error (.fault va e), s1) => s1.dstop R.dev R.ctx va 0 e
    | (.error .bad, s1) => (s1.setNodeSt r n 2).nodeFault r n { cls := .region, reason := 13, agent := .dobby }
    | (.ok _, s1) =>
      let w := s1.vwords R.dev R.ctx addr (size / 8)
      let s2 := s1.setNodeSt r n 2
      if !tournOk w || bitsOf (w.getD 0 0) 12 11 != 0 then s2.nodeFault r n { cls := .region, reason := 10, agent := .dobby }
      else
        let (sid, s3) := s2.fresh
        let a0 := bitsOf (w.getD 1 0) 31 0
        let rivals : List Rival := (tournRivals w).zipIdx.map fun (m, i) => { idx := i, node := m, st := 1, allow := a0, lastIssue := s.clk }
        let T : Tourn := { sid, rid := r, node := n, addr, st := 1, allow := a0, base := a0, rivals }
        let s4 := ({ s3 with tourns := s3.tourns ++ [T] } : State).putScope T 0 12 8 8
        rivals.foldl (fun s x => s.launchRival T x) s4

/-! ## Parking (R379, R380) -/

/-- The placed groups of a rival. -/
def State.rivalGroups (s : State) (T : Tourn) (r : Rival) : List Group :=
  s.groups.filter fun G => G.rid == T.rid && G.node == r.node && G.rival == some r.idx && !G.copy

/-- Every path of every resident weft of a rival waits in `trnd` for the end of this round (a wait that an earlier round's end has let go is
none); a rival with none resident is judged by its idle cycles alone. -/
def State.allInTrnd (s : State) (T : Tourn) (r : Rival) : Bool :=
  let ps := (s.rivalGroups T r).flatMap fun G => if G.life == .saved then [] else G.wefts.flatMap fun w => w.paths
  !ps.isEmpty && ps.all fun p => match p.hold with | some h => h.why == .trnd && h.arg == T.round | none => false

/-- The rival is parked or counts as parked. -/
def Rival.still (r : Rival) : Bool := r.parked || r.fin == 1

/-- A rival of a running scope that still runs. -/
def State.runningRival (s : State) (sid i : Nat) : Option (Tourn × Rival) :=
  match s.tourn? sid with
  | none => none
  | some T => if T.st == 1 then (T.rivals.find? fun r => r.idx == i && r.live && !r.still).map fun r => (T, r) else none

/-- ALLOWANCE_EXHAUSTED (R379). -/
def execAllowanceExhausted (scope rival : Nat) (s : State) : Host.Outcome State Fault Refusal :=
  .next (match s.runningRival scope rival with
    | some (_, r) => if r.allow ≤ r.count then s.modRival scope rival fun r => { r with parked := true } else s
    | none => s)

/-- A rival is idle: all in `trnd`, or no issue for 2^20 cycles (DEDUCED, assumption log 49). -/
def State.rivalIdle (s : State) (T : Tourn) (r : Rival) : Bool := s.allInTrnd T r || r.lastIssue + 2 ^ 20 ≤ s.clk

/-- RIVAL_IDLE_PARK (R380). -/
def execRivalIdlePark (scope rival : Nat) (s : State) : Host.Outcome State Fault Refusal :=
  .next (match s.runningRival scope rival with
    | some (T, r) => if s.rivalIdle T r then s.modRival scope rival fun r => { r with parked := true } else s
    | none => s)

/-! ## Rankings (R381 to R385) -/

/-- A rival ranks before another (R382). -/
def Rival.beats (x y : Rival) : Bool :=
  let a := (x.score.getD leastScore).toInt
  let b := (y.score.getD leastScore).toInt
  if x.st != y.st then x.st == 1 else if a != b then b < a else x.idx < y.idx

/-- A rival put in its rank. -/
def insertRival (x : Rival) : List Rival → List Rival
  | [] => [x]
  | y :: ys => if x.beats y then x :: y :: ys else y :: insertRival x ys

/-- A rival killed at a ranking (R382, R383). -/
def State.killRival (s : State) (T : Tourn) (r : Rival) : State :=
  let base := 0x40 + 16 * r.idx
  let st := if r.st == 3 then 3 else 2
  let s1 := ((s.modRival T.sid r.idx fun r => { r with st, killed := true }).putScope T base 17 16 st).putScope T base 21 19 T.round
  let (s2, bytes) := s1.killGroups ((s1.rivalGroups T r).map fun G => G.uid)
  let n := min (2 ^ 32 - 1) (r.kbytes + bytes)
  let s3 := ((s2.modRival T.sid r.idx fun r => { r with kbytes := n }).putScope T base 63 32 n).modRegion T.rid fun R =>
    { R with queue := R.queue.filter fun W => W.node != r.node }
  (s3.modNode T.rid r.node fun N => { N with inFlight := 0 }).endNode T.rid r.node (if r.st == 3 then 4 else 3)

/-- The waiting `spgrow` requests of some groups on a core served in queue order, up to the first that does not fit (R384, R388). -/
def State.serveSpad (s : State) (mine : Nat → Bool) : List PathRef → State
  | [] => s
  | r :: rs =>
    match s.ctxAt r, s.group? r.g with
    | some c, some G =>
      if !mine r.g then s.serveSpad mine rs
      else if s.spadFits G c.arg then
        (((s.modCore G.dev G.core fun k => { k with spq := k.spq.filter (· != r) }).growSpad G c.arg).finishLate c []).serveSpad mine rs
      else s
    | _, _ => s.serveSpad mine rs

/-- The queued groups of some nodes of a region placed on freed cores, ahead of every other group of the dobby's queue, in their own order, up to the
first that does not fit (R384); a COSCHED grid takes the cores that were free as well (DESIGN CHOICE, assumption log 80). -/
def State.placeFreed (s : State) (rid : Nat) (nodes cores : List Nat) : Nat → State
  | 0 => s
  | k + 1 =>
    match s.region? rid with
    | none => s
    | some R => match headOf (R.queue.filter fun W => nodes.contains W.node) with
      | none => s
      | some W =>
        let there := match W.saved.bind s.group? with
          | some G => (s.unitOf G).all fun g => match s.group? g with | some H => cores.contains H.core | none => true
          | none => true
        match if there then s.placeHead R W (if R.cosched then deviceCores else cores) else none with
        | some t => t.placeFreed rid nodes cores k
        | none => s

/-- A survivor's grid doubled under ELASTIC (R384). -/
def State.growRival (s : State) (T : Tourn) (r : Rival) : State :=
  match s.region? T.rid with
  | none => s
  | some R => match R.node? r.node with
    | none => s
    | some N =>
      if !R.elastic || R.cosched || r.fin == 1 then s
      else
        let len := 2 * N.len
        let Ws : List Waiting := (List.range N.len).map fun k => { node := r.node, gid := N.len + k, age := s.clk, rival := some r.idx }
        ((s.dput R.dev R.ctx (R.nodeAddr r.node + 0x10) 31 0 len).modNode T.rid r.node fun N => { N with len, inFlight := N.inFlight + N.len }).modRegion T.rid fun R =>
          { R with queue := R.queue ++ Ws }

/-- The next round of the survivors, or the report of the winner (R381, R385). -/
def State.nextRound (s : State) (T : Tourn) (keep : List Rival) : State :=
  match keep with
  | [w] =>
    let st := if w.st == 1 then 2 else 3
    let score := w.score.getD leastScore
    let s1 := ((s.putScope T 0 21 16 w.idx).putScope T 0x10 63 0 score.toNat).putScope T 0 12 11 st
    let s2 := s1.modTourn T.sid fun T => { T with st, winner := w.idx }
    match s2.tourn? T.sid with | some T1 => s2.tournOver T1 | none => s2
  | _ =>
    s.modTourn T.sid fun T =>
      { T with allow := T.base * 2 ^ T.round,
               rivals := T.rivals.map fun r => if r.live then { r with count := 0, allow := T.base * 2 ^ T.round, parked := false, lastIssue := s.clk } else r }

/-- The ranking that ends a round: scores are reported, the worse half is killed, ROUND rises, and what the kills free serves the survivors, after
the `regacq`s that wait on the freed cores (R114, R381 to R385). -/
def State.rank (s : State) (T : Tourn) : State :=
  let live := T.rivals.filter Rival.live
  let placed := live.flatMap fun r => (s.rivalGroups T r).filter fun G => G.life == .placed
  let s1 := placed.foldl (fun s G => s.release G.dev G.core 2) s
  let s2 := live.foldl (fun s r => s.putScope T (0x48 + 16 * r.idx) 63 0 (r.score.getD leastScore).toNat) s1
  let order := live.foldr insertRival []
  let keep := order.take (order.length - order.length / 2)
  let lose := order.drop (order.length - order.length / 2)
  let freed := (lose.flatMap fun r => ((s.rivalGroups T r).filter fun G => G.life != .saved).map fun G => (G.dev, G.core)).eraseDups
  let s3 := lose.foldl (fun s r => s.killRival T r) s2
  let s4 := (s3.modTourn T.sid fun T => { T with round := T.round + 1 }).putScope T 0 10 8 (T.round + 1)
  let mine (g : Nat) : Bool := keep.any fun r => (s4.rivalGroups T r).any fun G => G.uid == g
  let served := freed.foldl (fun s dc => let s1 := s.serveSpad mine (s.core dc.1 dc.2).spq; (s1.core dc.1 dc.2).regq.foldl (fun s _ => s.regHead dc.1 dc.2) s1) s4
  let s5 := keep.foldl (fun s r => s.growRival T r) served
  let waiting := match s5.region? T.rid with | some R => R.queue.length | none => 0
  (s5.placeFreed T.rid (keep.map fun r => r.node) (freed.map fun dc => dc.2) waiting).nextRound T keep

/-- Some instruction of a rival's weft has issued and has still to do its work, which the end of the round releases: its path has gone past it, or stands at it
and waits for a page or a link (R381) (DEDUCED, assumption log 46). -/
def State.rivalBusy (s : State) (T : Tourn) (r : Rival) : Bool :=
  let stopped (p : Path) : Bool := p.hold.any fun h => (h.why == .stall || h.why == .retry) && h.sel != 0
  (s.rivalGroups T r).any fun G => G.life != .saved && G.wefts.any fun w => !w.late.isEmpty || w.paths.any stopped

/-- Every rival that takes part in the round is parked, and what the rivals have issued is done (R381). -/
def State.roundOver (s : State) (T : Tourn) : Bool := T.st == 1 && T.rivals.all fun r => !r.live || (r.still && !s.rivalBusy T r)

/-- The rivals that are idle are parked from now on, until the end of the round (R380). -/
def State.parkIdle (s : State) : State :=
  s.tourns.foldl (fun s T =>
    if T.st != 1 then s
    else T.rivals.foldl (fun s r => if r.live && !r.still && s.rivalIdle T r then s.modRival T.sid r.idx fun r => { r with parked := true } else s) s) s

/-- ROUND_END (R381 to R385). -/
def execRoundEnd (scope : Nat) (s : State) : Host.Outcome State Fault Refusal :=
  .next (match s.tourn? scope with
    | some T => if s.roundOver T then s.rank T else s
    | none => s)

/-! ## score, trnd (R386, R387) -/

/-- score (R387): the scope accepts it, and the last accepted stands (DEDUCED, assumption log 46). -/
def execScore (f : Fields) (s : State) : Host.Outcome State Fault Refusal :=
  issue .score f (fun c s =>
    match s.tournOf c.G with
    | none => s.trap c .operand 29
    | some (T, r) =>
      if c.sel == 0 then s.finishIdle c
      else (s.modRival T.sid r.idx fun r => { r with score := some (c.val64 s f.a (lowThread c.sel)) }).finishLate c []) s
/-- trnd (R387): held until ROUND has risen above q, and complete as an acquire with the ROUND that ended its wait. -/
def execTrnd (f : Fields) (s : State) : Host.Outcome State Fault Refusal :=
  issue .trnd f (fun c s =>
    match s.tournOf c.G with
    | none => s.trap c .operand 29
    | some (T, _) =>
      if c.sel == 0 then s.finishIdle c
      else
        let q := if c.heldAs .trnd then c.arg else T.round
        if c.heldAs .trnd && q < T.round then s.finishLate c (c.laneWrites f.d fun _ => q + 1)
        else if 2 ≤ T.st then s.finishLate c (c.laneWrites f.d fun _ => T.round) else s.holdP c .trnd q 0) s

end Sys2Proof.Machine
end

