-- ==== Sys2Proof/Machine/Supervisor.lean ====
section
/-! DEFINITION. Sys2Proof/Machine/Supervisor.lean: the supervisor instructions: shootdowns, replays, the fault buffer, svc and eret, and the move
of a context's state (R402 to R407) -/

namespace Sys2Proof.Machine

/-! ## tlbi (R403) -/

/-- Named translations of a device removed, also those that the checks of stalled instructions have found. -/
def State.dropEntries (s : State) (d : Nat) (hit : Tlb → Bool) : State :=
  let drop (l : Late) : Late := if l.hold.why == .late then l else { l with tlb := l.tlb.filter fun e => !(e.dev == d && hit e) }
  { s with
    tlb := s.tlb.filter fun e => !(e.dev == d && hit e),
    groups := s.groups.map fun G => if G.dev == d && G.wefts.any (fun w => !w.late.isEmpty) then { G with wefts := G.wefts.map fun w => { w with late := w.late.map drop } } else G }

/-- An instruction that its path has gone past is still to make an access through a named translation. -/
def State.usesEntry (s : State) (d : Nat) (hit : Tlb → Bool) : Bool :=
  s.groups.any fun G => G.dev == d && G.wefts.any fun w => w.late.any fun l => l.hold.why == .late && l.tlb.any fun e => e.dev == d && hit e

/-- The named translations removed, and every access that used one performed at device scope: the path is held while one is still to be made, and the
cores of the device publish what they hold, whose writes on their way to other devices are performed, entries of tables there among them (R397).  The held path is the pending mark, at which commands pause (R223) (DEDUCED, assumption log 58). -/
def State.shootdown (s : State) (c : Ctx) (va : Nat) (all : Bool) (hit : Tlb → Bool) : State :=
  let s1 := s.dropEntries c.dev hit
  if s.usesEntry c.dev hit then s1.holdP c .tlbi all.toNat 0 (BitVec.ofNat 64 va)
  else (((s1.cores.filter fun k => k.dev == c.dev).foldl (fun s k => s.publishAll k.dev k.n) s1).drain c.dev).finishLate c []

/-- tlbi.all (R403). -/
def execTlbiAll (f : Fields) (s : State) : Host.Outcome State Fault Refusal :=
  issue .tlbiAll f (fun c s => if c.sel == 0 then s.finishIdle c else s.shootdown c 0 true fun _ => true) s
/-- tlbi.ctx (R403): entries with G are kept. -/
def execTlbiCtx (f : Fields) (s : State) : Host.Outcome State Fault Refusal :=
  issue .tlbiCtx f (fun c s => if c.sel == 0 then s.finishIdle c else s.shootdown c 0 false fun t => t.ctx == c.ctx && !pteG t.pte) s
/-- tlbi.page (R403): the page or block that maps the address; the hold keeps the address that it has read. -/
def execTlbiPage (f : Fields) (s : State) : Host.Outcome State Fault Refusal :=
  issue .tlbiPage f (fun c s =>
    if c.sel == 0 then s.finishIdle c
    else
      let va := (match c.hold with
        | some h => if h.why == Why.tlbi then h.va else c.val64 s f.a (lowThread c.sel)
        | none => c.val64 s f.a (lowThread c.sel)).toNat % 2 ^ 55
      s.shootdown c va false fun t => t.ctx == c.ctx && va / 2 ^ t.bits == t.base / 2 ^ t.bits) s

/-! ## replay (R404) -/

/-- A path stalled on a page that a replay names is retried. -/
def Path.replay (page : Option Nat) (p : Path) : Path :=
  match p.hold with
  | some h =>
    if h.why == .stall && (match page with | none => true | some x => h.arg == x) then { p with hold := some { h with why := .retry, arg := 0, va := 0 } } else p
  | none => p

/-- The stalled paths of a weft retried. -/
def Weft.replay (page : Option Nat) (w : Weft) : Weft :=
  { w with paths := w.paths.map (Path.replay page), late := w.late.map fun l => { l with hold := ((l.view.replay page).hold).getD l.hold } }

/-- A pause on a page that a replay names ends. -/
def unpause (page : Option Nat) (x : Option Nat) : Option Nat :=
  match page with
  | none => none
  | some p => if x == some p then none else x

/-- The stalled work of a group retried: paths, treadle and commands. -/
def Group.replay (page : Option Nat) (G : Group) : Group :=
  { G with wefts := G.wefts.map (Weft.replay page), trd := { G.trd with weft := G.trd.weft.replay page },
           cmds := G.cmds.map fun (c : Command) => { c with pause := unpause page c.pause } }

/-- The paused operations of a core retried; a core whose operations go on counts its idle cycles anew (R418). -/
def Core.replay (page : Option Nat) (clk : Nat) (mine : Nat → Bool) (k : Core) : Core :=
  if k.ops.any fun o => mine o.g && o.pause.isSome && (unpause page o.pause).isNone then
    { k with engAt := clk, ops := k.ops.map fun o => if mine o.g then { o with pause := unpause page o.pause } else o }
  else k

/-- The paused samples and starts of a cluster's Jacquard retried. -/
def Cluster.replay (page : Option Nat) (C : Cluster) : Cluster :=
  { C with jqPause := unpause page C.jqPause, samples := C.samples.map fun x => { x with pause := unpause page x.pause } }

/-- Every stalled access of a context retried, or those of one page (R404); the start of a region goes on at a step of its dobby. -/
def State.replayAt (s : State) (d c : Nat) (page : Option Nat) : State :=
  let mine (g : Nat) : Bool := match s.group? g with | some G => G.dev == d && G.ctx == c | none => false
  let s1 : State := { s with
    groups := s.groups.map fun G => if G.dev == d && G.ctx == c then G.replay page else G,
    units := s.units.map fun P => if P.members.any mine then { P with trd := { P.trd with weft := P.trd.weft.replay page } } else P,
    cores := s.cores.map fun k => if k.dev == d then k.replay page s.clk mine else k,
    clusters := s.clusters.map fun C => if C.dev == d && C.jqCtx == c then C.replay page else C }
  let paused (R : Region) : Bool := R.dev == d && R.ctx == c && R.pause.isSome && (unpause page R.pause).isNone
  let s2 := ((s.regions.filter paused).map fun R => R.rid).foldl (fun s r => s.modRegion r fun R => { R with pause := none, retry := true }) s1
  s2.retryDobby d c page

/-- replay (R404). -/
def execReplay (f : Fields) (s : State) : Host.Outcome State Fault Refusal :=
  issue .replay f (fun c s =>
    if c.sel == 0 then s.finishIdle c
    else
      let page := (c.val64 s f.a (lowThread c.sel)).toNat / 65536
      let s1 := (s.releaseAt c 2).modCtx c.dev c.ctx fun C => { C with faults := C.faults.filter fun e => e.page != page }
      (s1.replayAt c.dev c.ctx (some page)).finishLate c []) s
/-- replay.all (R404). -/
def execReplayAll (f : Fields) (s : State) : Host.Outcome State Fault Refusal :=
  issue .replayAll f (fun c s =>
    if c.sel == 0 then s.finishIdle c
    else
      let s1 := (s.releaseAt c 2).modCtx c.dev c.ctx fun C => { C with faults := [], dropped := false }
      (s1.replayAt c.dev c.ctx none).finishLate c []) s

/-! ## rdflt (R405) -/

/-- The oldest unread entry marked read. -/
def readOldest : List FaultEntry → List FaultEntry
  | [] => []
  | e :: es => if e.read then e :: readOldest es else { e with read := true } :: es

/-- The first scalar of a destination. -/
def scalarOf : Operand → Nat
  | .scalar n => n.toNat
  | _ => 0

/-- rdflt (R405). -/
def execRdflt (f : Fields) (s : State) : Host.Outcome State Fault Refusal :=
  issue .rdflt f (fun c s =>
    if c.sel == 0 then s.finishIdle c
    else
      let C := s.ctx c.dev c.ctx
      let put (ws : List Word) (found : Nat) : List (RegKey × Word) :=
        ws.zipIdx.map (fun (w, k) => (RegKey.s (scalarOf f.d + k), w)) ++ c.laneWrites f.a fun _ => found
      match C.faults.find? fun e => !e.read with
      | none => s.finishLate c (put [0, 0, 0, 0] 0)
      | some e =>
        let C1 : Context := { C with faults := readOldest C.faults }
        (s.modCtx c.dev c.ctx fun _ => C1).finishLate c (put (e.words c.ctx ++ [C1.word3]) 1)) s

/-! ## svc, eret (R406) -/

/-- svc (R406): the entry of supervisor mode. -/
def execSvc (f : Fields) (s : State) : Host.Outcome State Fault Refusal :=
  issue .svc f (fun c s =>
    if c.sel == 0 then s.finishIdle c
    else if !c.whole then s.trap c .operand 32
    else if c.priv then s.trap c .operand 33
    else (s.enterSupervisor c (c.once s f.a &&& 0xFFF)).completeAt c s.clk) s
/-- eret (R406): the return from it. -/
def execEret (f : Fields) (s : State) : Host.Outcome State Fault Refusal :=
  issue .eret f (fun c s =>
    if c.sel == 0 then s.finishIdle c
    else if !c.whole then s.trap c .operand 32
    else (s.leaveSupervisor c).completeAt c s.clk) s

/-! ## ctxsv (R407) -/

/-- The block of a context's state. -/
def Context.block (C : Context) : List Byte :=
  (([C.ptbase, C.dtbase, C.selbase, C.twinoff, C.usebase, C.adjlo, C.adjhi, C.svcbase] : List DWord).flatMap fun x => leBytes 8 x.toNat)
  ++ leBytes 4 C.dbgen.toNat ++ leBytes 4 C.accstat.toNat ++ leBytes 4 C.twinstat.toNat ++ leBytes 4 C.fltstat.toNat ++ leBytes 8 C.twinxa.toNat
  ++ List.replicate 40 0

/-- Every reserved field and register bit of a block is zero. -/
def ctxBlockOk (bs : List Byte) : Bool :=
  let q (off : Nat) : Nat := leNat ((bs.drop off).take 8)
  let w (off : Nat) : Nat := leNat ((bs.drop off).take 4)
  bitsOf (q 0) 15 0 == 0 && bitsOf (q 0) 63 56 == 0 && bitsOf (q 8) 21 0 == 0 && bitsOf (q 8) 63 55 == 0 && bitsOf (q 0x20) 3 0 == 0
    && bitsOf (q 0x38) 11 0 == 0 && w 0x40 < 2 && w 0x44 < 4 && w 0x48 < 2 && w 0x4C < 512 && (bs.drop 0x58).all (· == 0)

/-- A context with the registers of a block; the fault buffer stays, and DROPPED is only ever set. -/
def Context.load (C : Context) (bs : List Byte) : Context :=
  let q (off : Nat) : DWord := BitVec.ofNat 64 (leNat ((bs.drop off).take 8))
  let w (off : Nat) : Nat := leNat ((bs.drop off).take 4)
  { C with ptbase := q 0, dtbase := q 8, selbase := q 0x10, twinoff := q 0x18, usebase := q 0x20, adjlo := q 0x28, adjhi := q 0x30, svcbase := q 0x38,
           dbgen := (w 0x40).testBit 0, accstat := BitVec.ofNat 2 (w 0x44), twinstat := (w 0x48).testBit 0, twinxa := q 0x50,
           dropped := C.dropped || (w 0x4C).testBit 8 }

/-- The registers of a context loaded from a block; DROPPED going from 0 to 1 is signalled (R400). -/
def State.loadCtx (s : State) (c : Ctx) (bs : List Byte) : State :=
  let s1 := s.modCtx c.dev c.ctx fun C => C.load bs
  if (s1.ctx c.dev c.ctx).dropped && !(s.ctx c.dev c.ctx).dropped then s1.signal c.dev c.ctx 2 [0, 0, 0, 0] else s1

/-- The one access of a ctxsv. -/
def State.ctxsvOnce (s : State) (c : Ctx) (f : Fields) (load : Bool) (t : Nat) : Thr × State :=
  let x := c.addr s f.a 0 t
  let q : Query := { read := load, write := !load, code := if load then 0 else 1, raw := true, align := 128, z := 128, n := 1, pair := fun _ => true }
  match s.checkAccess c q x with
  | (.error e, s1) => (.stop e, s1)
  | (.ok es, s1) =>
    match es with
    | [] => (.ok [], s1)
    | e :: _ =>
      if load then
        s1.overFabric c t [e.at_] fun s1 => match s1.readElem c true 128 e with
          | (.error h, s2) => (.stop h, s2)
          | (.ok ws, s2) =>
            if !ctxBlockOk (wordBytes ws) then (.stop (.trap .operand 34 0 0), s2) else (.ok [], s2.loadCtx c (wordBytes ws))
      else (s1.deviceLost c t [e], (s1.storeBytes c e.x (s1.ctx c.dev c.ctx).block { c.user 0 0 0 with va := e.va } 0).publishLine c.dev c.core (lineOf e.x.pa))

/-- ctxsv (R407). -/
def execCtxsv (f : Fields) (s : State) : Host.Outcome State Fault Refusal :=
  issue .ctxsv f (fun c s =>
    if c.sel == 0 then s.finishIdle c
    else (runThreads (fun s t => s.ctxsvOnce c f (c.once s f.b != 0) t) ((threadsOf c.sel).take 1) { s, done := c.done }).finish c) s

end Sys2Proof.Machine
end

