-- ==== Sys2Proof/Machine/Work.lean ====
section
/-! DEFINITION. Sys2Proof/Machine/Work.lean: launch and post, the arming of regions, the launch of nodes, and the events of the dobby (R85 to R97,
R99, R116, R117, R393, R408 to R414, R423 to R428) -/

namespace Sys2Proof.Machine

/-! ## launch, post (R96) -/

/-- launch (R96): a release at device scope, and PENDING of the named node falls. -/
def execLaunch (f : Fields) (s : State) : Host.Outcome State Fault Refusal :=
  issue .launch f (fun c s =>
    if c.sel == 0 then s.finishIdle c
    else match s.nodeInTree c.R.rid (c.nodeRef s f) with
      | none =>
        let q := s.unstarted c.R (c.nodeRef s f)
        q.2.trap c .operand (if q.1.isSome then 4 else 3)
      | some (r, n) => match s.region? r, s.node? r n with
        | some R, some N =>
          if R.killed || R.st != 1 || N.st != 0 || N.pending == 0 then s.trap c .operand 4
          else ((s.releaseAt c 2).decrement r n).finishLate c []
        | _, _ => s.trap c .operand 4) s

/-- The record that a thread posts: its block's registers in ascending order. -/
def Ctx.recordOf (c : Ctx) (s : State) (f : Fields) (t : Nat) : List Byte :=
  wordBytes ((blockElems f 1).map fun ij => BitVec.ofNat 32 (c.elem s .int 1 f.b t ij.1 ij.2))

/-- One thread's record appended to a bin; a full bin holds the path, and so does a region whose start is paused (R84, R92, R96). -/
def State.postThread (s : State) (c : Ctx) (f : Fields) (r n t : Nat) : Thr × State :=
  match s.region? r, s.node? r n with
  | some R, some N =>
    if R.killed || 2 ≤ R.st || 3 ≤ N.st then (.stop (.trap .operand 7 0 0), s)
    else if N.full || R.st != 1 then (.stop (.hold .post 0 0), s)
    else (.ok [], s.binAccept r n (c.recordOf s f t))
  | _, _ => (.stop (.trap .operand 7 0 0), s)

/-- A `post` to a node that no dobby holds, by its descriptor in memory: the path waits for a region that is still to start, and finds the bins of an ended
one closed (R84, R92, R96, R97) (DESIGN CHOICE, assumption log 90). -/
def State.postUnread (s : State) (c : Ctx) (f : Fields) (R : Region) (n : Nat) : State :=
  let s1 := s.dneed R.dev R.ctx (R.nodeAddr n) 64
  let N := nodeOf n (s1.vwords R.dev R.ctx (R.nodeAddr n) 8) []
  if N.kind != 1 then s1.trap c .operand 5 c.done
  else if f.rows * f.cols * 4 != N.recBytes then s1.trap c .operand 6
  else if R.st == 0 && !R.killed then s1.holdP c .post 0 c.done
  else s1.trap c .operand 7 c.done

/-- post (R96). -/
def execPost (f : Fields) (s : State) : Host.Outcome State Fault Refusal :=
  issue .post f (fun c s =>
    if c.sel == 0 then s.finishIdle c
    else match s.nodeAt c.dev c.ctx (c.nodeRef s f) with
      | none =>
        let q := s.unstartedIn c.dev c.ctx (c.nodeRef s f)
        match q.1 with
        | none => q.2.trap c .operand 5 c.done
        | some (R, n) => q.2.postUnread c f R n
      | some (r, n) => match s.region? r with
        | none => s.trap c .operand 5 c.done
        | some R => match R.node? n with
        | none => s.postUnread c f R n
        | some N =>
          if N.kind != 1 then s.trap c .operand 5 c.done
          else if f.rows * f.cols * 4 != N.recBytes then s.trap c .operand 6
          else
            let s0 := if c.heldAs .post then s.release c.dev c.core 2 else s.releaseAt c 2
            (runThreads (fun s t => s.postThread c f r n t) (c.todo f) { s := s0, done := c.done }).finish c) s

/-! ## Arming (R85, R86, R433) -/

/-- Regions that have finished under an RCB forgotten, with the trees below them. -/
def State.forget (s : State) (d c : Nat) (rcb : DWord) : State :=
  let old := (s.regions.filter fun R => R.dev == d && R.ctx == c && R.rcb == rcb && 2 ≤ R.st).map fun R => R.rid
  { s with regions := s.regions.filter fun R => !old.any fun r => s.inTree r 8 R.rid }

/-- A region that has not finished runs under an RCB. -/
def State.liveRcb (s : State) (d c : Nat) (rcb : DWord) : Bool := s.regions.any fun R => R.dev == d && R.ctx == c && R.rcb == rcb && R.st ≤ 1

/-- The RCB and the context of a root-table entry that the dobby watches (R433). -/
def State.rootEntry (s : State) (d k : Nat) : Option (DWord × Nat) :=
  let D := s.dev d
  let rcb := Sparse.get D.root (2 * k)
  let w := (Sparse.get D.root (2 * k + 1)).toNat
  if D.st == 6 && D.rten && rcb != 0 && rcb.toNat % 128 == 0 && w < 4096 then some (rcb, w) else none

/-- A region under an RCB started, walked by the dobby of a die (R86). -/
def State.beginRegion (s : State) (d c : Nat) (rcb : DWord) (parent : Option (Nat × Nat)) (die depth : Nat) : State :=
  let (r, s1) := (s.forget d c rcb).fresh
  ({ s1 with regions := s1.regions ++ [{ rid := r, dev := d, rcb, ctx := c, parent, die, depth }] } : State).startRegion r

/-- What the dobby does with a root-table entry: a page that does not translate is a fault of the dobby; a set POST arms an IDLE region and is
refused by any other (R85); a finished region is IDLE once its STATE is 0, whatever the word at 0x40 holds (DESIGN CHOICE, assumption log 73).  A region
whose start waits for a page keeps its POST. -/
def State.arm (s : State) (d k : Nat) : State :=
  match s.rootEntry d k with
  | none => s
  | some (rcb, c) =>
    match s.dcheck d c rcb 128 false with
    | (.error (.fault va e), s1) =>
      s1.dstop d c va 0 e
    | (.error .bad, s1) => s1
    | (.ok _, s1) =>
      if s1.vnum d c (rcb + 0x38) 1 % 2 == 0 || (s1.regions.any fun R => R.dev == d && R.ctx == c && R.rcb == rcb && (R.pause.isSome || R.retry)) then s1
      else
        let s2 := s1.dput d c (rcb + 0x38) 63 0 0
        if s2.vnum d c (rcb + 0x22) 1 % 16 == 0 && !s2.liveRcb d c rcb then s2.beginRegion d c rcb none 0 0
        else s2.dput d c (rcb + 0x40) 3 1 3

/-- ARM (R85). -/
def execArm (dev k : Nat) (s : State) : Host.Outcome State Fault Refusal := .next (s.arm dev k)

/-! ## The launch of a node (R88, R89, R377) -/

/-- Cores of a die that hold no group (DEDUCED, assumption log 51). -/
def State.idleCores (s : State) (d die : Nat) : Nat := ((List.range 64).filter fun k => (s.resident d (64 * die + k)).isEmpty).length

/-- The die whose dobby walks a child region: the one with the most unused cores, the lowest number on a tie (R86). -/
def State.childDie (s : State) (d : Nat) : Nat := [1, 2, 3].foldl (fun b k => if s.idleCores d b < s.idleCores d k then k else b) 0

/-- A GRID node's groups wait for placement (R99). -/
def State.launchGrid (s : State) (r n : Nat) (N : Node) : State :=
  let Ws : List Waiting := (List.range N.len).map fun g => { node := n, gid := g, age := N.readyAt }
  ((s.setNodeSt r n 2).modNode r n fun N => { N with inFlight := N.len }).modRegion r fun R => { R with queue := R.queue ++ Ws }

/-- A list's entries of 32 bytes, as commands (DEDUCED, assumption log 50). -/
def State.listCmds (s : State) (R : Region) (entry : DWord) (n : Nat) : List Command :=
  (List.range n).map fun k =>
    { seq := BitVec.ofNat 32 k, bytes := (List.range 32).map fun i => s.vbyte R.dev R.ctx (entry + BitVec.ofNat 64 (32 * k + i)) }

/-- A COPY node's command list put on the shuttle of its dobby's die (R89); a page of the list that does not translate leaves the node READY, and a
list that cannot be read fails the node with DESC_ACCESS (DESIGN CHOICE, assumption log 74). -/
def State.launchCopy (s : State) (r n : Nat) (R : Region) (N : Node) : State :=
  match s.dcheck R.dev R.ctx N.entry (32 * N.len) false with
  | (.error (.fault va e), s1) => s1.dstop R.dev R.ctx va 0 e
  | (.error .bad, s1) => (s1.setNodeSt r n 2).nodeFault r n { cls := .region, reason := 13, agent := .dobby }
  | (.ok _, s1) =>
    let (g, s2) := (s1.setNodeSt r n 2).fresh
    let G : Group :=
      { uid := g, dev := R.dev, core := 64 * R.die, ctx := R.ctx, rid := r, node := n, copy := true, placedAt := s.clk,
        bobs := List.replicate 64 {}, cmds := s1.listCmds R N.entry N.len }
    { s2 with groups := s2.groups ++ [G] }

/-- NODE_LAUNCH: a READY node's work starts (R88, R89); the start of a region that a `replay` retries goes on (R404). -/
def State.nodeLaunch (s : State) (r n : Nat) : State :=
  match s.region? r with
  | none => s
  | some R => if R.retry then (s.modRegion r fun R => { R with retry := false }).startRegion r else match R.node? n with
    | none => s
    | some N =>
      if N.st != 1 || R.st != 1 || R.killed then s
      else match N.kind with
        | 0 => if N.len == 0 then s.endNode r n 3 else s.launchGrid r n N
        | 1 => (s.setNodeSt r n 2).binEnd r n
        | 2 => if N.len == 0 then s.endNode r n 3 else s.launchCopy r n R N
        | 3 => s.reserveJq r n N.entry
        | 4 => s.startTourn r n N.entry
        | _ => (s.setNodeSt r n 2).beginRegion R.dev R.ctx N.entry (some (r, n)) (s.childDie R.dev) (R.depth + 1)

/-- NODE_LAUNCH. -/
def execNodeLaunch (rid node : Nat) (s : State) : Host.Outcome State Fault Refusal := .next (s.nodeLaunch rid node)
/-- BIN_TIMER_EXPIRY (R93). -/
def execBinTimerExpiry (rid node : Nat) (s : State) : Host.Outcome State Fault Refusal := .next (s.expireBatch rid node)

/-! ## Placement, pre-emption and ends -/

/-- GROUP_PLACE (R99 to R106). -/
def execGroupPlace (dev die : Nat) (s : State) : Host.Outcome State Fault Refusal := .next (s.groupPlace dev die)
/-- PREEMPT (R116, R408). -/
def execPreempt (dev die : Nat) (s : State) : Host.Outcome State Fault Refusal := .next (s.preempt dev die)
/-- SAVE_COMPLETE (R409). -/
def execSaveComplete (g : Nat) (s : State) : Host.Outcome State Fault Refusal := .next (s.saveComplete g)
/-- RESTORE (R117). -/
def execRestore (g : Nat) (s : State) : Host.Outcome State Fault Refusal := .next (s.restore g)
/-- GROUP_RETIRE (R423 to R427). -/
def execGroupRetire (g : Nat) (s : State) : Host.Outcome State Fault Refusal := .next (s.groupRetire g)
/-- GRID_COMPLETE (R428). -/
def execGridComplete (rid node : Nat) (s : State) : Host.Outcome State Fault Refusal := .next (s.gridComplete rid node)

/-- A deferred trap arrives at its group: it waits through a save, and is taken otherwise (R392, R393, R414). -/
def State.deferredTrap (s : State) (g : Nat) (t : TrapInfo) : State :=
  match s.group? g with
  | none => s
  | some G =>
    if G.life == .placed then s.takeTrap g t
    else s.modGroup g fun G => { G with pend := some (G.pend.getD t) }

/-- DEFERRED_TRAP. -/
def execDeferredTrap (g : Nat) (t : TrapInfo) (s : State) : Host.Outcome State Fault Refusal := .next (s.deferredTrap g t)

end Sys2Proof.Machine
end

