-- ==== Sys2Proof/Machine/Dispatch.lean ====
section
/-! DEFINITION. Sys2Proof/Machine/Dispatch.lean: the meaning of every step, one arm per row of the opcode table. -/

namespace Sys2Proof.Machine

/-- The meaning of a step. -/
def exec (i : Instr) (s : State) : Host.Outcome State Fault Refusal :=
  match i with
  | .nop f => Sys2Proof.Machine.execNop f s
  | .bra f => Sys2Proof.Machine.execBra f s
  | .brx f => Sys2Proof.Machine.execBrx f s
  | .call f => Sys2Proof.Machine.execCall f s
  | .callx f => Sys2Proof.Machine.execCallx f s
  | .ret f => Sys2Proof.Machine.execRet f s
  | .rejoin f => Sys2Proof.Machine.execRejoin f s
  | .exit f => Sys2Proof.Machine.execExit f s
  | .wait f => Sys2Proof.Machine.execWait f s
  | .trywait f => Sys2Proof.Machine.execTrywait f s
  | .trywaitDeadline r => Sys2Proof.Machine.execTrywaitDeadline r s
  | .sleep f => Sys2Proof.Machine.execSleep f s
  | .sleepExpiry r => Sys2Proof.Machine.execSleepExpiry r s
  | .yield f => Sys2Proof.Machine.execYield f s
  | .brk f => Sys2Proof.Machine.execBrk f s
  | .trap f => Sys2Proof.Machine.execTrap f s
  | .loop f => Sys2Proof.Machine.execLoop f s
  | .add f => Sys2Proof.Machine.execAdd f s
  | .sub f => Sys2Proof.Machine.execSub f s
  | .addc f => Sys2Proof.Machine.execAddc f s
  | .subb f => Sys2Proof.Machine.execSubb f s
  | .mul f => Sys2Proof.Machine.execMul f s
  | .mulhi f => Sys2Proof.Machine.execMulhi f s
  | .mulw f => Sys2Proof.Machine.execMulw f s
  | .mad f => Sys2Proof.Machine.execMad f s
  | .madw f => Sys2Proof.Machine.execMadw f s
  | .div f => Sys2Proof.Machine.execDiv f s
  | .rem f => Sys2Proof.Machine.execRem f s
  | .abs f => Sys2Proof.Machine.execAbs f s
  | .neg f => Sys2Proof.Machine.execNeg f s
  | .min f => Sys2Proof.Machine.execMin f s
  | .max f => Sys2Proof.Machine.execMax f s
  | .clamp f => Sys2Proof.Machine.execClamp f s
  | .sad f => Sys2Proof.Machine.execSad f s
  | .dp4 f => Sys2Proof.Machine.execDp4 f s
  | .and f => Sys2Proof.Machine.execAnd f s
  | .or f => Sys2Proof.Machine.execOr f s
  | .xor f => Sys2Proof.Machine.execXor f s
  | .not f => Sys2Proof.Machine.execNot f s
  | .lop3 f => Sys2Proof.Machine.execLop3 f s
  | .shl f => Sys2Proof.Machine.execShl f s
  | .shr f => Sys2Proof.Machine.execShr f s
  | .sar f => Sys2Proof.Machine.execSar f s
  | .rot f => Sys2Proof.Machine.execRot f s
  | .fsh f => Sys2Proof.Machine.execFsh f s
  | .bfx f => Sys2Proof.Machine.execBfx f s
  | .bfi f => Sys2Proof.Machine.execBfi f s
  | .popc f => Sys2Proof.Machine.execPopc f s
  | .clz f => Sys2Proof.Machine.execClz f s
  | .ctz f => Sys2Proof.Machine.execCtz f s
  | .brev f => Sys2Proof.Machine.execBrev f s
  | .bperm f => Sys2Proof.Machine.execBperm f s
  | .lea f => Sys2Proof.Machine.execLea f s
  | .icmp f => Sys2Proof.Machine.execIcmp f s
  | .fcmp f => Sys2Proof.Machine.execFcmp f s
  | .fclass f => Sys2Proof.Machine.execFclass f s
  | .sel f => Sys2Proof.Machine.execSel f s
  | .pand f => Sys2Proof.Machine.execPand f s
  | .por f => Sys2Proof.Machine.execPor f s
  | .pxor f => Sys2Proof.Machine.execPxor f s
  | .pnot f => Sys2Proof.Machine.execPnot f s
  | .pmov f => Sys2Proof.Machine.execPmov f s
  | .pany f => Sys2Proof.Machine.execPany f s
  | .fadd f => Sys2Proof.Machine.execFadd f s
  | .fsub f => Sys2Proof.Machine.execFsub f s
  | .fmul f => Sys2Proof.Machine.execFmul f s
  | .fma f => Sys2Proof.Machine.execFma f s
  | .fmin f => Sys2Proof.Machine.execFmin f s
  | .fmax f => Sys2Proof.Machine.execFmax f s
  | .fabs f => Sys2Proof.Machine.execFabs f s
  | .fneg f => Sys2Proof.Machine.execFneg f s
  | .fcopysign f => Sys2Proof.Machine.execFcopysign f s
  | .frnd f => Sys2Proof.Machine.execFrnd f s
  | .fsat f => Sys2Proof.Machine.execFsat f s
  | .fdot2 f => Sys2Proof.Machine.execFdot2 f s
  | .fscale f => Sys2Proof.Machine.execFscale f s
  | .cvt f => Sys2Proof.Machine.execCvt f s
  | .tenc f => Sys2Proof.Machine.execTenc f s
  | .tdec f => Sys2Proof.Machine.execTdec f s
  | .xcvt f => Sys2Proof.Machine.execXcvt f s
  | .kcvt f => Sys2Proof.Machine.execKcvt f s
  | .e8enc f => Sys2Proof.Machine.execE8enc f s
  | .pack f => Sys2Proof.Machine.execPack f s
  | .unpack f => Sys2Proof.Machine.execUnpack f s
  | .rcp f => Sys2Proof.Machine.execRcp f s
  | .divFloat f => Sys2Proof.Machine.execDivFloat f s
  | .sqrt f => Sys2Proof.Machine.execSqrt f s
  | .rsqrt f => Sys2Proof.Machine.execRsqrt f s
  | .ex2 f => Sys2Proof.Machine.execEx2 f s
  | .lg2 f => Sys2Proof.Machine.execLg2 f s
  | .sinpi f => Sys2Proof.Machine.execSinpi f s
  | .cospi f => Sys2Proof.Machine.execCospi f s
  | .tanh f => Sys2Proof.Machine.execTanh f s
  | .cmul f => Sys2Proof.Machine.execCmul f s
  | .cfma f => Sys2Proof.Machine.execCfma f s
  | .twosum f => Sys2Proof.Machine.execTwosum f s
  | .twoprod f => Sys2Proof.Machine.execTwoprod f s
  | .mov f => Sys2Proof.Machine.execMov f s
  | .movi f => Sys2Proof.Machine.execMovi f s
  | .movs f => Sys2Proof.Machine.execMovs f s
  | .bcast f => Sys2Proof.Machine.execBcast f s
  | .shfl f => Sys2Proof.Machine.execShfl f s
  | .vote f => Sys2Proof.Machine.execVote f s
  | .ballot f => Sys2Proof.Machine.execBallot f s
  | .matchThreads f => Sys2Proof.Machine.execMatchThreads f s
  | .blkmov f => Sys2Proof.Machine.execBlkmov f s
  | .rdsr f => Sys2Proof.Machine.execRdsr f s
  | .wrsr f => Sys2Proof.Machine.execWrsr f s
  | .ld f => Sys2Proof.Machine.execLd f s
  | .st f => Sys2Proof.Machine.execSt f s
  | .lds f => Sys2Proof.Machine.execLds f s
  | .sts f => Sys2Proof.Machine.execSts f s
  | .ldb f => Sys2Proof.Machine.execLdb f s
  | .ldsel f => Sys2Proof.Machine.execLdsel f s
  | .pf f => Sys2Proof.Machine.execPf f s
  | .copClean f => Sys2Proof.Machine.execCopClean f s
  | .copFlush f => Sys2Proof.Machine.execCopFlush f s
  | .copDemote f => Sys2Proof.Machine.execCopDemote f s
  | .copZero f => Sys2Proof.Machine.execCopZero f s
  | .beamwait f => Sys2Proof.Machine.execBeamwait f s
  | .beamwaitRelease r => Sys2Proof.Machine.execBeamwaitRelease r s
  | .atom f => Sys2Proof.Machine.execAtom f s
  | .atomv f => Sys2Proof.Machine.execAtomv f s
  | .red f => Sys2Proof.Machine.execRed f s
  | .redv f => Sys2Proof.Machine.execRedv f s
  | .cas f => Sys2Proof.Machine.execCas f s
  | .accr f => Sys2Proof.Machine.execAccr f s
  | .accflush f => Sys2Proof.Machine.execAccflush f s
  | .acctag f => Sys2Proof.Machine.execAcctag f s
  | .ldf f => Sys2Proof.Machine.execLdf f s
  | .adst f => Sys2Proof.Machine.execAdst f s
  | .adld f => Sys2Proof.Machine.execAdld f s
  | .adpeek f => Sys2Proof.Machine.execAdpeek f s
  | .adforce f => Sys2Proof.Machine.execAdforce f s
  | .usecnt f => Sys2Proof.Machine.execUsecnt f s
  | .useadj f => Sys2Proof.Machine.execUseadj f s
  | .adldRetry r => Sys2Proof.Machine.execAdldRetry r s
  | .adjEarly r => Sys2Proof.Machine.execAdjEarly r s
  | .cmdw f => Sys2Proof.Machine.execCmdw f s
  | .bwait f => Sys2Proof.Machine.execBwait f s
  | .bset f => Sys2Proof.Machine.execBset f s
  | .bexp f => Sys2Proof.Machine.execBexp f s
  | .bstat f => Sys2Proof.Machine.execBstat f s
  | .countb f => Sys2Proof.Machine.execCountb f s
  | .relh f => Sys2Proof.Machine.execRelh f s
  | .shcancel f => Sys2Proof.Machine.execShcancel f s
  | .mma f => Sys2Proof.Machine.execMma f s
  | .mmap f => Sys2Proof.Machine.execMmap f s
  | .tzero f => Sys2Proof.Machine.execTzero f s
  | .tread f => Sys2Proof.Machine.execTread f s
  | .twrite f => Sys2Proof.Machine.execTwrite f s
  | .tdrain f => Sys2Proof.Machine.execTdrain f s
  | .tdadd f => Sys2Proof.Machine.execTdadd f s
  | .topen f => Sys2Proof.Machine.execTopen f s
  | .tfence f => Sys2Proof.Machine.execTfence f s
  | .twait f => Sys2Proof.Machine.execTwait f s
  | .tlc f => Sys2Proof.Machine.execTlc f s
  | .trun f => Sys2Proof.Machine.execTrun f s
  | .tstop f => Sys2Proof.Machine.execTstop f s
  | .tileOpComplete g op => Sys2Proof.Machine.execTileOpComplete g op s
  | .tdaddDelivery n => Sys2Proof.Machine.execTdaddDelivery n s
  | .tileNotOpenTimeout n => Sys2Proof.Machine.execTileNotOpenTimeout n s
  | .engineHangReset dev core => Sys2Proof.Machine.execEngineHangReset dev core s
  | .barv f => Sys2Proof.Machine.execBarv f s
  | .barw f => Sys2Proof.Machine.execBarw f s
  | .bars f => Sys2Proof.Machine.execBars f s
  | .gbar f => Sys2Proof.Machine.execGbar f s
  | .fence f => Sys2Proof.Machine.execFence f s
  | .cbar f => Sys2Proof.Machine.execCbar f s
  | .launch f => Sys2Proof.Machine.execLaunch f s
  | .post f => Sys2Proof.Machine.execPost f s
  | .regacq f => Sys2Proof.Machine.execRegacq f s
  | .regacqTry f => Sys2Proof.Machine.execRegacqTry f s
  | .regrel f => Sys2Proof.Machine.execRegrel f s
  | .regacqGrant dev core => Sys2Proof.Machine.execRegacqGrant dev core s
  | .stallDeadlock dev core => Sys2Proof.Machine.execStallDeadlock dev core s
  | .spgrow f => Sys2Proof.Machine.execSpgrow f s
  | .spgrowTry f => Sys2Proof.Machine.execSpgrowTry f s
  | .spgrowGrant dev core => Sys2Proof.Machine.execSpgrowGrant dev core s
  | .score f => Sys2Proof.Machine.execScore f s
  | .trnd f => Sys2Proof.Machine.execTrnd f s
  | .jqstart f => Sys2Proof.Machine.execJqstart f s
  | .jqdone f => Sys2Proof.Machine.execJqdone f s
  | .jqstat f => Sys2Proof.Machine.execJqstat f s
  | .ipin f => Sys2Proof.Machine.execIpin f s
  | .iunpin f => Sys2Proof.Machine.execIunpin f s
  | .ipf f => Sys2Proof.Machine.execIpf f s
  | .mcast f => Sys2Proof.Machine.execMcast f s
  | .permx f => Sys2Proof.Machine.execPermx f s
  | .tlbiAll f => Sys2Proof.Machine.execTlbiAll f s
  | .tlbiCtx f => Sys2Proof.Machine.execTlbiCtx f s
  | .tlbiPage f => Sys2Proof.Machine.execTlbiPage f s
  | .replay f => Sys2Proof.Machine.execReplay f s
  | .replayAll f => Sys2Proof.Machine.execReplayAll f s
  | .rdflt f => Sys2Proof.Machine.execRdflt f s
  | .svc f => Sys2Proof.Machine.execSvc f s
  | .eret f => Sys2Proof.Machine.execEret f s
  | .ctxsv f => Sys2Proof.Machine.execCtxsv f s
  | .instrComplete g w n => Sys2Proof.Machine.execInstrComplete g w n s
  | .arm dev k => Sys2Proof.Machine.execArm dev k s
  | .nodeLaunch rid node => Sys2Proof.Machine.execNodeLaunch rid node s
  | .binTimerExpiry rid node => Sys2Proof.Machine.execBinTimerExpiry rid node s
  | .groupPlace dev die => Sys2Proof.Machine.execGroupPlace dev die s
  | .preempt dev die => Sys2Proof.Machine.execPreempt dev die s
  | .saveComplete g => Sys2Proof.Machine.execSaveComplete g s
  | .restore g => Sys2Proof.Machine.execRestore g s
  | .shuttleRingRead g => Sys2Proof.Machine.execShuttleRingRead g s
  | .copyDraftToBobbin g seq => Sys2Proof.Machine.execCopyDraftToBobbin g seq s
  | .copyBobbinToDraft g seq => Sys2Proof.Machine.execCopyBobbinToDraft g seq s
  | .copyDraftToDraft g seq => Sys2Proof.Machine.execCopyDraftToDraft g seq s
  | .streamFill g seq => Sys2Proof.Machine.execStreamFill g seq s
  | .streamDrain g seq => Sys2Proof.Machine.execStreamDrain g seq s
  | .fillBobbin g seq => Sys2Proof.Machine.execFillBobbin g seq s
  | .fillDraft g seq => Sys2Proof.Machine.execFillDraft g seq s
  | .beamwr g seq => Sys2Proof.Machine.execBeamwr g seq s
  | .cancel g seq => Sys2Proof.Machine.execCancel g seq s
  | .permxCommand g seq => Sys2Proof.Machine.execPermxCommand g seq s
  | .permxExchange g seq => Sys2Proof.Machine.execPermxExchange g seq s
  | .commandEnd g seq => Sys2Proof.Machine.execCommandEnd g seq s
  | .store m => Sys2Proof.Machine.execStore m s
  | .invalidate m => Sys2Proof.Machine.execInvalidate m s
  | .forcePublish m => Sys2Proof.Machine.execForcePublish m s
  | .data m => Sys2Proof.Machine.execData m s
  | .storeAck m => Sys2Proof.Machine.execStoreAck m s
  | .invAck m => Sys2Proof.Machine.execInvAck m s
  | .notReady m => Sys2Proof.Machine.execNotReady m s
  | .accrueDeposit m => Sys2Proof.Machine.execAccrueDeposit m s
  | .mergeReq m => Sys2Proof.Machine.execMergeReq m s
  | .mergeData m => Sys2Proof.Machine.execMergeData m s
  | .nack m => Sys2Proof.Machine.execNack m s
  | .requestTimeout dev die dst mseq => Sys2Proof.Machine.execRequestTimeout dev die dst mseq s
  | .retrainComplete dev link => Sys2Proof.Machine.execRetrainComplete dev link s
  | .writeQueueTimeout dev core => Sys2Proof.Machine.execWriteQueueTimeout dev core s
  | .jacqRunStart dev jq => Sys2Proof.Machine.execJacqRunStart dev jq s
  | .allowanceExhausted scope rival => Sys2Proof.Machine.execAllowanceExhausted scope rival s
  | .rivalIdlePark scope rival => Sys2Proof.Machine.execRivalIdlePark scope rival s
  | .roundEnd scope => Sys2Proof.Machine.execRoundEnd scope s
  | .groupRetire g => Sys2Proof.Machine.execGroupRetire g s
  | .gridComplete rid node => Sys2Proof.Machine.execGridComplete rid node s
  | .deferredTrap g t => Sys2Proof.Machine.execDeferredTrap g t s
  | .mmioRegisterWrite dev off size v byHost => Sys2Proof.Machine.execMmioRegisterWrite dev off size v byHost s
  | .jacqHostDecision dev jq sample => Sys2Proof.Machine.execJacqHostDecision dev jq sample s
  | .readShared m => Sys2Proof.Machine.execReadShared m s
  | .readOwn m => Sys2Proof.Machine.execReadOwn m s
  | .upgrade m => Sys2Proof.Machine.execUpgrade m s
  | .atomic m => Sys2Proof.Machine.execAtomic m s
  | .writeback m => Sys2Proof.Machine.execWriteback m s
  | .accrueEvict m => Sys2Proof.Machine.execAccrueEvict m s
  | .flitReceive dev link flit => Sys2Proof.Machine.execFlitReceive dev link flit s
  | .flitReplayRequest dev link lseq => Sys2Proof.Machine.execFlitReplayRequest dev link lseq s
  | .laneFailure dev link => Sys2Proof.Machine.execLaneFailure dev link s
  | .correctableError dev k => Sys2Proof.Machine.execCorrectableError dev k s
  | .uncorrectableError dev k at_ => Sys2Proof.Machine.execUncorrectableError dev k at_ s
  | .wakeKeep dev => Sys2Proof.Machine.execWakeKeep dev s
  | .wakeDiscard dev => Sys2Proof.Machine.execWakeDiscard dev s
  | .sleepRequest dev => Sys2Proof.Machine.execSleepRequest dev s
  | .readypost dev ctx node => Sys2Proof.Machine.execReadypost dev ctx node s
  | .draftWrite dev slot byHost => Sys2Proof.Machine.execDraftWrite dev slot byHost s
  | .linkNarrow dev link => Sys2Proof.Machine.execLinkNarrow dev link s
  | .linkDown dev link => Sys2Proof.Machine.execLinkDown dev link s
  | .attestRequest dev => Sys2Proof.Machine.execAttestRequest dev s
  | .reset dev => Sys2Proof.Machine.execReset dev s
  | .memoryTrained dev => Sys2Proof.Machine.execMemoryTrained dev s
  | .hostLinkTrained dev gen => Sys2Proof.Machine.execHostLinkTrained dev gen s
  | .fabricTrained dev => Sys2Proof.Machine.execFabricTrained dev s
  | .thermalTrip dev => Sys2Proof.Machine.execThermalTrip dev s
  | .clockThrottleStep dev down => Sys2Proof.Machine.execClockThrottleStep dev down s
  | .linkUp dev link => Sys2Proof.Machine.execLinkUp dev link s
  | .hostMemoryAccess dev addr w n => Sys2Proof.Machine.execHostMemoryAccess dev addr w n s

end Sys2Proof.Machine
end

