-- ==== Sys2Proof/Machine/Schedule.lean ====
section
/-! DEFINITION. Sys2Proof/Machine/Schedule.lean: what can happen next: the lanes' choice of a path (R130 to R134, R138), the internal steps that are
due or possible, and the passing of a cycle.  Which of the possible steps is taken is open (assumption log 2). -/

namespace Sys2Proof.Machine

/-- One thing that can happen next: the next input from outside, a due entry of the agenda, the fetch of a path's next word, the pick of a lane, its pick of a
path that goes past its word (R302),
a held path or a treadle going on, a read that a late load makes ahead (R74), an internal event, the publication of a write-queue entry (R276), a step of a Jacquard sample, the loss of a
TLB entry (R397) or of a directory entry (R266, R310), a dobby's choice of cores (R102), or the next cycle. -/
inductive Move where
  | input
  | agenda (k : Nat)
  | fetch (r : PathRef)
  | pick (d core lane : Nat)
  | late (d core lane : Nat)
  | path (r : PathRef)
  | glimpse (r : PathRef)
  | event (i : Instr)
  | publish (d core line : Nat)
  | sample (d jq i : Nat)
  | evict (k : Nat)
  | evictLine (k : Nat)
  | choose (d die : Nat)
  | cycle
  deriving DecidableEq, Repr

/-! ## Paths that may go on -/

/-- The device runs (R439) (DESIGN CHOICE, assumption log 64). -/
def State.running (s : State) (d : Nat) : Bool := (s.dev d).st == 6

/-- The placed groups of running devices. -/
def State.liveGroups (s : State) : List Group := s.groups.filter fun G => G.life == .placed && s.running G.dev && !G.copy

/-- The groups of running devices that are being saved. -/
def State.savingGroups (s : State) : List Group := s.groups.filter fun G => G.life == .saving && s.running G.dev && !G.copy

/-- The held instruction of a path completes at a pre-emption (R408). -/
def Ctx.completes (c : Ctx) : Bool := c.p.hold.any fun h => h.why.atPreempt == 3

/-- The paths of some wefts of a group, and the instructions that they have gone past. -/
def State.pathsOf (s : State) (G : Group) (ws : List Weft) : List Ctx :=
  ws.flatMap fun w => (w.paths.filterMap fun p => s.ctxAt ⟨G.uid, w.wid, lowThread p.mask⟩)
    ++ w.late.filterMap fun l => s.ctxAt ⟨G.uid, w.wid, 16 + l.n⟩

/-- The paths on a lane. -/
def State.lanePaths (s : State) (d core lane : Nat) : List Ctx :=
  (s.liveGroups.filter fun G => G.dev == d && G.core == core).flatMap fun G => s.pathsOf G (G.wefts.filter fun w => w.lane == lane)

/-- The path is not held, and neither its region, a pending trap nor a page that a dobby waits for in its name stops it. -/
def State.open_ (s : State) (c : Ctx) : Bool := c.p.hold.isNone && c.detOk && c.G.pend.isNone && !s.parked c.G && c.p.drain ≤ s.clk && !s.dobbyWaits (none, some c.r, [])

/-- The path has gone past no instruction. -/
def Ctx.alone (c : Ctx) : Bool := c.wf.late.all fun l => l.path.mask &&& c.p.mask == 0

/-- The words whose order may bring earlier writes to other devices to their ends before them (R299, R309, R403). -/
def formDrains (i : Form) (f : Fields) : Bool :=
  match i with
  | .tlbiAll | .tlbiCtx | .tlbiPage => true
  | .mcast | .fence | .adst | .adld | .adforce | .adpeek | .usecnt | .useadj | .accflush | .acctag => relLevel f == 3 || modOrder f.mod == 2
  | _ => formAccess i && (relLevel f == 3 || modOrder f.mod == 2)

/-- A word would have to wait for writes that a paused link holds up (R265, R435). -/
def State.linkHeld (s : State) (c : Ctx) (i : Form) (f : Fields) : Bool :=
  formDrains i f && ((s.reqs.any fun r => r.msg.src == c.dev && s.paused c.dev r.msg.dst r.msg.line) || (s.core c.dev c.core).queue.any fun e => s.away c.dev e.line)

/-- The path has its next word and is eligible (R130); a word that is no instruction waits for no flag or counter (R56). -/
def State.candidate (s : State) (c : Ctx) : Bool :=
  s.open_ c && (match c.buffered c.p.line with
    | none => false
    | some w => match decodeWord w with
      | .error _ => c.alone
      | .ok i => match i.word? with
        | none => false
        | some (k, f) => !s.linkHeld c k f && s.eligible k f { c with sel := (c.near s.clk f).guard s f })

/-- The places of the wefts of a lane in their order, with the least thread of a path (R131); groups stand in the order of their placement (DESIGN CHOICE, assumption log 62). -/
def Ctx.place (c : Ctx) : Nat := (c.r.g * 32 + c.r.w) * 16 + lowThread c.p.mask

/-! ## The choice of a lane (R131, R132) -/

/-- The element with the least key, the first of equals. -/
def leastBy {α : Type} (key : α → Nat) : List α → Option α
  | [] => none
  | x :: xs => match leastBy key xs with
    | none => some x
    | some y => if key y < key x then some y else some x

/-- The elements whose key is the greatest. -/
def topBy {α : Type} (key : α → Int) (xs : List α) : List α :=
  match xs with
  | [] => []
  | x :: _ =>
    let top := xs.foldl (fun m y => if m < key y then key y else m) (key x)
    xs.filter fun y => key y == top

/-- A region's credit on a lane. -/
def Lane.creditOf (l : Lane) (r : Nat) : Int := ((l.credit.find? fun x => x.1 == r).map fun x => x.2).getD 0

/-- What a lane picks among candidates: the path, whether step 1 picked it, and the regions with a candidate at step 3 with their SHAREs. -/
def Lane.choose (l : Lane) (cands : List Ctx) : Option (Ctx × Bool × List (Nat × Nat)) :=
  let plain := cands.filter fun c => !c.p.yield
  let cs := if plain.isEmpty then cands else plain
  match leastBy (fun c => c.p.full * 2 ^ 64 + c.place) (cs.filter fun c => c.p.age == 255) with
  | some c => some (c, true, [])
  | none =>
    let cs2 := topBy (fun c => (c.R.prio : Int)) cs
    let regions := (cs2.map fun (c : Ctx) => (c.R.rid, c.R.share)).eraseDups
    let cs3 := topBy (fun c => l.creditOf c.R.rid) cs2
    let cs4 := topBy (fun c => (c.p.age.toNat : Int)) cs3
    let last := match l.ptr with | some (g, w, t) => (g * 32 + w) * 16 + t + 1 | none => 0
    match leastBy Ctx.place (cs4.filter fun c => last ≤ c.place) with
    | some c => some (c, false, regions)
    | none => (leastBy Ctx.place cs4).map fun c => (c, false, regions)

/-- A credit saturates at 16 bits (R132). -/
def clampCredit (x : Int) : Int := if x < -32768 then -32768 else if 32767 < x then 32767 else x

/-- The credits of a lane after the issue of a path of region `r` picked at step 2 or later (R132). -/
def Lane.settle (l : Lane) (r : Nat) (regions : List (Nat × Nat)) (resident : List Nat) : List (Nat × Int) :=
  let total : Nat := regions.foldl (fun n x => n + x.2) 0
  let added (x : Nat) : Int := clampCredit (l.creditOf x + (((regions.find? fun y => y.1 == x).map fun y => y.2).getD 0 : Nat))
  (resident.eraseDups.map fun x => (x, if x == r then clampCredit (added x - total) else added x)).filter fun x => x.2 != 0

/-- A lane's pick: its pointer and credits move on, and the paths that yielded have let another path go first (R131, R132). -/
def State.pickLane (s : State) (d core lane : Nat) : Option (PathRef × State) :=
  let paths := s.lanePaths d core lane
  let l := (s.core d core).lane lane
  if s.clk < l.free then none
  else match l.choose (paths.filter s.candidate) with
    | none => none
    | some (c, old, regions) =>
      let credit := if old then l.credit else l.settle c.R.rid regions (paths.map fun (x : Ctx) => x.R.rid)
      let s1 := s.modCore d core fun k => k.modLane lane fun l => { l with ptr := some (c.r.g, c.r.w, lowThread c.p.mask), credit := credit }
      let s2 := (paths.filter fun x => x.p.yield).foldl (fun s (x : Ctx) => s.modPath x.r.g x.r.w x.r.t fun p => { p with yield := false }) s1
      some (c.r, s2)

/-! ## A cycle passes (R48, R133) -/

/-- A path's ageing counter after a cycle in which it was eligible and not picked. -/
def Path.grow (p : Path) (clk : Nat) : Path :=
  if p.age == 255 then p else { p with age := p.age + 1, full := if p.age == 254 then clk else p.full }

/-- The next cycle: the paths that were eligible and not picked grow older, and a device in FABRIC is READY (R439). -/
def State.nextCycle (s : State) : State :=
  let old := (s.liveGroups.flatMap fun G => s.pathsOf G G.wefts).filter s.candidate
  let s1 := old.foldl (fun s (c : Ctx) => s.modPath c.r.g c.r.w c.r.t fun p => p.grow (s.clk + 1)) s
  { s1 with clk := s.clk + 1, devs := s1.devs.map fun D => if D.st == 5 then { D with st := 6 } else D }

/-! ## What is possible -/

/-- A held instruction that is tried again; the others wait for an event of their own. -/
def Why.tried : Why → Bool
  | .sleep | .regacq | .spgrow | .adld | .beamwait | .stall => false
  | _ => true

/-- The held paths of a group that may go on. -/
def State.heldPaths (s : State) (G : Group) : List Ctx :=
  (s.pathsOf G G.wefts).filter fun c =>
    c.G.pend.isNone && !s.dobbyWaits (none, some c.r, []) && (match c.p.hold with | some h => h.why.tried && !(h.why == .withdrawn && s.parked c.G) | none => false)

/-- The unheld paths of a group whose next word is not in their fetch buffer. -/
def State.unfetched (s : State) (G : Group) : List Ctx := (s.pathsOf G G.wefts).filter fun c => s.open_ c && c.alone && (c.buffered c.p.line).isNone

/-- The treadles that go on: a group's own, and a cluster's under its first member (R236, R238); one that a weft's `tstop` stops issues nothing
more (R255). -/
def State.treadles (s : State) : List PathRef :=
  let free (T : Treadle) : Bool := T.running && !T.stopping && T.weft.paths.all fun p => match p.hold with | some h => h.why.tried | none => true
  List.filter (fun r => !s.dobbyWaits (none, some r, [])) <| ((s.liveGroups.filter fun G => free G.trd && G.pend.isNone).map fun G => ⟨G.uid, treadleWid, 0⟩)
  ++ (s.units.filter fun P => P.cluster && free P.trd).filterMap fun P =>
      P.members.head?.bind fun g => if s.liveGroups.any fun G => G.uid == g && G.pend.isNone then some ⟨g, clusterWid, 0⟩ else none

/-- The lanes of the cores that hold groups. -/
def State.lanes (s : State) : List (Nat × Nat × Nat) :=
  (s.liveGroups.flatMap fun G => G.wefts.map fun w => (G.dev, G.core, w.lane)).eraseDups

/-- The event that moves a command on (R221, R222, R274). -/
def Command.events (c : Command) (g : Nat) : List Instr :=
  let q := c.seq.toNat
  if c.status.isSome then []
  else match c.kind with
    | 0 => [if c.mode == 0 then .copyDraftToBobbin g q else if c.mode == 1 then .copyBobbinToDraft g q else .copyDraftToDraft g q]
    | 1 => [if c.mode == 0 then .streamFill g q else .streamDrain g q]
    | 2 => [if c.mode == 0 then .fillBobbin g q else .fillDraft g q]
    | 3 => [.permxCommand g q, .permxExchange g q]
    | 4 => [.beamwr g q]
    | _ => [.cancel g q]

/-- The events of one held path. -/
def Ctx.events (c : Ctx) : List Instr :=
  match c.p.hold with
  | none => []
  | some h => match h.why with
    | .sleep => [.sleepExpiry c.r]
    | .trywait => [.trywaitDeadline c.r]
    | .beamwait => [.beamwaitRelease c.r]
    | .adld => [.adldRetry c.r, .adjEarly c.r]
    | _ => []

/-- The events of one group (R217, R248, R392, R423). -/
def State.groupEvents (s : State) (G : Group) : List Instr :=
  (match G.pend with | some t => [.deferredTrap G.uid t] | none => [])
  ++ (s.pathsOf G G.wefts).flatMap Ctx.events
  ++ (if G.watched && s.unread G != 0 then [.shuttleRingRead G.uid] else [])
  ++ (if s.canRetire G then [.groupRetire G.uid] else [])

/-- The shuttle work of a group, or of a COPY node (R89). -/
def State.commandEvents (s : State) : List Instr :=
  (s.groups.filter fun G => G.life == .placed && s.running G.dev).flatMap fun G => G.cmds.flatMap fun c => c.events G.uid

/-- The events of one core (R114, R115, R243, R312, R418). -/
def State.coreEvents (s : State) (k : Core) : List Instr :=
  (if k.regq.isEmpty then [] else [.regacqGrant k.dev k.n])
  ++ (if k.spq.isEmpty then [] else [.spgrowGrant k.dev k.n])
  ++ (if k.stall.isSome then [.stallDeadlock k.dev k.n] else [])
  ++ ((k.ops.filter fun o => o.pause.isNone && !o.failed && o.form != .topen).map fun (o : TileOp) => .tileOpComplete o.g o.n)
  ++ (if s.hung k.dev k.n then [.engineHangReset k.dev k.n] else [])
  ++ (match k.queue with | e :: _ => if e.at_ + 4096 ≤ s.clk then [.writeQueueTimeout k.dev k.n] else [] | [] => [])

/-- The events of one region and its nodes (R88, R93, R428). -/
def State.regionEvents (s : State) (R : Region) : List Instr :=
  (if R.retry then [.nodeLaunch R.rid 0] else [])
  ++ R.nodes.flatMap fun N =>
    (if N.st == 1 && R.st == 1 && !R.killed then [.nodeLaunch R.rid N.idx] else [])
    ++ (match N.expiry with | some t => if t < s.clk then [.binTimerExpiry R.rid N.idx] else [] | none => [])
    ++ (if N.kind == 0 && N.st == 2 && N.inFlight == 0 then [.gridComplete R.rid N.idx] else [])

/-- The events of one device's dobbies and links (R85, R99, R116, R265). -/
def State.deviceEvents (s : State) (D : Device) : List Instr :=
  ((D.root.map fun (x : Nat × DWord) => x.1 / 2).eraseDups.filter fun k => (s.rootEntry D.id k).isSome).map (fun k => .arm D.id k)
  ++ (List.range 4).flatMap (fun die => if (s.heads D.id die).isEmpty then [] else [.groupPlace D.id die, .preempt D.id die])
  ++ (D.links.filter fun l => l.retrain.isSome).map fun (l : Link) => .retrainComplete D.id l.n

/-- The events of one Jacquard (R362, R368). -/
def Cluster.events (C : Cluster) : List Instr :=
  (if C.jqWait then [.jacqRunStart C.dev C.n] else [])
  ++ (if C.jqLive then (C.samples.filter fun x => x.phase == 4).map fun (x : Sample) => .jacqHostDecision C.dev C.n x.idx else [])

/-- The events of one scope (R379 to R383). -/
def State.scopeEvents (s : State) (T : Tourn) : List Instr :=
  (T.rivals.filter fun r => r.live && !r.still).flatMap (fun (r : Rival) =>
    (if r.allow ≤ r.count then [.allowanceExhausted T.sid r.idx] else []) ++ (if s.rivalIdle T r then [.rivalIdlePark T.sid r.idx] else []))
  ++ (if s.roundOver T then [.roundEnd T.sid] else [])

/-- The message that an internal step carries over the fabric. -/
def messageOf : Instr → Option Msg
  | .store m | .accrueDeposit m | .atomic m | .data m | .storeAck m | .invalidate m | .invAck m | .readShared m | .readOwn m | .upgrade m | .writeback m
  | .mergeReq m | .mergeData m | .accrueEvict m | .nack m | .notReady m | .forcePublish m => some m
  | _ => none

/-- The link that a flit crosses. -/
def flitLink : Instr → Option (Nat × Nat)
  | .flitReceive d n _ => some (d, n)
  | _ => none

/-- The device whose window a step acts on after a write that has reached it. -/
def windowOf : Instr → Option Nat
  | .mmioRegisterWrite d _ _ _ _ | .draftWrite d _ _ => some d
  | _ => none

/-- A step that is on its way waits: a link pauses its message or flit (R265, R435), an earlier flit of its link has yet to come (R261), or an earlier write of
its device's window has yet to act, as two GO writes do in the order of their arrival (R436). -/
def State.delayed (s : State) (before : List Instr) (i : Instr) : Bool :=
  (match messageOf i with
    | some m => s.paused m.src m.dst m.line || s.paused m.dst m.src m.line
    | none => false)
  || (match flitLink i with
    | some l => s.linkPaused l.1 l.2 || (linkPeer l.1 l.2).any (fun p => s.linkPaused p.1 p.2) || before.any fun j => flitLink j == some l
    | none => false)
  || (match windowOf i with
    | some d => before.any fun j => windowOf j == some d
    | none => false)

/-- The steps that stand in the agenda before entry `k`. -/
def State.dueBefore (s : State) (k : Nat) : List Instr := (s.agenda.take k).map fun x => x.2

/-- An event for which a dobby does not wait for a page (R400). -/
def State.unstalled (s : State) (i : Instr) : Bool := !s.dobbyWaits (some i, none, [])

/-- The events that are possible now. -/
def State.events (s : State) : List Instr :=
  List.filter s.unstalled <| (s.devs.filter fun D => D.st == 6).flatMap s.deviceEvents
  ++ (s.regions.filter fun R => s.running R.dev).flatMap s.regionEvents
  ++ s.liveGroups.flatMap s.groupEvents
  ++ s.commandEvents
  ++ s.savingGroups.map (fun (G : Group) => .saveComplete G.uid)
  ++ (s.groups.filter fun G => s.running G.dev && G.life == .saved).map (fun (G : Group) => .restore G.uid)
  ++ (s.cores.filter fun k => s.running k.dev).flatMap s.coreEvents
  ++ (s.clusters.filter fun C => s.running C.dev).flatMap Cluster.events
  ++ (s.tourns.filter fun T => match s.region? T.rid with | some R => s.running R.dev | none => false).flatMap s.scopeEvents
  ++ s.deliveries.flatMap (fun (e : Delivery) => [.tdaddDelivery e.n, .tileNotOpenTimeout e.n])
  ++ (s.reqs.filter fun r => s.overdue r).map fun (r : Req) => .requestTimeout r.msg.src r.msg.die r.msg.dst r.msg.mseq

/-- The path's next word may be one that it goes past (R302). -/
def State.defers (s : State) (r : PathRef) : Bool :=
  match s.ctxAt r with
  | none => false
  | some c => match c.buffered c.p.line with
    | none => false
    | some w => match decodeWord w with
      | .error _ => false
      | .ok i => match i.word? with
        | none => false
        | some (k, _) => formDefers k

/-- Everything that can happen next; a cycle can always pass (DESIGN CHOICE, assumption log 2). -/
def State.moves (s : State) : List Move :=
  List.flatten [
    (if s.inputs.head?.any s.unstalled then [.input] else []),
    ((s.agenda.zipIdx.filter fun x => x.1.1 ≤ s.clk && s.unstalled x.1.2 && !s.delayed (s.dueBefore x.2) x.1.2).map fun x => .agenda x.2),
    ((s.lanes.filter fun (d, k, l) => (s.pickLane d k l).isSome).map fun (d, k, l) => .pick d k l),
    ((s.lanes.filter fun (d, k, l) => match s.pickLane d k l with | some (r, _) => s.defers r | none => false).map fun (d, k, l) => .late d k l),
    ((s.liveGroups.flatMap s.unfetched).map fun (c : Ctx) => .fetch c.r),
    ((s.liveGroups.flatMap s.heldPaths).map fun (c : Ctx) => .path c.r),
    ((s.savingGroups.flatMap s.heldPaths).filter Ctx.completes).map (fun (c : Ctx) => .path c.r),
    (((s.liveGroups.flatMap s.heldPaths).filter fun c => match c.late with | some l => l.form == .ld || l.form == .ldf | none => false).map fun (c : Ctx) => .glimpse c.r),
    (s.treadles.map fun r => .path r),
    (s.events.map fun i => .event i),
    ((s.cores.filter fun k => s.running k.dev).flatMap fun k => k.queue.map fun (e : QEntry) => .publish k.dev k.n e.line),
    ((s.clusters.filter fun C => s.running C.dev && C.jqLive).flatMap fun C =>
        (C.samples.filter fun x => (s.sample? C.dev C.n x.idx).isSome && !s.dobbyWaits (none, none, [C.dev, C.n, x.idx])).map fun (x : Sample) => .sample C.dev C.n x.idx),
    ((List.range s.tlb.length).map fun k => .evict k),
    ((List.range s.lines.length).map fun k => .evictLine k),
    (s.devs.filter fun D => D.st == 6).flatMap (fun D => (List.range 4).flatMap fun die => if (s.heads D.id die).isEmpty || s.dobbyWaits (none, none, [D.id, die]) then [] else [.choose D.id die]),
    [.cycle]]

end Sys2Proof.Machine
end

