-- ==== Sys2Proof/Machine/Run.lean ====
section
/-! DEFINITION. Sys2Proof/Machine/Run.lean: what a move does: the execution of a path's next word, of an event, and the rest. -/

namespace Sys2Proof.Machine

/-- A path stands in a state as one that nothing has stopped: its group has no trap, and it is held by nothing. -/
def State.goesOn (t : State) (r : PathRef) : Bool :=
  match t.ctxAt r with
  | some c => c.p.hold.isNone && c.G.pend.isNone
  | none => false

/-- The reference of an access, its offset, the bytes of an element and their number in a thread; an `ldf` takes its elements' size from the page. -/
def accessShape (i : Form) (f : Fields) : Operand × DWord × Nat × Nat :=
  let move (o : Operand) : Operand × DWord × Nat × Nat := let q := Machine.sizeOf (operandSub o); (o, offsetOf f.b, q.1, elemCount f q.2)
  match i with
  | .st | .sts => move f.d
  | .ldsel => (f.a, offsetOf f.b, 1, 1)
  | .ldf => (f.a, offsetOf f.b, 0, 0)
  | .atom => (f.a, 0, (opOf f.a).bytes, 1)
  | .atomv => (f.a, 0, (opOf f.a).bytes, 32 / (opOf f.a).bytes)
  | .cas => (f.a, 0, if operandSub f.a == 0 then 4 else 8, 1)
  | .red => (f.d, 0, (opOf f.d).bytes, 1)
  | .redv => (f.d, 0, (opOf f.d).bytes, 32 / (opOf f.d).bytes)
  | .accr => (f.d, 0, (opOf f.d).bytes, elemCount f (opOf f.d).cols)
  | _ => move f.a

/-- The bytes of elements of memory and of their scales, or none where they cannot be told or stand on an uncached page (R70, R198, R208). -/
def State.spans (s : State) (c : Ctx) (raw : Bool) (z : Nat) : List DWord → Option (List (Nat × Nat))
  | [] => some []
  | va :: vas => match (s.translate c.dev c.ctx va).1 with
    | .error _ => none
    | .ok x =>
      let scale := if scaledFor raw x then (match (s.translate c.dev c.ctx (s.selvedge c.dev c.ctx va)).1 with | .ok y => some [(y.pa, 1)] | .error _ => none) else some []
      if pteCpol x.pte == 3 then none
      else match scale, s.spans c raw z vas with
        | some l, some rest => some ((x.pa, z) :: l ++ rest)
        | _, _ => none

/-- The bytes that one thread's access reaches, by physical address, or none if they cannot be told or are not free to be reordered (R198, R208). -/
def State.reachOf (s : State) (c : Ctx) (i : Form) (f : Fields) (t : Nat) : Option (List (Nat × Nat)) :=
  let (o, off, z, n) := accessShape i f
  let x := c.addr s o off t
  let at_ (k : Nat) : DWord := x + BitVec.ofNat 64 (k * z)
  match i with
  | .lds | .sts => some ((List.range n).map fun k => (c.G.spadAddr ((at_ k).toNat % 2 ^ 32), z))
  | .ldb => some ((List.range n).map fun k => (beamAddr c.dev (at_ k).toNat, z))
  | .ldsel => s.spans c true 1 [s.selvedge c.dev c.ctx x]
  | .ldf => match (s.translate c.dev c.ctx x).1 with
    | .error _ => none
    | .ok y =>
      if c.R.counting then none
      else
        let q := ldfQuery f (pteFmt y.pte)
        s.spans c q.raw q.z ((List.range q.n).map fun k => x + BitVec.ofNat 64 (k * q.z))
  | _ => s.spans c (modRaw f.mod) z ((List.range n).map at_)

/-- The bytes that an access reaches in the threads left to it. -/
def State.footprint (s : State) (c : Ctx) (i : Form) (f : Fields) : Option (List (Nat × Nat)) :=
  (c.todo f).foldr (fun t acc => acc.bind fun l => (s.reachOf c i f t).map fun x => x ++ l) (some [])

/-- The bytes that an access of a path reaches meet those of none of some accesses that the path has gone past (R296, R303): its bytes, if it may go on. -/
def State.clearOf (s : State) (c : Ctx) (i : Form) (f : Fields) (earlier : List Late) : Option (List (Nat × Nat)) :=
  let before := earlier.filter fun l => l.path.mask &&& c.p.mask != 0 && formAccess l.form
  if !formAccess i || before.isEmpty then some []
  else (s.footprint c i f).bind fun mine =>
    let free (l : Late) : Bool :=
      let cl : Ctx := { c with p := l.view, hold := some l.hold, out := l.hold.out, sel := l.hold.sel, late := some { l with old := true } }
      match ({ s with tlb := l.tlb ++ s.tlb } : State).footprint cl l.form l.f with
      | some theirs => mine.all fun x => theirs.all fun y => !meets x y
      | none => false
    if (before.all free) then some mine else none

/-- Bytes that a later access of the path has reached noted at the accesses that it has gone past. -/
def State.notePassed (s : State) (r : PathRef) (mask : Mask) (ns : List Nat) (bytes : List (Nat × Nat)) : State :=
  if bytes.isEmpty then s
  else
    let note (l : Late) : Late :=
      if ns.contains l.n && l.path.mask &&& mask != 0 && formAccess l.form then { l with passed := l.passed ++ bytes } else l
    s.modWeft r.g r.w fun w => { w with late := w.late.map note }

/-- A decoded word executed.  A path that has gone past instructions executes a word only where nothing stops it, and an access only where its bytes are
not theirs (R302, R303, R392). -/
def runInstr (r : PathRef) (c : Ctx) (i : Instr) (s : State) : Host.Outcome State Fault Refusal :=
  if c.alone then exec i { s with issuer := some r }
  else match i.word? with
    | none => .next s
    | some (k, f) =>
      match ({ s with issuer := some r } : State).issuing f with
      | none => .next s
      | some x => match s.ticked.clearOf x k f c.wf.late with
        | none => .next s
        | some bytes => match exec i { s with issuer := some r } with
          | .next t => if t.goesOn r || k == .exit then .next (t.notePassed r c.p.mask (c.wf.late.map fun l => l.n) bytes) else .next s
          | o => o

/-- A path's next word fetched, decoded and executed (R56, R118); a word that is no instruction traps.  The fetch may publish the writes of other
paths (R309), and a trap that this brings may end the path.  A path that has gone past an instruction meets no stop of its fetch before that
instruction has done its work (R392). -/
def runWord (r : PathRef) (s : State) : Host.Outcome State Fault Refusal :=
  match s.ctxAt r with
  | none => .next s
  | some c => match s.fetch c with
    | (.error e, s1) => .next (if c.alone then s1.fetchStop c e else s)
    | (.ok w, s1) => match decodeWord w with
      | .error e => .next (if c.isTreadle then s1.takeTrap r.g (c.info .tile 4 0 0 0) else s1.illegalTrap c w e)
      | .ok i => if (s1.ctxAt r).isNone then .next s1 else runInstr r c i s1

/-- The path of an issuer goes past the word that it may issue now, if it is one of variable latency that selects a thread and that nothing stops (R302):
the word has issued and its accesses are checked (R205), and it reads its sources and does its work at a later step (DEDUCED, assumption log 16). -/
def State.deferWord (s : State) (i : Form) (f : Fields) : Option State :=
  (s.issuing f).bind fun c =>
    if c.defers i && c.sel != 0 && !c.isTreadle && c.hold.isNone && s.ready i f c && (c.preTrap i f).isNone then
      match exec (i.mk f) s with
      | .next t =>
        if t.goesOn c.r then
          let q := (s.ticked.adopt t).raise i f c
          some (q.2.putOff q.1 i f (t.tlb.filter fun e => e.dev == c.dev && e.ctx == c.ctx))
        else none
      | _ => none
    else none

/-- A late word's attempt in a state: what `exec` makes of it. -/
def State.lateTry (s : State) (l : Late) : State := match exec (l.form.mk l.f) s with | .next t => t | _ => s

/-- One flag of a late word changed. -/
def State.modLateWord (s : State) (r : PathRef) (g : Late → Late) : State :=
  s.modWeft r.g r.w fun w => { w with late := w.late.map fun l => if 16 + l.n == r.t then g l else l }

/-- A late word has met a stop. -/
def State.lateStopped (t : State) (r : PathRef) : Bool :=
  match t.ctxAt r with
  | some c => c.hold.any fun h => h.why != .late
  | none => match t.group? r.g with | some G => G.pend.isSome | none => true

/-- The TLBs after a step that a late word has made with translations of its own (`t`): those that they held in `s` and that the step has not discarded, and
those that it has found; the word keeps those of its own that still stand (R195, R397). -/
def State.backTlb (t s : State) (r : PathRef) (own : List Tlb) : State :=
  let found := t.tlb.filter fun e => !(own ++ s.tlb).any e.same
  ({ t with tlb := standing s.tlb t.tlb.reverse ++ found } : State).modLateWord r fun x => { x with tlb := standing x.tlb t.tlb }

/-- The work of an instruction that its path has gone past, or of its next thread: with the translations of its checks, and from sources that stand as at its
issue or as they stand now (R302); from those of its issue where others would stop it or meet bytes that later accesses of its path have reached.  An
access waits for the earlier ones of its path that reach its bytes. -/
def runLate (c : Ctx) (l : Late) (s : State) : State :=
  let s0 : State := { s with tlb := l.tlb ++ s.tlb, issuer := some c.r }
  if s.linkHeld c l.form l.f then s
  else match s0.ticked.clearOf c l.form l.f (c.wf.late.takeWhile fun x => x.n != l.n) with
  | none => s
  | some bytes =>
    let clash := !l.passed.isEmpty && formAccess l.form && (match s0.ticked.footprint c l.form l.f with
      | some mine => mine.any fun x => l.passed.any fun y => meets x y
      | none => true)
    let t := s0.lateTry l
    let t1 := if t.lateStopped c.r || clash then (s0.modLateWord c.r fun x => { x with old := true }).lateTry l else t
    let t2 : State := (t1.modLateWord c.r fun x => { x with seen := [] }).notePassed c.r l.path.mask ((c.wf.late.takeWhile fun x => x.n != l.n).map fun x => x.n) bytes
    t2.backTlb s c.r l.tlb

/-- What a load asks for at an address: an `ld`, or an `ldf` that counts nothing. -/
def State.loadQuery (s : State) (c : Ctx) (l : Late) (va : DWord) : Query :=
  if l.form == .ldf then ldfQuery l.f (match (s.translate c.dev c.ctx va).1 with | .ok x => pteFmt x.pte | .error _ => 0)
  else let q := Machine.sizeOf (operandSub l.f.a); moveQuery l.f false q.1 (elemCount l.f q.2)

/-- One place of an element read early for an issuer, if its home answers; a device's registers are not read so. -/
def State.glance (s : State) (c : Ctx) (t : Nat) (x : Nat × Nat × Nat) : List (Nat × List Byte) × State :=
  if (mmioOff x.2.1).isSome || s.away c.dev x.2.1 || (s.failTo c.dev x.2.1 t).isSome then ([], s)
  else match s.sight c x.1 0 x.2.1 x.2.2 with
    | (.ok bs, u) => ([(x.1, bs)], u)
    | (.error _, u) => ([], u)

/-- The next thread of a late load reads its elements and their scales: what it has read may still stand when it writes its registers (R74, R208).  It reads
nothing that an earlier access of its path has still to reach (R296), and an acquire comes after the core's releasing writes (R299). -/
def State.glimpse (s : State) (r : PathRef) : State :=
  match s.ctxAt r with
  | none => s
  | some c => match c.late, c.slice ((c.late.map fun l => l.f).getD {}) with
    | some l, t :: _ =>
      let before := c.wf.late.takeWhile fun x => x.n != l.n
      let c0 : Ctx := { c with late := some { l with old := true, seen := [] } }
      let s0 : State := { s with tlb := l.tlb ++ s.tlb }
      if l.hold.why != .late then s
      else match s0.clearOf c0 l.form l.f before with
      | none => s
      | some bytes =>
        let s1 := s0.orderNow c0 l.f (relLevel l.f)
        let va := c0.addr s1 l.f.a (offsetOf l.f.b) t
        let q := s1.loadQuery c0 l va
        match s1.checkAccess c0 q va with
        | (.error _, _) => s
        | (.ok es, s2) =>
          let places := es.flatMap fun e => (e.spot false, e.x.pa, q.z) :: (e.sel.map fun y => (e.spot true, y.pa, 1)).toList
          let (seen, s3) := places.foldl (fun (acc : List (Nat × List Byte) × State) p => let g := acc.2.glance c0 t p; (acc.1 ++ g.1, g.2)) ([], s2)
          let s4 := (s3.modLateWord r fun x => { x with seen := x.seen.filter (fun y => !seen.any fun z => z.1 == y.1) ++ seen }).notePassed r l.path.mask
            (before.map fun x => x.n) bytes
          s4.backTlb s r l.tlb
    | _, _ => s

/-- A path's next word fetched and decoded, and gone past if that is possible; else the word is executed. -/
def passWord (r : PathRef) (s : State) : Host.Outcome State Fault Refusal :=
  match s.ctxAt r with
  | none => .next s
  | some c => match s.fetch c with
    | (.error _, _) => runWord r s
    | (.ok w, s1) => match decodeWord w with
      | .error _ => runWord r s
      | .ok i => match i.word? with
        | none => runWord r s
        | some (k, f) => match ({ s1 with issuer := some r } : State).deferWord k f with
          | some t => .next t
          | none => runWord r s

/-- The fetch of a path's next word into its buffer, or the stop that it meets (R118, R130). -/
def fetchPath (r : PathRef) (s : State) : State :=
  match s.ctxAt r with
  | none => s
  | some c => match s.fetch c with
    | (.error e, s1) => s1.fetchStop c e
    | (.ok _, s1) => s1

/-- A held path or a treadle goes on; a path whose fetch had stalled waits for its fetch again. -/
def runHeld (r : PathRef) (s : State) : Host.Outcome State Fault Refusal :=
  match s.ctxAt r with
  | none => .next s
  | some c => match c.late with
    | some l => .next (runLate c l s)
    | none => if c.refetches then .next (s.modP c fun p => { p with hold := none }) else runWord r s

/-- A step that no word encodes; an instruction word that stands in its place comes to nothing, since no path issues it. -/
def runEvent (i : Instr) (s : State) : Host.Outcome State Fault Refusal := if i.word?.isSome then .next s else exec i s

/-- What a move does, in the walk of a dobby up to a page without a translation; an input that a link delays joins the agenda. -/
def attempt (m : Move) (s : State) : Host.Outcome State Fault Refusal :=
  match m with
  | .input => match s.inputs with
    | [] => .next s
    | i :: is =>
      if s.delayed (s.agenda.map fun x => x.2) i then .next (({ s.ticked with inputs := is } : State).later s.clk i)
      else runEvent i { s.ticked with inputs := is }
  | .agenda k => match s.agenda[k]? with
    | none => .next s
    | some (due, i) => if s.clk < due then .next s else runEvent i { s.ticked with agenda := s.agenda.eraseIdx k }
  | .fetch r => .next (fetchPath r s)
  | .pick d k l => match s.pickLane d k l with
    | none => .next s
    | some (r, s1) => runWord r s1
  | .late d k l => match s.pickLane d k l with
    | none => .next s
    | some (r, s1) => passWord r s1
  | .path r => runHeld r s
  | .glimpse r => .next (s.glimpse r)
  | .event i => runEvent i s.ticked
  | .publish d k a => match (s.core d k).queue.find? fun e => e.line == a with
    | none => .next s
    | some e => .next (s.publish d k e)
  | .sample d jq i => .next (s.ticked.sampleStep d jq i)
  | .evict k => .next { s with tlb := s.tlb.eraseIdx k }
  | .evictLine k => .next (match s.lines[k]? with | some L => s.evictLine L.addr | none => s)
  | .choose d die => .next (s.chooseHead d die)
  | .cycle => .next s.nextCycle

/-- What waits for a page that a dobby has met in a move: an event, a path, or the numbers of another (R399, R400). -/
def State.waitOf (s : State) : Move → DWait
  | .input => (s.inputs.head?, none, [])
  | .agenda k => ((s.agenda[k]?).map fun x => x.2, none, [])
  | .event i => (some i, none, [])
  | .fetch r | .path r | .glimpse r => (none, some r, [])
  | .pick d k l | .late d k l => (none, (s.pickLane d k l).map fun x => x.1, [])
  | .sample d jq i => (none, none, [d, jq, i])
  | .choose d die => (none, none, [d, die])
  | _ => (none, none, [0])

/-- The state that a move leaves; a move that has met a page without a translation in the walk of a dobby leaves only the fault and the dobby's wait for
a `replay`, until which the move is not made again (R399, R400) (DESIGN CHOICE, assumption log 12). -/
def State.commit (s t : State) (w : DWait) : State :=
  match t.dfault with
  | none => t
  | some x => s.stallDobby x w

/-- The words that have issued and are still to do their work, of the groups that a move from `s` to `t` has ended. -/
def State.cutOff (s t : State) : List PathRef :=
  (s.groups.filter fun G => (t.group? G.uid).isNone).flatMap fun G =>
    G.wefts.flatMap fun w => (w.late.filter fun l => l.hold.why == .late).map fun l => ⟨G.uid, w.wid, 16 + l.n⟩

/-- A word that its path has gone past does what is left of its work. -/
def State.workOff (s : State) (r : PathRef) : State :=
  (List.range 16).foldl (fun s _ => match s.ctxAt r with
    | some c => (match c.late with
      | some l => if l.hold.why == .late then runLate c l s else s
      | none => s)
    | none => s) s

/-- The groups with commands that move, which a move from `s` to `t` has ended. -/
def State.cutRings (s t : State) : List Nat :=
  (s.groups.filter fun G => (t.group? G.uid).isNone && G.cmds.any fun c => c.started && c.status.isNone).map fun G => G.uid

/-- The state from which a move that ends groups is made: their issued words have done their work, since what has issued stands, and their commands have
come to a 128-byte boundary (R393, R429). -/
def State.worked (s t : State) : State := (s.cutRings t).foldl State.stopCmds ((s.cutOff t).foldl State.workOff s)

/-- What a move comes to; a weft's matrix operations that are under way see nothing of it (R318). -/
def perform (m : Move) (s : State) : Host.Outcome State Fault Refusal :=
  match attempt m s with
  | .next t =>
    if (s.cutOff t).isEmpty && (s.cutRings t).isEmpty then .next (s.shield (s.commit t (s.waitOf m)))
    else match attempt m (s.worked t) with
      | .next u => .next (s.shield ((s.worked t).commit u (s.waitOf m)))
      | o => o
  | o => o

/-- The credits of regions that have no path left on a lane discarded (R132). -/
def State.dropCredits (s : State) : State :=
  let keep (k : Core) (l : Lane) : Lane :=
    if l.credit.isEmpty then l
    else { l with credit := l.credit.filter fun x => (s.lanePaths k.dev k.n l.n).any fun c => c.R.rid == x.1 }
  { s with cores := s.cores.map fun k => { k with lanes := k.lanes.map (keep k) } }

/-- What holds between two moves: the allocators' heads are served (R114), idle rivals are parked (R380), the credits of absent regions are gone
(R132), no line has more than four release records (R310), the stall of R115 is watched, no issuer is named, and memory is in its canonical form. -/
def State.tidy (s : State) : State :=
  let t := (({ s with issuer := none } : State).serveHeads.trimRecs.parkIdle.dropCredits).watchStall
  { t with mem := Sparse.canon t.mem }

/-- The move that is made next: the schedule's, or the moves in turn (assumption log 2). -/
def State.nextMove (s : State) : Move := (s.moves[s.sched.headD s.rr % s.moves.length]?).getD .cycle

/-! ## A program put in place (assumption log 11) -/

/-- Where the word of `State.loadWord` stands, by virtual address and by device-local address, and where its page table stands. -/
def loadBase : Nat := 0x20000
/-- The page table. -/
def loadTable : Nat := 0x10000

/-- The one group of a loaded program: one weft on lane 0 of core 0, user mode, its path at PC 0 with the word in its fetch buffer. -/
def loadGroup (uid d : Nat) (bs : List Byte) : Group :=
  let w := newWeft 0 0 (BitVec.ofNat 64 loadBase) 0 false
  let line : Option (Nat × List (Option Byte)) := some (loadBase, bs.map some ++ List.replicate (192 - bs.length) none)
  { uid, dev := d, core := 0, ctx := 0, rid := uid, node := 0, ngroups := 1, bars := List.replicate 16 {}, bobs := List.replicate 64 {},
    wefts := [{ w with paths := w.paths.map fun p => { p with line := line } }] }

/-- The bytes of a word stored and set running: the first device runs one group, alone on its core, whose context maps the device's first 4 TiB
by one leaf with V, LEAF, R, W, X, A and D set; nothing else is due. -/
def State.loadWord (s : State) (bs : List Byte) : State :=
  let d := (s.devs.head?.map fun D => D.id).getD 0
  let leaf : Nat := 0x19F + d * 2 ^ 44
  let s1 : State := { s with
    devs := (if s.devs.isEmpty then [{ id := d, st := 6 }] else modIf (fun D => D.id == d) (fun D => { D with st := 6 }) s.devs),
    sched := [], rr := 0, inputs := [], agenda := [], issuer := none, tlb := [], cores := [], units := [],
    groups := [loadGroup s.uid d bs], uid := s.uid + 1 }
  let s2 := s1.modCtx d 0 fun C => { C with ptbase := BitVec.ofNat 64 (d * 2 ^ 44 + loadTable) }
  (s2.setBytes (d * 2 ^ 44 + loadTable) (leBytes 8 leaf)).setBytes (d * 2 ^ 44 + loadBase) bs

end Sys2Proof.Machine
end

