-- ==== Sys2Proof/Machine/Step.lean ====
section
/-! DEFINITION. Sys2Proof/Machine/Step.lean: one step of the machine, and a state whose next step runs a given word. -/

namespace Sys2Proof.Machine

/-- One step: one of the moves that are possible. -/
def step (s : State) : Host.Outcome State Fault Refusal :=
  match perform s.nextMove { s with sched := s.sched.tail, rr := s.rr + 1 } with
  | .next t => .next t.tidy
  | .fault r => .fault r
  | .refused r => .refused r

/-- The state with a word stored where the next step fetches: the lowest device runs one group of one weft, whose only path stands at the word,
alone on its core, through a page table of one 4 TiB leaf (DESIGN CHOICE, assumption log 11). -/
def State.withFetchWord (s : State) (_nbits w : Nat) : State := s.loadWord (bytesOfWord 12 w)

end Sys2Proof.Machine
end

