-- ==== Sys2Proof/Safety.lean ====
section
/-! DEFINITION. Sys2Proof/Safety.lean: the terms in which claims are made: runs, the invariant of the steps, an instruction that issues, what
it leaves unchanged, and the registers and paths it ends with. -/

namespace Sys2Proof.Machine

/-! ## Runs -/

/-- `n` steps lead from a state to another. -/
def Runs (n : Nat) (s t : State) : Prop := Host.Core.run Sys2Proof.core n s = .next t

/-- A state that some run reaches. -/
def Reaches (s t : State) : Prop := ∃ n, Runs n s t

/-- A safe state: no run from it ends in a fault or a refusal. -/
def Safe (s : State) : Prop := ∀ n, ∃ t, Runs n s t

/-- What holds between two moves: memory is in its canonical form and no word is being executed. -/
def Inv (s : State) : Prop := Memory.wf s.mem = true ∧ s.issuer = none

/-- The step from `s` whose move comes to `t`: it leaves `t`, but for the tidying between two moves, the wait of a dobby that has met a page without a
translation, and the bytes that the matrix operations under way keep of their issue (R318); where the move ends groups with issued words left or with commands
that move, it is made after those words have done their work and the commands have come to a line (R429). -/
def StepsTo (s t : State) : Prop :=
  let s0 : State := { s with sched := s.sched.tail, rr := s.rr + 1 }
  let w := s0.waitOf s.nextMove
  let quiet := s0.cutOff t = [] ∧ s0.cutRings t = []
  (quiet → step s = .next (s0.shield (s0.commit t w)).tidy) ∧
  (¬quiet → ∃ u, attempt s.nextMove (s0.worked t) = .next u ∧ step s = .next (s0.shield ((s0.worked t).commit u w)).tidy)

/-! ## An instruction that issues -/

/-- The word is issued now by the path in `c`: the path is not held, it may issue (R130), and no trap is taken before (R56, R109, R236). -/
abbrev State.Issues (s : State) (i : Form) (f : Fields) (c : Ctx) : Prop :=
  s.issuing f = some c ∧ c.hold = none ∧ s.ready i f c = true ∧ c.preTrap i f = none

/-- The held instruction of the path in `c` is tried again; one that a pre-emption has withdrawn issues anew (R408). -/
abbrev State.Resumes (s : State) (f : Fields) (c : Ctx) : Prop :=
  s.issuing f = some c ∧ (c.hold.any fun h => h.why != .withdrawn) = true ∧ c.late = none

/-- The issuer and the state once the word has been issued: its units are raised, its lane is taken (R123 to R129). -/
abbrev State.issued (s : State) (i : Form) (f : Fields) (c : Ctx) : Ctx × State := s.ticked.raise i f c

/-! ## What an instruction leaves unchanged -/

/-- A group apart from its wefts and its treadle's weft. -/
def Group.shell (G : Group) : Group := { G with wefts := [], trd := { G.trd with weft := { wid := treadleWid } } }

/-- A core apart from its lanes. -/
def Core.shell (k : Core) : Core := { k with lanes := [] }

/-- Apart from the issuing weft and the bookkeeping of issue (names, lanes, allowances, the agenda), nothing changes: no byte of memory, no
context, no region, no directory entry, no other weft, no barrier, bobbin, tile or command of any group. -/
structure Frame (s t : State) (c : Ctx) : Prop where
  rest : t = { s with agenda := t.agenda, tick := t.tick, uid := t.uid, cores := t.cores, tourns := t.tourns, groups := t.groups, units := t.units }
  cores : ∀ d n, (t.core d n).shell = (s.core d n).shell
  groups : ∀ g, (t.group? g).map Group.shell = (s.group? g).map Group.shell
  others : ∀ g w, (w ≠ c.r.w ∨ (g ≠ c.r.g ∧ c.r.w ≠ clusterWid)) → t.weft? g w = s.weft? g w

/-! ## What an instruction ends with -/

/-- The last of the values written to a register. -/
def lastWrite (ws : List (RegKey × Word)) (k : RegKey) : Option Word := (ws.reverse.find? fun x => x.1 == k).map fun x => x.2

/-- The value that a register holds once a value has been written to it (R149): pt stays true, and special registers are no registers of a weft. -/
def RegKey.kept (k : RegKey) (x : Word) : Word :=
  match k with
  | .v _ _ | .s _ => x
  | .p n _ => if n == 7 || x != 0 then 1 else 0
  | .sp _ => 0

/-- The register is one of the sixteen threads'. -/
def RegKey.ok : RegKey → Bool
  | .v _ t | .p _ t => t < 16
  | _ => true

/-- Whether an instruction's results are written at its issue (R125, R236). -/
def Ctx.writesNow (c : Ctx) (i : Form) : Bool := formFixed i || c.isTreadle || c.sel == 0

/-- The issuing weft after an instruction that has ended its issue with writes `ws`.  A fixed-latency instruction has written them.  Of a
variable-latency one the outstanding record `n` holds them, to be written when it completes, and no register has changed.  The path stands at the
next instruction, every other path where it stood; segment, mode, saved supervisor registers, exited threads and held blocks are as before. -/
structure Ends (i : Form) (c : Ctx) (ws : List (RegKey × Word)) (n : Nat) (w : Weft) : Prop where
  now : c.writesNow i = true → ∀ k, k.ok = true → w.reg k = match lastWrite ws k with | some x => k.kept x | none => c.wf.reg k
  late : c.writesNow i = false → (∀ k, w.reg k = c.wf.reg k) ∧
    ∃ o ∈ w.outs, o.n = n ∧ ∀ k, (o.writes.find? fun x => x.key == k).map (fun x => x.val) = lastWrite ws k
  path : (w.path? c.r.t).map (fun p => (p.mask, p.pc, p.hold)) = some (c.p.mask, c.p.pc + 1, none)
  paths : (w.paths.filter fun q => !q.mask.getLsbD c.r.t) = c.wf.paths.filter fun q => !q.mask.getLsbD c.r.t
  rest : w = { c.wf with v := w.v, s := w.s, p := w.p, flags := w.flags, ld := w.ld, st := w.st, cp := w.cp, tl := w.tl, outs := w.outs,
                         young := w.young, acq := w.acq, own := w.own, paths := w.paths }

/-- The word `i f`, issued in `s` by the path in `c`, completes its issue with the writes `ws` and changes nothing else. -/
def Computes (s : State) (i : Form) (f : Fields) (c : Ctx) (ws : List (RegKey × Word)) : Prop :=
  ∃ t w, exec (i.mk f) s = .next t ∧ t.weft? c.r.g c.r.w = some w ∧ Ends i c ws (s.issued i f c).1.out w ∧ Frame s t c

/-- The threads of a memory instruction one after another, when each is performed: their register writes and the state they leave (R205). -/
def performs (one : State → Nat → Thr × State) : List Nat → State → Option (List (RegKey × Word) × State)
  | [], s => some ([], s)
  | t :: ts, s => match one s t with
    | (.ok ws, s1) => (performs one ts s1).map fun r => (ws ++ r.1, r.2)
    | _ => none

/-- The threads that a memory instruction performs, ascending; under U = 1 the lowest selected one alone (R205, R206). -/
def accessing (f : Fields) (sel : Mask) : List Nat := if f.u then (threadsOf sel).take 1 else threadsOf sel

/-- The word `i`, issued by a path that selects a thread, in a state and on operands that `P` admits, answers the state `g`. -/
def Does (i : Form) (P : Fields → Ctx → State → Prop) (g : Fields → Ctx → State → State) : Prop :=
  ∀ (s : State) (f : Fields) (c : Ctx), s.Issues i f c → c.sel ≠ 0 →
    let q := s.issued i f c
    P f q.1 q.2 → exec (i.mk f) s = .next (g f q.1 q.2)

/-- As `Does`, of a word that performs its threads one after another from the state `start`: when each is performed, it answers the state that `g`
makes of their register writes and of the state they leave. -/
def DoesThreads (i : Form) (ts : Fields → Mask → List Nat) (P : Fields → Ctx → State → Prop) (start : Fields → Ctx → State → State)
    (one : Fields → Ctx → State → Nat → Thr × State) (g : Ctx → List (RegKey × Word) → State → State) : Prop :=
  ∀ (s : State) (f : Fields) (c : Ctx), s.Issues i f c → c.sel ≠ 0 →
    let q := s.issued i f c
    P f q.1 q.2 → ∀ ws u, performs (one f q.1) (ts f c.sel) (start f q.1 q.2) = some (ws, u) → exec (i.mk f) s = .next (g q.1 ws u)

end Sys2Proof.Machine
end

