-- ==== Sys2Proof/Certificates/Slice0/Obligations.lean ====
section
/-! DEFINITION. Sys2Proof/Certificates/Slice0/Obligations.lean: what is claimed of the model. -/

section Slice0Obligations
open Sys2Proof Sys2Proof.Machine

/-! ## Steps -/

/-- Every state has a next state: no step ends in a fault or a refusal, whatever the machine holds, and so no run does. -/
def Obligations.StepAnswersNext : Prop := (∀ s : State, ∃ t, step s = .next t) ∧ ∀ s : State, Safe s

/-- Every step keeps memory in its canonical form and leaves no word half executed. -/
def Obligations.StepKeepsInv : Prop := ∀ s t : State, Inv s → step s = .next t → Inv t

/-- The state after reset meets the invariant of the steps. -/
def Obligations.ResetInv : Prop := Inv State.reset

/-- R439: after reset the device is in RESET with its registers at their reset values, and nothing runs: no group, no region, no command.  That memory which
nothing has written reads 0, that the stores without a stated value are empty, and that the domain starts with device 0 is the model's choice (assumption logs 4, 5, 66). -/
def Obligations.ResetState : Prop :=
  let D := State.reset.dev 0
  State.reset.hasDev 0 = true ∧ D.st = 0 ∧ D.rten = false ∧ D.rwbase = 0 ∧ D.root = [] ∧
  State.reset.groups = [] ∧ State.reset.regions = [] ∧ State.reset.units = [] ∧ State.reset.tourns = [] ∧ State.reset.mem = [] ∧
  ∀ k, (State.reset.ctx 0 k).ptbase = 0 ∧ (State.reset.ctx 0 k).dbgen = false ∧ (State.reset.ctx 0 k).faults = []

/-- A step runs the decoded instruction.  The next move picks a path on a lane, or lets a path that is held or a treadle go on; its fetch
answers a word; the word decodes; the path is still there and has gone past no instruction.  Then the step is the execution of the instruction with that
path as its issuer, which answers a next state (`StepsTo` says what a step adds).  A path that has gone past instructions executes the word so too, or is
not changed by it. -/
def Obligations.StepRunsDecoded : Prop :=
  ∀ (s s1 s2 : State) (r : PathRef) (c : Ctx) (w : InstrWord) (i : Instr),
    let s0 : State := { s with sched := s.sched.tail, rr := s.rr + 1 }
    ((∃ d k l, s.nextMove = .pick d k l ∧ s0.pickLane d k l = some (r, s1)) ∨ (s.nextMove = .path r ∧ s1 = s0 ∧ c.late = none ∧ c.refetches = false)) →
    s1.ctxAt r = some c → s1.fetch c = (.ok w, s2) → decodeWord w = .ok i → (s2.ctxAt r).isSome = true →
    ∃ t, exec i { s2 with issuer := some r } = .next t ∧
      (c.alone = true → StepsTo s t) ∧
      (c.alone = false → StepsTo s s2 ∨ ∃ ns bytes, StepsTo s (t.notePassed r c.p.mask ns bytes))

/-- R118, R120: the word that a path executes is the twelve bytes at SEGBASE + 12 × PC in its fetch buffer's line. -/
def Obligations.FetchReadsBuffer : Prop :=
  ∀ (s : State) (c : Ctx) (line : List (Option Byte)) (bs : List Byte),
    c.p.line = some (c.codeLine.toNat, line) → bs.length = 12 →
    (line.drop (12 * (c.p.pc.toNat % 16))).take 12 = bs.map some →
    (c.hold.isSome = true → s.fetch c = (.ok (BitVec.ofNat 96 (wordOfBytes bs)), s)) ∧
    (c.hold = none → ∀ s1, s.checkWord c c.codeAddr 4 = (none, s1) → s.fetch c = (.ok (BitVec.ofNat 96 (wordOfBytes bs)), s1)) ∧
    (c.hold = none → ∀ e s1, s.checkWord c c.codeAddr 4 = (some e, s1) → s.fetch c = (.error e, s1))

/-! ## Memory -/

/-- R5: bytes stored in memory read back, little-endian words come back as the number they spell, every other byte reads as before, and the canonical
form is kept; two memories in canonical form that read alike at every address are the same list. -/
def Obligations.MemoryReadsBack : Prop :=
  (∀ (s : State) (a : Nat) (bs : List Byte), Memory.wf s.mem = true →
     Memory.wf (s.setBytes a bs).mem = true ∧ (s.setBytes a bs).bytes a bs.length = bs ∧
     (∀ b, (b < a ∨ a + bs.length ≤ b) → (s.setBytes a bs).byte b = s.byte b) ∧
     ∀ n x, leNat ((s.setBytes a (leBytes n x)).bytes a n) = x % 2 ^ (8 * n)) ∧
  (∀ m n : List Host.Cell, Memory.wf m = true → Memory.wf n = true → (∀ a, Sparse.get m a = Sparse.get n a) → m = n)

/-! ## Encoding (R31 to R56) -/

/-- Decoding what the encoder writes gives the instruction back, for every well-formed instruction word and every value of its operands. -/
def Obligations.DecodeOfEncode : Prop :=
  ∀ (i : Instr) (w : InstrWord), i.wf = true → encodeWord i = some w → decodeWord w = .ok i

/-- Every word that decodes is the encoding of the instruction it decodes to: no bit of a legal word is dropped, and no two words mean one
instruction. -/
def Obligations.EncodeOfDecode : Prop :=
  ∀ (w : InstrWord) (i : Instr), decodeWord w = .ok i → encodeWord i = some w ∧ i.wf = true

/-- R56: the checks are made in their order, and the first that fails names the error: bits 2:0, GROUP 0xF, the slot, SETF of a control transfer,
MOD, the extent, the operands, U. -/
def Obligations.ChecksInOrder : Prop :=
  ∀ w : InstrWord,
    let r := Raw.ofWord w
    (w.extractLsb' 0 3 ≠ 0 → decodeWord w = .error .nonzeroLow) ∧
    (w.extractLsb' 0 3 = 0 → w.extractLsb' 67 4 = 15 → decodeWord w = .error .reservedGroup) ∧
    (w.extractLsb' 0 3 = 0 → w.extractLsb' 67 4 ≠ 15 → (∀ i ∈ Form.all, i.opc ≠ w.extractLsb' 61 10) → decodeWord w = .error .unassignedSlot) ∧
    ∀ i, w.extractLsb' 0 3 = 0 → w.extractLsb' 67 4 ≠ 15 → Form.ofRaw r = some i →
      let setfBad := i.isControlTransfer = true ∧ w.extractLsb' 80 4 ≠ 15 ∨ 12 ≤ (w.extractLsb' 80 4).toNat ∧ w.extractLsb' 80 4 ≠ 15
      (setfBad → decodeWord w = .error .setfValue) ∧
      (¬setfBad → i.modOk r.mod = false → decodeWord w = .error .modUndefined) ∧
      (¬setfBad → i.modOk r.mod = true → i.extentOk r = false → decodeWord w = .error .extent) ∧
      (¬setfBad → i.modOk r.mod = true → i.extentOk r = true → i.operandsOk r = false → decodeWord w = .error .operandKind) ∧
      (¬setfBad → i.modOk r.mod = true → i.extentOk r = true → i.operandsOk r = true → i.uniformOk r = false → decodeWord w = .error .uniform) ∧
      (¬setfBad → i.modOk r.mod = true → i.extentOk r = true → i.operandsOk r = true → i.uniformOk r = true → decodeWord w = .ok (i.mk (i.fields r)))

/-- R32: words written out from the encoding decode to the instructions they stand for; the decoder takes the twelve bytes at the head of a list, the lowest
byte first, and leaves the rest. -/
def Obligations.DecodeWords : Prop :=
  (let W (opc : BitVec 10) (mod : BitVec 6) (d a b : BitVec 16) : InstrWord :=
     0#12 ++ 15#4 ++ 0#3 ++ 0#1 ++ 0#1 ++ 0#1 ++ 7#3 ++ opc ++ mod ++ 0#2 ++ 0#2 ++ d ++ a ++ b ++ 0#3
   decodeWord 0x000FC3A06038010000010020 = .ok (.fma { dist := 6, xr := 1, xc := 3, d := .vec 32, a := .vec 0, b := .scalar 4 }) ∧
   decodeWord (W 0b0000_000001 0 0 0b100_0000000000101 0) = .ok (.bra { a := .imm 5 }) ∧
   decodeWord (W 0b0001_000000 0 0b001_0_0000_00000100 0b001_0_0000_00000110 0b100_1111111111111) = .ok (.add { d := .scalar 4, a := .scalar 6, b := .imm (-1) }) ∧
   decodeWord (W 0b0010_000100 0b110_111 0 1 0b000_01000_00000010) = .ok (.lop3 { mod := 0b110_111, d := .vec 0, a := .vec 1, b := .lutVec 2 8 }) ∧
   decodeWord (W 0b0011_000000 0b000_010 0b010_0_0000_00000001 0b001_0_0000_00000100 0b001_0_0000_00000101) =
     .ok (.icmp { mod := 0b000_010, d := .pred 1, a := .scalar 4, b := .scalar 5 }) ∧
   decodeWord (W 0b0101_000000 0 0 0b001_0_0000_00000011 0) = .ok (.cvt { d := .vec 0, a := .scalar 3 }) ∧
   decodeWord (W 0b0110_000000 0 1 2 0) = .ok (.rcp { d := .vec 1, a := .vec 2 }) ∧
   decodeWord (W 0b0111_000001 0b110_000 0 0x1234 0x5678) = .ok (.movi { mod := 0b110_000, d := .vec 0, a := .bits 0x1234, b := .bits 0x5678 }) ∧
   decodeWord (W 0b0111_001001 0b110_000 4 0b011_000_0000001001 0) = .ok (.rdsr { mod := 0b110_000, d := .vec 4, a := .special 9 }) ∧
   decodeWord (W 0b1000_000000 0b10_1_00_1 4 0b110_0010_1_00000110 0b100_0000000001000) =
     .ok (.ld { mod := 0b10_1_00_1, d := .vec 4, a := .mem true 6 2, b := .imm 8 }) ∧
   decodeWord (W 0b1001_000000 0b01_1_00_0 8 0b110_1001_0_00000110 9) = .ok (.atom { mod := 0b01_1_00_0, d := .vec 8, a := .mem false 6 9, b := .vec 9 }) ∧
   decodeWord (W 0b1010_000000 0 3 0b110_0000_1_00000110 0b100_0000000000000) = .ok (.ldf { d := .vec 3, a := .mem true 6 0, b := .imm 0 }) ∧
   decodeWord (W 0b1011_000001 0b000_010 0 0b100_0000000000011 0) = .ok (.bwait { mod := 0b000_010, a := .imm 3 }) ∧
   decodeWord (W 0b1100_000010 0b110_000 0b101_0_0000_00000101 0b100_0000000000010 0) = .ok (.tzero { mod := 0b110_000, d := .tile 5, a := .imm 2 }) ∧
   decodeWord (W 0b1101_000001 0 0 0b100_0000000000010 0) = .ok (.barw { a := .imm 2 }) ∧
   decodeWord (W 0b1110_010010 0 0 0b100_0000000000111 0) = .ok (.svc { a := .imm 7 }) ∧
   decodeWord (W 0b1111_000000 0 0 0 0) = .error .reservedGroup ∧ decodeWord (W 0b0000_001111 0 0 0 0) = .error .unassignedSlot) ∧
  (∀ (bs rest : List Byte) (i : Instr) (w : InstrWord), encodeWord i = some w → i.wf = true → bs = bytesOfWord 12 w.toNat →
     bs.length = 12 ∧ decode (bs ++ rest) = .ok (i, rest) ∧ ∀ k, k < 12 → decode (bs.take k) = .error .short)

/-! ## Instructions that compute (R148 to R189)

`Computes s i f c ws` says that the word `i f`, issued by the path in `c`, answers a next state, what that state's registers and paths are when
the writes are `ws`, and that nothing else has changed.  Operands are read by `Ctx.elem`, in the issuer as it stands at issue. -/

/-- R153, R155 to R157: the instructions of group 0x1 but for the carry forms, over every element of the block. -/
def Obligations.IntegerComputes : Prop :=
  ∀ i ∈ [Form.add, .sub, .mul, .mulhi, .mulw, .mad, .madw, .div, .rem, .abs, .neg, .min, .max, .clamp, .sad, .dp4],
  ∀ (s : State) (f : Fields) (c : Ctx), s.Issues i f c →
    let q := s.issued i f c
    let ty := intTy (modHi f.mod)
    let w := if ty.wide then 2 else 1
    let x := q.1.elem q.2 (if ty.packed then .packed else .int) w
    Computes s i f c (q.1.blockWrites f w fun t r j =>
      if modBit2 f.mod then intElem i ty (f.mod.getLsbD 0) (x f.d t r j) (imm32Nat (ty == .i64) w f) 0
      else intElem i ty (f.mod.getLsbD 0) (x f.a t r j) (x f.b t r j) (x f.d t r j))

/-- R154: addc and subb chain through the elements of the block and leave the last carry in p6. -/
def Obligations.CarryComputes : Prop :=
  ∀ i ∈ [Form.addc, .subb],
  ∀ (s : State) (f : Fields) (c : Ctx), s.Issues i f c →
    let q := s.issued i f c
    let ty := intTy (modHi f.mod)
    let w := if ty.wide then 2 else 1
    let x := q.1.elem q.2 .int w
    Computes s i f c ((threadsOf q.1.sel).flatMap fun t =>
      let u := if f.u then lowThread q.1.sel else t
      let els := blockElems f w
      let r := carryChain (i == .subb) ty.width (els.map fun e => (x f.a u e.1 e.2, x f.b u e.1 e.2)) (q.1.pd q.2 6 u)
      ((els.zip r.1).flatMap fun e => putKeys (destKeys f.d w t e.1.1 e.1.2) e.2) ++ [(.p 6 t, if r.2 then 1 else 0)])

/-- R159 to R163: the instructions of group 0x2. -/
def Obligations.LogicComputes : Prop :=
  ∀ i ∈ [Form.and, .or, .xor, .not, .lop3, .shl, .shr, .sar, .rot, .fsh, .bfx, .bfi, .popc, .clz, .ctz, .brev, .bperm, .lea],
  ∀ (s : State) (f : Fields) (c : Ctx), s.Issues i f c →
    let q := s.issued i f c
    let ty := intTy (modHi f.mod)
    let w := if ty.wide then 2 else 1
    let x := q.1.elem q.2 .int w
    let lut := (match f.b with | .lutVec _ l | .lutScalar _ l => l.toNat | _ => 0) + 32 * modLo f.mod
    Computes s i f c (q.1.blockWrites f w fun t r j =>
      if modBit2 f.mod && [Form.and, .or, .xor].contains i then logicElem i ty 0 0 (x f.d t r j) (imm32Nat true w f) 0
      else logicElem i ty (modLo2 f.mod) lut (x f.a t r j) (x f.b t r j) (x f.d t r j))

/-- R165 to R167, R172: the compares and the predicate instructions write one predicate of each selected thread; `sel` chooses by a predicate, and
`pmov` to a register writes 1 or 0 over the block. -/
def Obligations.PredicateComputes : Prop :=
  (∀ (s : State) (f : Fields) (c : Ctx),
     let writes (i : Form) (g : Ctx → State → Nat → Bool) : Prop := s.Issues i f c →
       let q := s.issued i f c
       Computes s i f c (q.1.laneWrites f.d fun t => if g q.1 q.2 (if f.u then lowThread q.1.sel else t) then 1 else 0)
     let x (m : Widen) (w : Nat) (o : Operand) (c : Ctx) (s : State) (t : Nat) : Nat := c.elem s m w o t 0 0
     let ty := intTy (modHi f.mod)
     let w := if ty.wide then 2 else 1
     writes .icmp (fun c s t => icmpTest ty.signed ty.width (modLo f.mod) (x .int w f.a c s t) (x .int w f.b c s t)) ∧
     writes .fcmp (fun c s t => fcmpTest (modLo f.mod) (BitVec.ofNat 32 (x (.flt .f32) 1 f.a c s t)) (BitVec.ofNat 32 (x (.flt .f32) 1 f.b c s t))) ∧
     writes .fclass (fun c s t => (BitVec.ofNat 32 (x .int 1 f.b c s t)).getLsbD (fclassBit (BitVec.ofNat 32 (x (.flt .f32) 1 f.a c s t)))) ∧
     writes .pand (fun c s t => c.predOf s f.a t && c.predOf s f.b t) ∧
     writes .por (fun c s t => c.predOf s f.a t || c.predOf s f.b t) ∧
     writes .pxor (fun c s t => c.predOf s f.a t != c.predOf s f.b t) ∧
     writes .pnot (fun c s t => !c.predOf s f.a t) ∧
     (∀ n, f.d = .pred n → writes .pmov (fun c s t => x .int 1 f.a c s t % 2 ^ 32 != 0)) ∧
     writes .pany (fun c s t => (List.range 8).any fun k => (BitVec.ofNat 32 (x .int 1 f.a c s (lowThread c.sel))).getLsbD k && c.pd s k t)) ∧
  (∀ (s : State) (f : Fields) (c : Ctx),
     (s.Issues .sel f c →
       let q := s.issued .sel f c
       let ty := intTy (modHi f.mod)
       let w := if ty.wide then 2 else 1
       let x := q.1.elem q.2 (if ty.packed then .packed else .int) w
       Computes s .sel f c (q.1.blockWrites f w fun t r j => if q.1.pd q.2 (modLo f.mod) t then x f.a t r j else x f.b t r j)) ∧
     ((∀ n, f.d ≠ .pred n) → s.Issues .pmov f c →
       let q := s.issued .pmov f c
       Computes s .pmov f c (q.1.blockWrites f 1 fun t _ _ => if q.1.predOf q.2 f.a t then 1 else 0)))

/-- R171, R180 to R182: the instructions of groups 0x4 and 0x6: those that work on single elements, both parts of a `.c32` element alike, the dot product,
the scaling by a power of two, the complex products and the exact sums and products. -/
def Obligations.FloatComputes : Prop :=
  (∀ i ∈ [Form.fadd, .fsub, .fmul, .fma, .fmin, .fmax, .fabs, .fneg, .fcopysign, .frnd, .fsat, .rcp, .divFloat, .sqrt, .rsqrt, .ex2, .lg2, .sinpi, .cospi, .tanh],
   ∀ (s : State) (f : Fields) (c : Ctx), s.Issues i f c →
     let q := s.issued i f c
     let ty := fltTy (modHi f.mod)
     let w := if ty == .c32 then 2 else 1
     let x := q.1.elem q.2 (fltWiden ty) w
     let g (a b d : Nat) : Nat := (floatElem i (if ty == .c32 then .f32 else ty) (roundingOf (modLo2 f.mod)) (modBit2 f.mod)
       (BitVec.ofNat 32 a) (BitVec.ofNat 32 b) (BitVec.ofNat 32 d)).toNat
     Computes s i f c (q.1.blockWrites f w fun t r j =>
       let a := x f.a t r j
       let b := x f.b t r j
       let d := x f.d t r j
       if ty == .c32 then g a b d + 2 ^ 32 * g (a / 2 ^ 32) (b / 2 ^ 32) (d / 2 ^ 32) else g a b d)) ∧
  (∀ (s : State) (f : Fields) (c : Ctx),
     let ty := fltTy (modHi f.mod)
     let ftz := modBit2 f.mod
     let rm := roundingOf (modLo2 f.mod)
     let one (i : Form) (ma mb : Widen) (g : Word → Word → Word → Word) : Prop := s.Issues i f c →
       let q := s.issued i f c
       Computes s i f c (q.1.blockWrites f 1 fun t r j =>
         (g (BitVec.ofNat 32 (q.1.elem q.2 ma 1 f.a t r j)) (BitVec.ofNat 32 (q.1.elem q.2 mb 1 f.b t r j)) (BitVec.ofNat 32 (q.1.elem q.2 ma 1 f.d t r j))).toNat)
     let two (i : Form) (m : Widen) (g : Word × Word → Word × Word → Word × Word → Word × Word) : Prop := s.Issues i f c →
       let q := s.issued i f c
       Computes s i f c (q.1.blockWrites f 2 fun t r j =>
         let x (o : Operand) : Word × Word := (BitVec.ofNat 32 (q.1.elem q.2 m 2 o t r j), BitVec.ofNat 32 (q.1.elem q.2 m 2 o t r j / 2 ^ 32))
         let y := g (x f.a) (x f.b) (x f.d)
         y.1.toNat + 2 ^ 32 * y.2.toNat)
     one .fdot2 (fltWiden ty) (fltWiden ty) (fdot2Elem ty rm ftz) ∧
     one .fscale (fltWiden ty) (if ty == .f32 then .int else .packed) (fun a b _ => fscaleElem ty rm ftz a b) ∧
     two .cmul .cplx (fun a b _ => cmulElem rm ftz a b none) ∧
     two .cfma .cplx (fun a b d => cmulElem rm ftz a b (some d)) ∧
     two .twosum (.flt .f32) (fun a b _ => twoSum a.1 b.1) ∧
     two .twoprod (.flt .f32) (fun a b _ => twoProd a.1 b.1))

/-- R174 to R178: the conversions. -/
def Obligations.ConvertComputes : Prop :=
  ∀ (s : State) (f : Fields) (c : Ctx),
    let ftz := modBit2 f.mod
    let rm := roundingOf (modLo2 f.mod)
    let one (i : Form) (ma : Widen) (g : Word → Word → Nat) : Prop := s.Issues i f c →
      let q := s.issued i f c
      Computes s i f c (q.1.blockWrites f 1 fun t r j =>
        g (BitVec.ofNat 32 (q.1.elem q.2 ma 1 f.a t r j)) (BitVec.ofNat 32 (q.1.elem q.2 .int 1 f.b t r j)))
    let cells (i : Form) (k w : Nat) (g : List Word → Nat) : Prop := s.Issues i f c →
      let q := s.issued i f c
      Computes s i f c (q.1.blockWrites f k fun t r j => g (q.1.cellWords q.2 w f.a t r j))
    let sum (hi lo : Word) : Nat := Fmt.f32.encode rm ftz (Num.sum rm [flushed ftz hi, flushed ftz lo])
    (s.Issues .cvt f c →
      let q := s.issued .cvt f c
      let code := (f.mod.extractLsb' 2 4).toNat
      let w := if 4 ≤ code && code ≤ 7 then 2 else 1
      Computes s .cvt f c (q.1.blockWrites f w fun t r j =>
        let x (o : Operand) : Nat := q.1.elem q.2 (cvtWiden code) w o t r j
        let y := cvtElem code rm (BitVec.ofNat 32 (x f.a), BitVec.ofNat 32 (x f.a / 2 ^ 32)) (BitVec.ofNat 32 (x f.b))
        y.1.toNat + 2 ^ 32 * y.2.toNat)) ∧
    one .tenc (.flt .f32) (fun a _ => if modHi f.mod == 1 then tenc6 a else tenc8 a) ∧
    one .tdec .int (fun a k => (tdecElem (modHi f.mod == 1) a k).toNat) ∧
    one .e8enc (.flt .f32) (fun a _ => e8Enc rm (flushed ftz a)) ∧
    one .pack .int (fun a b => (packElem (modHi f.mod) a b).toNat) ∧
    one .unpack .int (fun a k => (unpackElem (modHi f.mod) a k).toNat) ∧
    cells .xcvt 4 4 (fun ws => if modHi f.mod == 6 then Fmt.f32.encode rm ftz (x128Value (BitVec.ofNat 128 (joinWords ws)))
      else (x128Of rm (flushed ftz (ws.getD 0 0))).toNat) ∧
    cells .kcvt (if modHi f.mod == 6 then 2 else 4) (if modHi f.mod == 6 then 2 else 4) (fun ws =>
      if modHi f.mod == 6 then sum (ws.getD 0 0) (ws.getD 1 0) else sum (ws.getD 0 0) (ws.getD 1 0) + 2 ^ 32 * sum (ws.getD 2 0) (ws.getD 3 0))

/-- R184 to R189: moves, the exchanges between threads, and the read of special registers; `shfl` takes the source thread's register, or the thread's
own where the source does not exist, and `.pv` tells in p6 which.  That one index, the first register of B, serves a thread's whole block is the model's
choice (assumption log 22). -/
def Obligations.MoveComputes : Prop :=
  (∀ (s : State) (f : Fields) (c : Ctx),
     let w := if modHi f.mod == 7 then 2 else 1
     let block (i : Form) (w : Nat) (g : Ctx → State → Nat → Nat → Nat → Nat) : Prop := s.Issues i f c →
       let q := s.issued i f c
       Computes s i f c (q.1.blockWrites f w (g q.1 q.2))
     let lane (i : Form) (g : Ctx → State → Nat) : Prop := s.Issues i f c →
       let q := s.issued i f c
       Computes s i f c (q.1.laneWrites f.d fun _ => g q.1 q.2)
     let from_ (c : Ctx) (s : State) : Nat := c.elem s .int w f.b (lowThread c.sel) 0 0 % 16
     let voters (c : Ctx) (s : State) : List Nat := (threadsOf c.sel).filter fun t => c.predOf s f.a t
     let same (c : Ctx) (s : State) (t : Nat) : List Nat := (threadsOf c.sel).filter fun u => c.elem s .int w f.a u 0 0 == c.elem s .int w f.a t 0 0
     block .mov w (fun c s t r j => c.elem s .int w f.a t r j) ∧
     block .movi w (fun _ _ _ _ _ => imm32Nat true w f) ∧
     block .movs w (fun c s _ r j => c.elem s .int w f.a (from_ c s) r j) ∧
     block .bcast w (fun c s _ r j => c.elem s .int w f.a (from_ c s) r j) ∧
     block .blkmov 1 (fun c s t r j => c.elem s .int 1 f.a t j r) ∧
     block .matchThreads w (fun c s t _ _ =>
       if modLo f.mod == 1 then (if maskOf (same c s t) == c.sel then c.sel.toNat else 0) else (maskOf (same c s t)).toNat) ∧
     lane .ballot (fun c s => (maskOf (voters c s)).toNat) ∧
     lane .vote (fun c s => if voteTest (modLo2 f.mod) (voters c s).length (c.val s f.b (lowThread c.sel)).toNat (threadsOf c.sel).length then 1 else 0) ∧
     (∀ n, f.a = .special n → block .rdsr w (fun c s t _ _ =>
       (c.special s n.toNat t).toNat + if w == 2 then 2 ^ 32 * (c.special s (n.toNat + 1) t).toNat else 0))) ∧
  (∀ (s : State) (f : Fields) (c : Ctx), s.Issues .shfl f c →
     let q := s.issued .shfl f c
     let w := if modHi f.mod == 7 then 2 else 1
     let src (t : Nat) : Option Nat :=
       let b := (q.1.val q.2 f.b t).toNat
       match modLo2 f.mod with
       | 0 => if b < 16 then some b else none
       | 1 => if b ≤ t then some (t - b) else none
       | 2 => if t + b < 16 then some (t + b) else none
       | _ => if b < 16 then some (t ^^^ b) else none
     Computes s .shfl f c
       ((q.1.blockWrites f w fun t r j => q.1.elem q.2 .int w f.a ((src t).getD t) r j) ++
         if modBit2 f.mod then (threadsOf q.1.sel).map fun t => (.p 6 t, if (src t).isSome then 1 else 0) else []))

/-! ## The values of the integer instructions (R151 to R165)

The statements below say what `intElem`, `logicElem`, `carryChain` and `icmpTest` are, which the statements above name. -/

/-- R151, R153, R156, R157: the value of each element is the exact result, taken mod 2^w or, with `.sat`, clamped to the range of the type. -/
def Obligations.IntegerValues : Prop :=
  (∀ (t : IntTy) (sat : Bool) (a b d : Nat), t ∈ [IntTy.i32, .n32, .i64, .n64, .i16x2, .n16x2] →
     let w := t.width
     let m := if t.packed then 32 else w
     a < 2 ^ m → b < 2 ^ m → d < 2 ^ m →
     let val (x : Nat) : Int := if t.signed then (BitVec.ofNat w x).toInt else (BitVec.ofNat w x).toNat
     let lo : Int := if t.signed then -2 ^ (w - 1) else 0
     let hi : Int := if t.signed then 2 ^ (w - 1) - 1 else 2 ^ w - 1
     let out (sat : Bool) (x : Int) : Nat := ((if sat then max lo (min hi x) else x) % 2 ^ w).toNat
     let elem (sat : Bool) (g : Int → Int → Int → Int) : Nat :=
       if t.packed then out sat (g (val a) (val b) (val d)) + 2 ^ 16 * out sat (g (val (a / 2 ^ 16)) (val (b / 2 ^ 16)) (val (d / 2 ^ 16)))
       else out sat (g (val a) (val b) (val d))
     intElem .add t sat a b d = elem sat (fun a b _ => a + b) ∧
     intElem .sub t sat a b d = elem sat (fun a b _ => a - b) ∧
     intElem .mul t sat a b d = elem sat (fun a b _ => a * b) ∧
     intElem .mulhi t false a b d = elem false (fun a b _ => a * b / 2 ^ w) ∧
     intElem .mad t sat a b d = elem sat (fun a b d => a * b + d) ∧
     intElem .abs t sat a b d = elem sat (fun a _ _ => (a.natAbs : Int)) ∧
     intElem .neg t sat a b d = elem sat (fun a _ _ => -a) ∧
     intElem .min t sat a b d = elem sat (fun a b _ => min a b) ∧
     intElem .max t sat a b d = elem sat (fun a b _ => max a b) ∧
     intElem .clamp t sat a b d = elem sat (fun a b d => min (max d a) b)) ∧
  (∀ (t : IntTy) (sat : Bool) (a b d : Nat),
     let s := t.signed
     let val (w x : Nat) : Int := if s then (BitVec.ofNat w x).toInt else (BitVec.ofNat w x).toNat
     let out (w : Nat) (sat : Bool) (x : Int) : Nat :=
       let lo : Int := if s then -2 ^ (w - 1) else 0
       let hi : Int := if s then 2 ^ (w - 1) - 1 else 2 ^ w - 1
       ((if sat then max lo (min hi x) else x) % 2 ^ w).toNat
     (t ∈ [IntTy.i64, .n64] → a < 2 ^ 64 → b < 2 ^ 64 → d < 2 ^ 64 →
       intElem .mulw t sat a b d = out 64 false (val 32 a * val 32 b) ∧
       intElem .madw t sat a b d = out 64 sat (val 32 a * val 32 b + val 64 d)) ∧
     (t ∈ [IntTy.i32, .n32] → a < 2 ^ 32 → b < 2 ^ 32 → d < 2 ^ 32 →
       intElem .sad t sat a b d = out 32 sat (val 32 d + ((val 32 a - val 32 b).natAbs : Int)) ∧
       intElem .dp4 t sat a b d = out 32 sat (val 32 d + val 8 a * val 8 b + val 8 (a / 2 ^ 8) * val 8 (b / 2 ^ 8) +
         val 8 (a / 2 ^ 16) * val 8 (b / 2 ^ 16) + val 8 (a / 2 ^ 24) * val 8 (b / 2 ^ 24))) ∧
     (t ∈ [IntTy.i16x2, .n16x2] → a < 2 ^ 32 → b < 2 ^ 32 → d < 2 ^ 32 →
       intElem .sad t sat a b d = out 32 sat (val 32 d + ((val 16 a - val 16 b).natAbs : Int) + ((val 16 (a / 2 ^ 16) - val 16 (b / 2 ^ 16)).natAbs : Int))))

/-- R155: `div` truncates toward zero, `rem` takes the sign of a, and the exceptional cases have the results of the table. -/
def Obligations.DivisionValues : Prop :=
  ∀ (t : IntTy) (sat : Bool) (a b d : Nat), t ∈ [IntTy.i32, .n32, .i64, .n64] →
    let w := t.width
    a < 2 ^ w → b < 2 ^ w →
    let x : Int := if t.signed then (BitVec.ofNat w a).toInt else a
    let y : Int := if t.signed then (BitVec.ofNat w b).toInt else b
    (b ≠ 0 → ¬(t.signed = true ∧ x = -2 ^ (w - 1) ∧ y = -1) →
      (intElem .div t sat a b d : Int) = x.tdiv y % 2 ^ w ∧ (intElem .rem t sat a b d : Int) = (x - y * x.tdiv y) % 2 ^ w) ∧
    (b = 0 → intElem .rem t sat a b d = a ∧
      intElem .div t sat a b d = if t.signed = false then 2 ^ w - 1 else if 0 ≤ x then 2 ^ (w - 1) - 1 else 2 ^ (w - 1)) ∧
    (t.signed = true → x = -2 ^ (w - 1) → y = -1 → intElem .div t sat a b d = 2 ^ (w - 1) ∧ intElem .rem t sat a b d = 0)

/-- R154: a block of n elements is one n × w-bit addition or subtraction with the carry or borrow in and out, lowest word first. -/
def Obligations.CarryValues : Prop :=
  ∀ (w : Nat) (xs : List (Nat × Nat)) (c : Bool), (∀ x ∈ xs, x.1 < 2 ^ w ∧ x.2 < 2 ^ w) →
    let num : List Nat → Int := fun ys => ys.foldr (fun (y : Nat) (n : Int) => (y : Int) + 2 ^ w * n) 0
    let a := num (xs.map fun x => x.1)
    let b := num (xs.map fun x => x.2)
    let c0 : Int := if c then 1 else 0
    let out (r : List Nat × Bool) (x : Int) (sign : Int) : Prop :=
      r.1.length = xs.length ∧ (∀ y ∈ r.1, y < 2 ^ w) ∧ num r.1 + sign * 2 ^ (w * xs.length) * (if r.2 then 1 else 0) = x
    out (carryChain false w xs c) (a + b + c0) 1 ∧ out (carryChain true w xs c) (a - b - c0) (-1)

/-- R159, R162, R163, R165: the bitwise instructions and every bit of `lop3` by its table; the counts, the reversal of the bits and the bytes that
`bperm` selects; `lea` adds the scaled index to the base mod 2^64; `icmp` compares signed for i types and unsigned for n types. -/
def Obligations.LogicValues : Prop :=
  (∀ (t : IntTy) (o lut a b d : Nat), t ∈ [IntTy.b32, .b64] →
     let w := t.width
     a < 2 ^ w → b < 2 ^ w → d < 2 ^ w →
     let bits (i : Form) (g : Bool → Bool → Bool → Bool) : Prop := logicElem i t o lut a b d < 2 ^ w ∧
       ∀ k, k < w → (logicElem i t o lut a b d).testBit k = g (a.testBit k) (b.testBit k) (d.testBit k)
     bits .and (fun a b _ => a && b) ∧ bits .or (fun a b _ => a || b) ∧ bits .xor (fun a b _ => a != b) ∧ bits .not (fun a _ _ => !a) ∧
     bits .lop3 (fun a b d => lut.testBit (4 * (if d then 1 else 0) + 2 * (if b then 1 else 0) + (if a then 1 else 0)))) ∧
  (∀ (t : IntTy) (o lut a b d : Nat), t ∈ [IntTy.b32, .b64] →
     let w := t.width
     a < 2 ^ w →
     let v (i : Form) : Nat := logicElem i t o lut a b d
     v .popc = ((List.range w).filter fun k => a.testBit k).length ∧
     (a = 0 → v .clz = w ∧ v .ctz = w) ∧
     (a ≠ 0 → v .clz < w ∧ a.testBit (w - 1 - v .clz) = true ∧ (∀ k, w - 1 - v .clz < k → a.testBit k = false) ∧
       v .ctz < w ∧ a.testBit (v .ctz) = true ∧ ∀ k, k < v .ctz → a.testBit k = false) ∧
     (∀ k, k < w → (v .brev).testBit k = a.testBit (w - 1 - k)) ∧
     (t = .b32 → ∀ k, k < 4 →
       let s := b / 2 ^ (4 * k) % 16
       let byte := a / 2 ^ (8 * (s % 4)) % 256
       v .bperm / 2 ^ (8 * k) % 256 = if s / 4 = 0 then byte else if s / 4 = 2 then (if byte.testBit 7 then 0xFF else 0) else 0)) ∧
  (∀ (t : IntTy) (lut d : Nat) (a b : BitVec 64), t ∈ [IntTy.i64, .n64, .b64] →
     let ext : BitVec 64 := if t = .b64 then b else if t = .i64 then (b.setWidth 32).signExtend 64 else (b.setWidth 32).setWidth 64
     ∀ o ∈ [(0, 1), (1, 4), (2, 8), (3, 16)],
       logicElem .lea t o.1 lut a.toNat b.toNat d = (a + ext * BitVec.ofNat 64 o.2).toNat) ∧
  (∀ (w : Nat), w = 32 ∨ w = 64 → ∀ (a b : BitVec w) (k : Nat),
     let u := icmpTest false w k a.toNat b.toNat
     let s := icmpTest true w k a.toNat b.toNat
     (k = 0 → u = decide (a = b) ∧ s = decide (a = b)) ∧ (k = 1 → u = decide (a ≠ b) ∧ s = decide (a ≠ b)) ∧
     (k = 2 → u = a.ult b ∧ s = a.slt b) ∧ (k = 3 → u = a.ule b ∧ s = a.sle b) ∧
     (k = 4 → u = b.ult a ∧ s = b.slt a) ∧ (k = 5 → u = b.ule a ∧ s = b.sle a))

/-- R160: shifts, rotations and funnel shifts, with the amount read unsigned and `.wrap` taking it mod w. -/
def Obligations.ShiftValues : Prop :=
  ∀ (t : IntTy) (o lut b d : Nat), t ∈ [IntTy.b32, .b64] → ∀ (a x : BitVec t.width),
    let w := t.width
    let n := if o % 2 == 1 then b % 2 ^ 32 % w else b % 2 ^ 32
    let v (i : Form) (b : Nat) : Nat := logicElem i t o lut a.toNat b d
    v .shl b = (a <<< n).toNat ∧ v .shr b = (a >>> n).toNat ∧ v .sar b = (a.sshiftRight n).toNat ∧
    v .rot b = (if o % 2 == 1 then a.rotateRight (b % 2 ^ 32 % w) else a.rotateLeft (b % 2 ^ 32 % w)).toNat ∧
    v .fsh x.toNat = (if o % 2 == 1 then ((a ++ x) >>> (d % 2 ^ 32 % w)).extractLsb' 0 w else ((a ++ x) <<< (d % 2 ^ 32 % w)).extractLsb' w w).toNat

/-! ## Control (R141 to R147, R406) -/

/-- R141: every thread of the path goes on, the threads that the guard selects at the target, the others at the next instruction.  The targets
are read, and a link or a counter is written, before any thread moves.  No other path of the weft moves, and nothing else changes. -/
def Obligations.BranchesGo : Prop :=
  ∀ (s : State) (f : Fields) (c : Ctx),
    let goes (i : Form) (target : Ctx → State → Nat → Word) (ws : Ctx → State → List (RegKey × Word)) : Prop := s.Issues i f c →
      let q := s.issued i f c
      ∃ t w, exec (i.mk f) s = .next t ∧ t.weft? c.r.g c.r.w = some w ∧ Frame s t c ∧
        (∀ k, c.p.mask.getLsbD k = true →
          ∃ p ∈ w.paths, p.mask.getLsbD k = true ∧ p.hold = none ∧ p.pc = if c.sel.getLsbD k then target q.1 q.2 k else c.p.pc + 1) ∧
        (∀ p ∈ c.wf.paths, p.mask.getLsbD c.r.t = false → p ∈ w.paths) ∧
        (∀ k, k.ok = true → w.reg k = match lastWrite (ws q.1 q.2) k with | some x => k.kept x | none => c.wf.reg k) ∧
        w = { c.wf with v := w.v, s := w.s, p := w.p, flags := w.flags, ld := w.ld, st := w.st, cp := w.cp, tl := w.tl, outs := w.outs,
                        young := w.young, acq := w.acq, own := w.own, paths := w.paths }
    let there (v : BitVec 13) : Word := c.p.pc + v.signExtend 32
    let link (c : Ctx) (_ : State) : List (RegKey × Word) := c.laneWrites f.d fun _ => (c.p.pc + 1).toNat
    let count (c : Ctx) (s : State) : Word := c.once s f.d - 1
    (∀ v, f.a = .imm v → goes .bra (fun _ _ _ => there v) (fun _ _ => []) ∧ goes .call (fun _ _ _ => there v) link ∧
      goes .loop (fun c s _ => if count c s = 0 then c.p.pc + 1 else there v) (fun c s => c.laneWrites f.d fun _ => (count c s).toNat)) ∧
    goes .brx (fun c s k => c.val s f.a k) (fun _ _ => []) ∧ goes .ret (fun c s k => c.val s f.a k) (fun _ _ => []) ∧
    goes .callx (fun c s k => c.val s f.a k) link

/-- R146, R147: `nop` and `yield` only go on, and so does `brk` where the context's DBGEN is 0; `trap` takes USER_TRAP with the selected threads as its
performed mask, and `brk` with DBGEN takes BREAK, each with the low twelve bits of A.  That the performed mask of BREAK is empty is the
model's choice (assumption log 30). -/
def Obligations.IdleAndTraps : Prop :=
  (∀ (s : State) (f : Fields) (c : Ctx),
     (s.Issues .nop f c → Computes s .nop f c []) ∧ (s.Issues .yield f c → Computes s .yield f c []) ∧
     (s.Issues .brk f c → (s.ctx c.dev c.ctx).dbgen = false → Computes s .brk f c [])) ∧
  (∀ (s : State) (f : Fields) (c : Ctx), c.sel ≠ 0 →
     let taken (i : Form) (reason : Nat) (pmask : Mask) : Prop := s.Issues i f c →
       let q := s.issued i f c
       ∃ t : TrapInfo, t.cls = .operand ∧ t.reason = reason ∧ t.pc = c.p.pc ∧ t.pmask = pmask ∧ t.addr = 0 ∧ t.info = q.1.once q.2 f.a &&& 0xFFF ∧
         (c.isTreadle = false → t.agent = .weft ∧ t.precise = true ∧ t.wid = c.r.w ∧ t.smask = c.sel) ∧
         exec (i.mk f) s = .next (q.2.takeTrap c.r.g t)
     taken .trap 12 c.sel ∧ ((s.ctx c.dev c.ctx).dbgen = true → taken .brk 13 0))

/-- R142: a `rejoin` that names only threads of its own path, threads of the paths that wait at the same PC and threads that have exited completes:
the path and those that wait there go on as one.  So does a held one that is tried again, by the threads that it named at its issue.  A path that names
another thread is held at the instruction. -/
def Obligations.RejoinMerges : Prop :=
  ∀ (s : State) (f : Fields) (c : Ctx), c.sel ≠ 0 →
    let here := ((c.wf.waiting c.p.pc).filter fun p => !p.mask.getLsbD c.r.t).foldl (fun m p => m ||| p.mask) c.p.mask
    let ends (t : State) (w : Weft) : Prop := exec (.rejoin f) s = .next t ∧ t.weft? c.r.g c.r.w = some w ∧ t.mem = s.mem ∧ ∀ k, w.reg k = c.wf.reg k
    let completes : Prop := ∃ t w, ends t w ∧ ∃ p ∈ w.paths, here &&& ~~~p.mask = 0 ∧ p.pc = c.p.pc + 1 ∧ p.hold = none
    let q := s.issued .rejoin f c
    let named := (q.1.once q.2 f.a).extractLsb' 0 16 &&& ~~~c.wf.exited
    (s.Issues .rejoin f c → named &&& ~~~here = 0 → completes) ∧
    (s.Resumes f c → c.heldAs .rejoin = true → BitVec.ofNat 16 c.arg &&& ~~~c.wf.exited &&& ~~~here = 0 → completes) ∧
    (s.Issues .rejoin f c → (∀ p ∈ c.wf.paths, p = c.p ∨ p.hold = none) → named &&& ~~~c.p.mask ≠ 0 →
      ∃ t w, ends t w ∧ ∃ p ∈ w.paths, p.mask = c.p.mask ∧ p.pc = c.p.pc ∧ p.hold.map (fun h => h.why) = some .rejoin)

/-- R143, R113: `exit` completes: the selected threads have exited and no path of the weft holds one of them; the path's other threads stand at the next
instruction and are held by nothing.  Once all sixteen threads have exited, the weft's register blocks are released.  Memory and registers are untouched.
With no selected thread the path only goes on. -/
def Obligations.ExitEnds : Prop :=
  ∀ (s : State) (f : Fields) (c : Ctx), s.Issues .exit f c →
    (c.sel = 0 → Computes s .exit f c []) ∧
    (c.sel ≠ 0 → ∃ t w, exec (.exit f) s = .next t ∧ t.weft? c.r.g c.r.w = some w ∧ t.mem = s.mem ∧ w.exited = c.wf.exited ||| c.sel ∧
      (∀ p ∈ w.paths, p.mask &&& c.sel = 0) ∧
      (∀ k, c.p.mask.getLsbD k = true → c.sel.getLsbD k = false → ∃ p ∈ w.paths, p.mask.getLsbD k = true ∧ p.pc = c.p.pc + 1 ∧ p.hold = none) ∧
      (w.exited = 0xFFFF → w.held = 0) ∧ (w.exited ≠ 0xFFFF → w.held = c.wf.held) ∧ ∀ k, w.reg k = c.wf.reg k)

/-- R144: `wait` goes on once the four counters are within its limits, a limit of 63 being none, or if no thread is selected, and is held
at its instruction until then; a resumed `wait` is judged anew. -/
def Obligations.WaitGoesOn : Prop :=
  ∀ (s : State) (f : Fields) (c : Ctx),
    let lim (o : Operand) (k : Nat) : Nat := match o with | .imm v => v.toNat / 64 ^ k % 64 | _ => 63
    let within := c.wf.ld ≤ lim f.a 0 ∧ c.wf.st ≤ lim f.a 1 ∧ c.wf.cp ≤ lim f.b 0 ∧ c.wf.tl ≤ lim f.b 1
    let ends (t : State) (pc : Word) (why : Option Why) : Prop := exec (.wait f) s = .next t ∧ t.mem = s.mem ∧
      ∃ w p, t.weft? c.r.g c.r.w = some w ∧ w.path? c.r.t = some p ∧ p.mask = c.p.mask ∧ p.pc = pc ∧ p.hold.map (fun h => h.why) = why ∧ ∀ k, w.reg k = c.wf.reg k
    (s.Issues .wait f c → ∃ t, if c.sel = 0 ∨ within then ends t (c.p.pc + 1) none else ends t c.p.pc (some .wait)) ∧
    (s.Resumes f c → c.sel ≠ 0 → c.heldAs .wait = true → ∃ t, if within then ends t (c.p.pc + 1) none else ends t c.p.pc (some .wait))

/-- R145, R146, R212: `sleep` holds its path for the given number of cycles from its issue and completes after them; `beamwait` completes at once where slot
b mod 16 is not current and its next start is at least w cycles away, is held with its operands otherwise, and traps WAIT_TARGET above its ranges; a `trywait`
acquires and completes with D true where its condition holds, completes with D false where it does not hold at the deadline, and is held as issued between.
Tried again, or at SLEEP_EXPIRY, BEAMWAIT_RELEASE and TRYWAIT_DEADLINE, the held paths go on by the same rules. -/
def Obligations.TimedWaits : Prop :=
  (∀ (s : State) (f : Fields) (c : Ctx), c.sel ≠ 0 →
     let goesOn (u t : State) : Prop := t = u.finishLate c [] ∧ t.mem = s.mem ∧
       ∃ w p, t.weft? c.r.g c.r.w = some w ∧ w.path? c.r.t = some p ∧ p.pc = c.p.pc + 1 ∧ p.hold = none ∧ ∀ k, w.reg k = c.wf.reg k
     (s.Issues .sleep f c →
       let q := s.issued .sleep f c
       let t := q.2.holdP q.1 .sleep (s.clk + (q.1.once q.2 f.a).toNat) 0
       exec (.sleep f) s = .next t ∧ t.mem = s.mem ∧
       ∃ w p, t.weft? c.r.g c.r.w = some w ∧ w.path? c.r.t = some p ∧ p.pc = c.p.pc ∧ p.hold.map (fun h => h.why) = some .sleep ∧ ∀ k, w.reg k = c.wf.reg k) ∧
     (s.Resumes f c → c.heldAs .sleep = true →
       (c.arg ≤ s.clk → ∃ t, exec (.sleep f) s = .next t ∧ goesOn s.ticked t) ∧
       (s.clk < c.arg → exec (.sleep f) s = .next (s.ticked.holdP c .sleep c.arg 0))) ∧
     (s.ctxAt c.r = some c → c.late = none → c.heldAs .sleep = true →
       (c.arg ≤ s.clk → ∃ t, exec (.sleepExpiry c.r) s = .next t ∧ goesOn s t) ∧
       (s.clk < c.arg → exec (.sleepExpiry c.r) s = .next s))) ∧
  (∀ (s : State) (f : Fields) (c : Ctx), c.sel ≠ 0 →
     let far (k w : Nat) : Bool :=
       let slot := s.devClk c.dev / 2048 % 16
       slot != k && decide (w ≤ (k + 16 - slot) % 16 * 2048 - s.devClk c.dev % 2048)
     let goesOn (u t : State) : Prop := t = u.finishLate c [] ∧ t.mem = u.mem ∧
       ∃ w p, t.weft? c.r.g c.r.w = some w ∧ w.path? c.r.t = some p ∧ p.pc = c.p.pc + 1 ∧ p.hold = none
     let k := c.arg % 16
     let w := c.arg / 16
     (s.Issues .beamwait f c →
       let q := s.issued .beamwait f c
       let b := (q.1.once q.2 f.a).toNat
       let w := (q.1.once q.2 f.b).toNat
       (63 < b ∨ 30720 < w → ∃ t : TrapInfo, t.cls = .operand ∧ t.reason = 11 ∧ exec (.beamwait f) s = .next (q.2.takeTrap c.r.g t)) ∧
       (b ≤ 63 → w ≤ 30720 → far (b % 16) w = true → exec (.beamwait f) s = .next (q.2.finishLate q.1 [])) ∧
       (b ≤ 63 → w ≤ 30720 → far (b % 16) w = false → exec (.beamwait f) s = .next (q.2.holdP q.1 .beamwait (b % 16 + 16 * w) 0))) ∧
     (s.Resumes f c → c.heldAs .beamwait = true → far k w = true → ∃ t, exec (.beamwait f) s = .next t ∧ goesOn s.ticked t) ∧
     (s.ctxAt c.r = some c → c.late = none → c.heldAs .beamwait = true →
       (far k w = true → ∃ t, exec (.beamwaitRelease c.r) s = .next t ∧ goesOn s t) ∧
       (far k w = false → exec (.beamwaitRelease c.r) s = .next s))) ∧
  (∀ (s : State) (f : Fields) (c : Ctx), c.sel ≠ 0 →
     let sees (c : Ctx) (s : State) (w : Watch) (x : Word) : Prop :=
       let G := (s.group? c.r.g).getD c.G
       let k := w.src.toNat
       (w.mode = 0 ∧ k ≤ 15 ∧ x = (G.bars.getD k {}).phase) ∨ (w.mode = 1 ∧ k ≤ 63 ∧ x = BitVec.ofNat 32 (bobCode (G.bobs.getD k {}).st))
     let d (c : Ctx) (x : Nat) : List (RegKey × Word) := c.laneWrites f.d fun _ => x
     let tries (c : Ctx) (u : State) (w : Watch) : Prop := ∀ x v, u.observe c w = (.ok (some x), v) →
       (tryTest w.code x w.val = true → exec (.trywait f) s = .next ((v.acquireWatch c w).finishLate c (d c 1))) ∧
       (tryTest w.code x w.val = false → w.due ≤ s.clk → exec (.trywait f) s = .next (v.finishLate c (d c 0))) ∧
       (tryTest w.code x w.val = false → s.clk < w.due → exec (.trywait f) s = .next (((v.writeLate c (d c 0)).holdP c .trywait w.due 0).keepWatch c w))
     (∀ (u : State) (c : Ctx) (w : Watch) (x : Word), sees c u w x → u.observe c w = (.ok (some x), u)) ∧
     (∀ n, f.b = .scalar n → s.Issues .trywait f c →
       let q := s.issued .trywait f c
       let w := q.1.watch q.2 f
       w.mode = modLo2 f.mod ∧ (w.mode ≤ 1 → w.src = (q.1.once q.2 f.a).setWidth 64) ∧ w.code = (f.mod.extractLsb' 2 4).toNat % 8 ∧
       w.val = q.1.s q.2 n.toNat ∧ w.due = s.clk + min (q.1.s q.2 (n.toNat + 1)).toNat (2 ^ 20) ∧ tries q.1 q.2 w) ∧
     (∀ w, s.Resumes f c → (c.hold.bind fun h => h.test) = some w → tries c s.ticked w) ∧
     (∀ w x, s.ctxAt c.r = some c → c.heldAs .trywait = true → (c.hold.bind fun h => h.test) = some w → sees c s w x →
       (c.arg ≤ s.clk → tryTest w.code x w.val = true → exec (.trywaitDeadline c.r) s = .next (((s.acquireWatch c w).tryTrue c).finishLate c [])) ∧
       (c.arg ≤ s.clk → tryTest w.code x w.val = false → exec (.trywaitDeadline c.r) s = .next (s.finishLate c [])) ∧
       (s.clk < c.arg → exec (.trywaitDeadline c.r) s = .next s)))

/-- R127 to R129: INSTR_COMPLETE writes the registers of the outstanding instruction that nothing has written meanwhile, lowers its flag and its
units, and closes it. -/
def Obligations.CompletionWrites : Prop :=
  ∀ (s : State) (g n : Nat) (w : Weft) (o : Out), s.weft? g w.wid = some w → w.wid < treadleWid →
    w.outs.find? (fun x => x.n == n) = some o → (∀ x ∈ o.writes, x.key.ok = true ∧ x.contested = false) →
    ∃ t w', exec (.instrComplete g w.wid n) s = .next t ∧ t.weft? g w.wid = some w' ∧ t.mem = s.mem ∧
      (∀ k, k.ok = true → w'.reg k = match lastWrite (o.writes.map fun x => (x.key, x.val)) k with | some x => k.kept x | none => w.reg k) ∧
      (∀ x ∈ w'.outs, x.n ≠ n) ∧ w'.ld = w.ld - o.ld ∧ w'.st = w.st - o.st ∧ w'.tl = w.tl - o.tl ∧ w'.paths = w.paths ∧
      (∀ k, Sparse.get w'.flags k = if o.setf = k ∧ k < 12 then Sparse.get w.flags k - 1 else Sparse.get w.flags k)

/-- R123, R126 to R129, R136, R302: an issuing instruction raises its SETF flag and its counter units and takes its lane for its passes, and a treadle
raises nothing; a source register that no outstanding instruction writes and that holds no young result is read as it stands.  A path may go
past an instruction of variable latency that has issued: the instruction keeps the registers as they stood, reads each source as it stood then or as it
stands now, and does its work, one thread at each attempt, when it is tried: `ld`, `st` and the window accesses with the result of the thread.
The clauses on an instruction that its path has gone past are the model's choice (assumption log 16). -/
def Obligations.IssueRaises : Prop :=
  (∀ (s : State) (i : Form) (f : Fields) (c : Ctx), s.Issues i f c →
     let q := s.issued i f c
     let u := formUnits i c.sel
     (c.isTreadle = true → q.1 = c ∧ q.2 = s.ticked) ∧
     (c.isTreadle = false → ∃ w, q.2.weft? c.r.g c.r.w = some w ∧
       w.ld = c.wf.ld + u.1 ∧ w.st = c.wf.st + u.2.1 ∧ w.cp = c.wf.cp + u.2.2.1 ∧ w.tl = c.wf.tl + u.2.2.2 ∧
       (∀ k, Sparse.get w.flags k = if f.setf.toNat = k ∧ k < 12 then Sparse.get c.wf.flags k + 1 else Sparse.get c.wf.flags k) ∧
       ((q.2.core c.dev c.core).lane c.wf.lane).free = s.clk + formPasses i f c.sel ∧ q.2.mem = s.mem)) ∧
  (let settled (c : Ctx) (k : RegKey) : Prop := (∀ o ∈ c.wf.outs, ∀ x ∈ o.writes, x.key ≠ k) ∧ ∀ y ∈ c.young, y.key ≠ k
   let old (l : Late) : Weft := { wid := 0, v := l.v, s := l.s, p := l.p }
   (∀ (s : State) (c : Ctx) (k : RegKey), c.late = none → settled c k → c.reg s k = c.wf.reg k) ∧
   (∀ (s : State) (c : Ctx) (l : Late) (k : RegKey), c.late = some l → settled c k → c.reg s k = (old l).reg k ∨ c.reg s k = c.wf.reg k) ∧
   (∀ (s u : State) (i : Form) (f : Fields) (c : Ctx), s.Issues i f c → c.sel ≠ 0 → c.isTreadle = false → c.defers i = true →
     exec (i.mk f) s = .next u → u.goesOn c.r = true →
     let v := s.ticked.adopt u
     let n := (v.raise i f c).1.out
     (v.weft? c.r.g c.r.w).isSome = true →
     ∃ t w l, s.deferWord i f = some t ∧ t.weft? c.r.g c.r.w = some w ∧ Frame v t c ∧ w.late = c.wf.late ++ [l] ∧ l.n = n ∧ l.form = i ∧ l.f = f ∧
       l.path.mask = c.p.mask ∧ l.path.pc = c.p.pc ∧ l.hold = { why := .late, out := n, sel := c.sel } ∧
       (w.path? c.r.t).map (fun p => (p.pc, p.hold)) = some (c.p.pc + 1, none) ∧ ∀ k, w.reg k = c.wf.reg k ∧ (old l).reg k = c.wf.reg k) ∧
   (∀ (s : State) (f : Fields) (c : Ctx) (l : Late), s.issuing f = some c → c.late = some l → c.heldAs .late = true → c.sel ≠ 0 →
     let ends (i : Form) (level : Nat) (one : State → Nat → Thr × State) : Prop :=
       ∀ t rest ws u, c.todo f = t :: rest → performs one [t] (s.ticked.orderNow c f level) = some (ws, u) →
         exec (i.mk f) s = .next (if rest = [] then u.finishLate c ws else (u.writeLate c ws).holdP c .late 0 (c.done ||| bitMask t))
     let a := Sys2Proof.Machine.sizeOf (operandSub f.a)
     let d := Sys2Proof.Machine.sizeOf (operandSub f.d)
     ends .ld (relLevel f) (fun s t => s.loadThread c f a.1 a.2 t) ∧ ends .lds (relLevel f) (fun s t => s.ldsThread c f a.1 a.2 t) ∧
     ends .st (relLevel f) (fun s t => s.storeThread c f d.1 d.2 t) ∧ ends .sts (min 1 (relLevel f)) (fun s t => s.stsThread c f d.1 d.2 t)) ∧
   (∀ (s : State) (c : Ctx) (w : Weft) (n : Nat), s.weft? c.r.g c.r.w = some w → c.r.t = 16 + n →
     ∃ x, (s.advance c).weft? c.r.g c.r.w = some x ∧ x.late = w.late.filter (fun l => l.n != n) ∧ x.paths = w.paths ∧ ∀ k, x.reg k = w.reg k))

/-- R406: `svc` saves the return PC, the segment and the code, and the weft runs the supervisor segment in supervisor mode at PC A; `eret` takes it
back to the saved segment and PC in user mode. -/
def Obligations.SupervisorEntry : Prop :=
  ∀ (s : State) (f : Fields) (c : Ctx), c.sel ≠ 0 → c.isTreadle = false → c.p.mask ||| c.wf.exited = 0xFFFF →
    (s.Issues .svc f c → c.wf.priv = false →
      let q := s.issued .svc f c
      let code := q.1.once q.2 f.a &&& 0xFFF
      ∃ t w, exec (.svc f) s = .next t ∧ t.weft? c.r.g c.r.w = some w ∧ t.mem = s.mem ∧ t.ctxs = s.ctxs ∧
        w.epc = c.p.pc + 1 ∧ w.eseg = c.wf.seg ∧ w.ecode = code ∧ w.priv = true ∧ w.seg = (s.ctx c.dev c.ctx).svcbase ∧
        (∀ p ∈ w.paths, p.pc = code ∧ p.hold = none) ∧ ∀ k, w.reg k = c.wf.reg k) ∧
    (s.Issues .eret f c →
      ∃ t w, exec (.eret f) s = .next t ∧ t.weft? c.r.g c.r.w = some w ∧ t.mem = s.mem ∧ t.ctxs = s.ctxs ∧
        w.priv = false ∧ w.seg = c.wf.eseg ∧ (∀ p ∈ w.paths, p.pc = c.wf.epc ∧ p.hold = none) ∧ ∀ k, w.reg k = c.wf.reg k)

/-! ## Traps (R90, R393, R396) -/

/-- R90, R393, R396: taking a trap kills the group and every group of its unit, counts the fault, and follows the region's POLICY: `contain` fails
the node, and `relaunch` in a region with IDEMPOTENT in effect queues every group of the unit again, with its index and one more relaunch counted; where the dobby meets no page without a translation meanwhile (R399). -/
def Obligations.TrapTaken : Prop :=
  ∀ (s : State) (g : Nat) (t : TrapInfo) (G : Group) (R : Region), s.group? g = some G → s.region? G.rid = some R →
    let u := s.takeTrap g t
    u.dfault = none →
    let killed := (s.unitOf G).filterMap s.group?
    let again := R.policy = 2 ∧ R.idem = true ∧ s.modeBit R.dev R.ctx 4 = false ∧ R.killed = false ∧ ∀ H ∈ killed, H.relaunched < 3 ∧ H.copy = false
    g ∈ s.unitOf G ∧ (∀ h ∈ s.unitOf G, u.group? h = none) ∧
    (R.policy ≠ 1 → R.seen = true → ∃ Q, u.region? G.rid = some Q ∧ Q.nfault = min 65535 (R.nfault + 1)) ∧
    (R.policy ≠ 1 → ¬again → ∀ N, u.node? G.rid G.node = some N → N.failed = true) ∧
    (again → ∀ H ∈ killed, ∀ Q, u.region? H.rid = some Q → ∃ W ∈ Q.queue, W.node = H.node ∧ W.gid = H.gid ∧ W.age = H.age ∧ W.tries = H.relaunched + 1)

/-! ## Memory (R190 to R212, R278 to R283, R333 to R351)

Each of these instructions performs its threads one after another; what one thread does is a function of its own (`State.loadThread` and so on). -/

/-- R205 to R211, R281 to R283, R335 to R337, R344 to R351: when every accessing thread of a memory instruction is performed, the instruction ends its issue
with the threads' results, after what its order puts before them (`sts`: at group scope alone); `acctag` takes the operators of R54 below 12 and traps ACCRUE_OP
on others; a prefetch and `cop.demote` only translate, `cop.clean` and `cop.flush` take what is pending for the reached lines to their homes, and where nothing is
pending none of them changes a byte. -/
def Obligations.MemoryCompletes : Prop :=
  (∀ (s : State) (f : Fields) (c : Ctx), c.sel ≠ 0 →
     let endsFrom (start : Ctx → State → State) (i : Form) (one : Ctx → State → Nat → Thr × State) : Prop := s.Issues i f c →
       let q := s.issued i f c
       ∀ ws u, performs (one q.1) (accessing f c.sel) (start q.1 q.2) = some (ws, u) → exec (i.mk f) s = .next (u.finishLate q.1 ws)
     let endsAt (level : Nat) := endsFrom fun c s => s.orderNow c f level
     let ends := endsAt (relLevel f)
     let deposits (c : Ctx) (s : State) : State := if modOrder f.mod = 2 then s else s.orderNow c f (relLevel f)
     let a := Sys2Proof.Machine.sizeOf (operandSub f.a)
     let d := Sys2Proof.Machine.sizeOf (operandSub f.d)
     ends .ld (fun c s t => s.loadThread c f a.1 a.2 t) ∧ ends .st (fun c s t => s.storeThread c f d.1 d.2 t) ∧
     ends .lds (fun c s t => s.ldsThread c f a.1 a.2 t) ∧ endsAt (min 1 (relLevel f)) .sts (fun c s t => s.stsThread c f d.1 d.2 t) ∧
     ends .ldb (fun c s t => s.ldbThread c f a.1 a.2 t) ∧ ends .ldsel (fun c s t => s.ldselThread c f t) ∧
     ends .copZero (fun c s t => s.zeroThread c f t) ∧
     ends .atom (fun c s t => s.atomThread c f (opOf f.a) (opOf f.a).bytes 1 t) ∧
     ends .atomv (fun c s t => s.atomThread c f (opOf f.a) 32 (32 / (opOf f.a).bytes) t) ∧
     ends .red (fun c s t => s.redThread c f (opOf f.d) (opOf f.d).bytes 1 t) ∧
     ends .redv (fun c s t => s.redThread c f (opOf f.d) 32 (32 / (opOf f.d).bytes) t) ∧
     ends .cas (fun c s t => s.casThread c f (if operandSub f.a == 0 then 4 else 8) t) ∧
     endsFrom deposits .accr (fun c s t => s.accrThread c f (opOf f.d) t) ∧ ends .accflush (fun c s t => s.accflushThread c f t) ∧
     ends .ldf (fun c s t => s.ldfThread c f t) ∧ ends .adst (fun c s t => s.adstThread c f t) ∧ ends .adld (fun c s t => s.adldThread c f t) ∧
     ends .adforce (fun c s t => s.adforceThread c f t) ∧ ends .adpeek (fun c s t => s.adpeekThread c f t) ∧
     ends .usecnt (fun c s t => s.usecntThread c f t) ∧ ends .useadj (fun c s t => s.useadjThread c f t)) ∧
  (∀ (s : State) (f : Fields) (c : Ctx), c.sel ≠ 0 → s.Issues .acctag f c →
     let q := s.issued .acctag f c
     let op := (q.1.once q.2 f.a).toNat
     (11 < op → ∃ t : TrapInfo, t.cls = .operand ∧ t.reason = 24 ∧ t.pmask = 0 ∧ exec (.acctag f) s = .next (q.2.takeTrap c.r.g t)) ∧
     (op ≤ 11 → ∀ ws u, performs (fun s t => s.acctagThread q.1 f (memOpOf op) t) (accessing f c.sel) (q.2.orderNow q.1 f (relLevel f)) = some (ws, u) →
       exec (.acctag f) s = .next (u.finishLate q.1 ws))) ∧
  (∀ x ∈ [(Form.pf, fun _ s _ => s), (.copDemote, fun _ s _ => s), (.copClean, fun c s a => State.cleanLine s c a), (.copFlush, fun c s a => State.flushLine s c a)],
     ∀ (s : State) (f : Fields) (c : Ctx), s.Issues x.1 f c →
     let q := s.issued x.1 f c
     exec (x.1.mk f) s = .next ((q.2.peekAll q.1 f (x.2 q.1)).finish x.1 q.1 []) ∧
     (s.lines = [] → s.reqs = [] → (∀ k ∈ s.cores, k.queue = []) →
       ∃ t w, exec (x.1.mk f) s = .next t ∧ t.weft? c.r.g c.r.w = some w ∧ Ends x.1 c [] q.1.out w ∧ t.mem = s.mem ∧ t.lines = s.lines ∧
         t.ctxs = s.ctxs ∧ t.regions = s.regions))

/-- R205, R393, R399: the first thread that cannot be performed stops the instruction: a trap keeps the threads before it as its performed mask,
a translation fault holds the path with them, and what they have read is not lost. -/
def Obligations.MemoryStops : Prop :=
  ∀ (s : State) (f : Fields) (c : Ctx), c.sel ≠ 0 →
    let stopsFrom (start : Ctx → State → State) (i : Form) (one : Ctx → State → Nat → Thr × State) : Prop := s.Issues i f c →
      let q := s.issued i f c
      ∀ pre t post ws u v, accessing f c.sel = pre ++ t :: post → performs (one q.1) pre (start q.1 q.2) = some (ws, u) →
        (∀ cls reason va info, one q.1 u t = (.stop (.trap cls reason va info), v) → exec (i.mk f) s = .next (v.trap q.1 cls reason (maskOf pre) va info)) ∧
        (∀ va access reason, one q.1 u t = (.stop (.stall va access reason), v) →
          exec (i.mk f) s = .next ((v.writeLate q.1 ws).stall q.1 va access reason (maskOf pre)))
    let stopsAt (level : Nat) := stopsFrom fun c s => s.orderNow c f level
    let stops := stopsAt (relLevel f)
    let deposits (c : Ctx) (s : State) : State := if modOrder f.mod = 2 then s else s.orderNow c f (relLevel f)
    let a := Sys2Proof.Machine.sizeOf (operandSub f.a)
    let d := Sys2Proof.Machine.sizeOf (operandSub f.d)
    stops .ld (fun c s t => s.loadThread c f a.1 a.2 t) ∧ stops .st (fun c s t => s.storeThread c f d.1 d.2 t) ∧
    stops .lds (fun c s t => s.ldsThread c f a.1 a.2 t) ∧ stopsAt (min 1 (relLevel f)) .sts (fun c s t => s.stsThread c f d.1 d.2 t) ∧
    stops .ldb (fun c s t => s.ldbThread c f a.1 a.2 t) ∧ stops .ldsel (fun c s t => s.ldselThread c f t) ∧
    stops .atom (fun c s t => s.atomThread c f (opOf f.a) (opOf f.a).bytes 1 t) ∧
    stops .red (fun c s t => s.redThread c f (opOf f.d) (opOf f.d).bytes 1 t) ∧
    stopsFrom deposits .accr (fun c s t => s.accrThread c f (opOf f.d) t) ∧ stops .ldf (fun c s t => s.ldfThread c f t)

/-- R125, R127: what ends the issue of a variable-latency instruction: its path goes on, its outstanding record holds its results, no register has
changed, and its completion is due. -/
def Obligations.LateResults : Prop :=
  ∀ (u : State) (c : Ctx) (w : Weft) (ws : List (RegKey × Word)), c.isTreadle = false → u.weft? c.r.g c.r.w = some w →
    (∃ o ∈ w.outs, o.n = c.out ∧ o.writes = []) → (∀ x ∈ ws, x.1.ok = true) →
    let t := u.finishLate c ws
    t.mem = u.mem ∧ t.agenda = u.agenda ++ [(u.clk, .instrComplete c.r.g c.r.w c.out)] ∧ Frame u t c ∧
    ∃ x, t.weft? c.r.g c.r.w = some x ∧ (∀ k, x.reg k = w.reg k) ∧
      (x.path? c.r.t).map (fun p => (p.pc, p.hold)) = (w.path? c.r.t).map (fun p => (p.pc + 1, none)) ∧
      ∃ o ∈ x.outs, o.n = c.out ∧ ∀ k, (o.writes.find? fun y => y.key == k).map (fun y => y.val) = lastWrite ws k

/-- R205: the checks of an access of one unscaled element, in their order. -/
def Obligations.AccessChecks : Prop :=
  ∀ (s : State) (c : Ctx) (q : Query) (x : DWord) (k : Nat), q.n = 1 → 0 < q.z →
    let stops (r : Except Stop (List Elem) × State) (e : Stop) : Prop := ∃ s1, r = (.error e, s1)
    let r := s.checkElems c q x (k + 1)
    (canonical x = false → stops r (.trap .memoryAccess 1 x 0)) ∧
    (canonical x = true → x.toNat % q.z ≠ 0 ∨ x.toNat % q.align ≠ 0 → stops r (.trap .memoryAccess 2 x 0)) ∧
    (canonical x = true → x.toNat % q.z = 0 → x.toNat % q.align = 0 →
      (∀ e, (s.translate c.dev c.ctx x).1 = .error e → stops r (.stall x q.code e)) ∧
      ∀ y, (s.translate c.dev c.ctx x).1 = .ok y → scaledFor q.raw y = false →
        let p := y.pte
        let sup := pteSup p && !c.priv
        let perm := sup || (q.read && !pteR p) || (q.write && !pteW p)
        let fmt := !q.raw && pteFmt p != 0 && !q.pair (pteFmt p)
        (sup = true → stops r (.trap .memoryAccess 6 x 0)) ∧
        (sup = false → q.read = true → pteR p = false → stops r (.trap .memoryAccess 3 x 0)) ∧
        (sup = false → ¬(q.read = true ∧ pteR p = false) → q.write = true → pteW p = false → stops r (.trap .memoryAccess 4 x 0)) ∧
        (perm = false → q.accrue = true → pteAccrue p = false → stops r (.trap .memoryAccess 16 x 0)) ∧
        (perm = false → (q.accrue && !pteAccrue p) = false → fmt = true → stops r (.trap .memoryAccess 7 x 0)) ∧
        (perm = false → (q.accrue && !pteAccrue p) = false → fmt = false → (s.translate c.dev c.ctx x).2.unmapped y.pa = true →
          stops r (.trap .memoryAccess 9 x 0)) ∧
        (perm = false → (q.accrue && !pteAccrue p) = false → fmt = false → (s.translate c.dev c.ctx x).2.unmapped y.pa = false →
          pteA p = true → (q.write = true → pteD p = true) → r = (.ok [{ va := x, x := y }], (s.translate c.dev c.ctx x).2)))

/-- R309: a core reads the home's bytes of a line that nothing is pending for, and its own accepted store before any other agent does. -/
def Obligations.CoreReads : Prop :=
  ∀ (s : State) (d n pa : Nat) (bs : List Byte) (u : QUser),
    devOf pa = d → mmioOff pa = none → pa % 128 + bs.length ≤ 128 →
    (s.line (lineOf pa)).st ≠ .a → (s.line (lineOf pa)).recs = [] → s.reqs = [] → (s.core d n).queue.length < 64 →
    (∀ e ∈ (s.core d n).queue, e.line ≠ lineOf pa) →
    s.readBytes d n pa bs.length = (s.bytes pa bs.length, s) ∧
    let t := s.enqueue d n (lineOf pa) (.bytes (pa % 128) bs) u 0
    (t.readBytes d n pa bs.length).1 = bs ∧ t.mem = s.mem

/-- R200, R201, R206, R207: the window accesses of every size: inside the window and aligned, a load yields the window's bytes, a store changes no byte of
memory but its own, and a one-element store puts its value there; the read-only HEAD word of the command ring stays (R8, R217).  Outside the window the access
traps SPAD_RANGE, misaligned ALIGN.  `ldb` reads the Beam under its checks: the 2 GiB bound, the region's BEAM flag, alignment (that the flag is tested
before the alignment is the model's choice, assumption log 98). -/
def Obligations.WindowAccess : Prop :=
  (∀ (s : State) (c : Ctx) (f : Fields) (sub t : Nat), sub ≤ 4 →
     let z := 2 ^ sub
     let w := max 1 (z / 4)
     let n := (blockElems f w).length
     let x (o : Operand) : Nat := (c.addr s o (offsetOf f.b) t).toNat % 2 ^ 32
     let inside (o : Operand) : Prop := x o + n * z ≤ c.G.spadsz
     let at_ (o : Operand) (k : Nat) : Nat := c.G.spadAddr (x o + k)
     let written (b : Nat) : Prop := c.G.headByte (x f.d + b) = false
     (inside f.a → x f.a % z = 0 → s.ldsThread c f z w t = (.ok (elemWrites f w (c.targets f t)
       ((List.range n).map fun e => (List.range w).map fun j => BitVec.ofNat 32 (leNat ((List.range z).map fun b => s.byte (at_ f.a (e * z + b))) / 2 ^ (32 * j)))), s)) ∧
     (¬inside f.a → s.ldsThread c f z w t = (.stop (.trap .memoryAccess 10 (BitVec.ofNat 64 (x f.a)) 0), s)) ∧
     (inside f.a → x f.a % z ≠ 0 → s.ldsThread c f z w t = (.stop (.trap .memoryAccess 2 (BitVec.ofNat 64 (x f.a)) 0), s)) ∧
     (¬inside f.d → s.stsThread c f z w t = (.stop (.trap .memoryAccess 10 (BitVec.ofNat 64 (x f.d)) 0), s)) ∧
     (inside f.d → x f.d % z ≠ 0 → s.stsThread c f z w t = (.stop (.trap .memoryAccess 2 (BitVec.ofNat 64 (x f.d)) 0), s)) ∧
     (Memory.wf s.mem = true → inside f.d → x f.d % z = 0 →
       ∃ u, s.stsThread c f z w t = (.ok [], u) ∧
         (∀ a, (∀ b, b < n * z → written b → a ≠ at_ f.d b) → u.byte a = s.byte a) ∧
         (blockElems f w = [(0, 0)] → ∀ b, b < z → written b → u.byte (at_ f.d b) = BitVec.ofNat 8 (c.elem s .int w f.a t 0 0 / 2 ^ (8 * b))))) ∧
  (∀ (s : State) (c : Ctx) (f : Fields) (z w t : Nat), 0 < z →
     let x := c.addr s f.a (offsetOf f.b) t
     let n := (blockElems f w).length
     let out := ∃ k, k < n ∧ 2 ^ 31 ≤ (x + BitVec.ofNat 64 (k * z)).toNat
     (out → s.ldbThread c f z w t = (.stop (.trap .memoryAccess 11 x 0), s)) ∧
     (¬out → c.R.beam = false → s.ldbThread c f z w t = (.stop (.trap .memoryAccess 12 x 0), s)) ∧
     (¬out → c.R.beam = true → x.toNat % z ≠ 0 → s.ldbThread c f z w t = (.stop (.trap .memoryAccess 2 x 0), s)) ∧
     (¬out → c.R.beam = true → x.toNat % z = 0 → s.poison = [] →
       s.ldbThread c f z w t = (.ok (elemWrites f w (c.targets f t) ((List.range n).map fun k =>
         (List.range w).map fun j => BitVec.ofNat 32 (leNat (s.bytes (c.dev * 2 ^ 44 + 2 ^ 42 + x.toNat + k * z) z) / 2 ^ (32 * j)))), s)))

/-- R54, R276, R277, R280, R281, R283: at bytes of the core's own device with nothing pending, an atomic read-modify-write answers the old element and stores
the new one, and no other byte of memory changes.  An atomic's new element is the operator's result of the old one and the operand, or, where it deposits under
DET, its answer is the old element; the thread of an `atom` writes the old element to its destination.  The thread of a `cas` writes the old element and whether
it equals the first half of B, bit by bit, and only then is the second half of B stored.  And what each integer operator makes of the memory element and the operand. -/
def Obligations.ReadModifyWrite : Prop :=
  (∀ (s : State) (c : Ctx) (f : Fields) (pa : Nat), devOf pa = c.dev → mmioOff pa = none → modOrder f.mod ≠ 3 → Memory.wf s.mem = true →
     (s.line (lineOf pa)).st ≠ .a → (s.line (lineOf pa)).recs = [] → s.reqs = [] → (s.core c.dev c.core).queue = [] → (s.core c.dev c.core).fenced = 0 →
     let stored (u : State) (z new : Nat) : Prop := u.bytes pa z = leBytes z new ∧ ∀ a, (a < pa ∨ pa + z ≤ a) → u.byte a = s.byte a
     let old (z : Nat) : Nat := leNat (s.bytes pa z)
     (∀ (z : Nat) (g : Nat → Option Nat),
       let r := s.rmw c f pa z g
       r.1 = old z ∧ (g (old z) = none → r.2 = s) ∧ ∀ v, g (old z) = some v → stored r.2 z v) ∧
     (∀ (op : MemOp) (v : Nat),
       let r := s.atomElem c f op false pa v
       r.1 = old op.bytes ∧ stored r.2 op.bytes (op.apply (old op.bytes) v) ∧ (s.atomElem c f op true pa v).1 = old op.bytes) ∧
     (s.poison = [] → ∀ (q : State) (e : Elem) (t : Nat), e.x.pa = pa →
       (∀ op : MemOp, (c.R.det && op.exact) = false →
         q.checkAccess c (atomQuery f op op.bytes 1 false) (c.addr q f.a 0 t) = (.ok [e], s) →
         ∃ u, q.atomThread c f op op.bytes 1 t = (.ok (elemWrites f op.cols (c.targets f t) [rawWords op.cols (leBytes op.bytes (old op.bytes))]), u) ∧
           stored u op.bytes (op.apply (old op.bytes) (c.vecElem s op f.b t 0 ((blockElems f op.cols).getD 0 (0, 0))))) ∧
       (∀ z, (z = 4 ∨ z = 8) → q.checkAccess c (casQuery f z) (c.addr q f.a 0 t) = (.ok [e], s) →
         let b := c.elem s .int (z / 2) f.b t 0 0
         let hit := old z = b % 2 ^ (8 * z)
         ∃ u, q.casThread c f z t = (.ok (elemWrites f (z / 2) (c.targets f t)
             [rawWords (z / 4) (leBytes z (old z)) ++ (if hit then 1 else 0) :: if z = 8 then [0] else []]), u) ∧
           (hit → stored u z (b / 2 ^ (8 * z))) ∧ (¬hit → u = s)))) ∧
  (∀ (x y : BitVec 32) (a b : BitVec 64),
     MemOp.addI32.apply x.toNat y.toNat = (x + y).toNat ∧ MemOp.addI64.apply a.toNat b.toNat = (a + b).toNat ∧
     MemOp.minI32.apply x.toNat y.toNat = (if y.slt x then y else x).toNat ∧ MemOp.maxI32.apply x.toNat y.toNat = (if x.slt y then y else x).toNat ∧
     MemOp.minN32.apply x.toNat y.toNat = (if y.ult x then y else x).toNat ∧ MemOp.maxN32.apply x.toNat y.toNat = (if x.ult y then y else x).toNat ∧
     MemOp.orB32.apply x.toNat y.toNat = (x ||| y).toNat ∧ MemOp.andB32.apply x.toNat y.toNat = (x &&& y).toNat ∧
     MemOp.xorB32.apply x.toNat y.toNat = (x ^^^ y).toNat ∧ MemOp.exchB32.apply x.toNat y.toNat = y.toNat ∧ MemOp.exchB64.apply a.toNat b.toNat = b.toNat)

/-- R191, R193 to R195, R391, R397: the walk of an address that no TLB holds, over lines without a release record or an Accrue episode, level by
level: it ends at the first entry with V = 0 (NOT_PRESENT), the first invalid entry (ENTRY_INVALID) or the first leaf, whose frame takes the low bits of
the address.  Before an access the leaf gets A, and D for a write, if it still is the entry in use, and no other byte of memory changes. -/
def Obligations.TranslationWalk : Prop :=
  (∀ (s : State) (d c : Nat) (x : DWord), s.tlbHit d c x = none → (∀ a, (s.line a).st ≠ .a ∧ (s.line a).recs = []) →
    let r := (s.translate d c x).1
    let e0 := s.entry ((s.ctx d c).ptbase.toNat + 8 * (x.extractLsb' 42 13).toNat)
    let e1 := s.entry (pteFrame e0 + 8 * (x.extractLsb' 29 13).toNat)
    let e2 := s.entry (pteFrame e1 + 8 * (x.extractLsb' 16 13).toNat)
    let ends (level : Nat) (e : DWord) (bits : Nat) : Prop :=
      (pteV e = false → r = .error 1) ∧ (pteV e = true → pteInvalid level e = true → r = .error 2) ∧
      (pteV e = true → pteInvalid level e = false → pteLeaf e = true →
        (fmtLegal (pteFmt e) (pteGeom e) = false → r = .error 3) ∧
        (fmtLegal (pteFmt e) (pteGeom e) = true → ∃ y, r = .ok y ∧ y.pte = e ∧ y.pa = pteFrame e + x.toNat % 2 ^ bits))
    let goes (level : Nat) (e : DWord) : Prop := pteV e = true ∧ pteInvalid level e = false ∧ pteLeaf e = false
    ends 0 e0 42 ∧ (goes 0 e0 → ends 1 e1 29) ∧ (goes 0 e0 → goes 1 e1 → ends 2 e2 16 ∧ (pteV e2 = true → pteLeaf e2 = false → r = .error 2)) ∧
    (s.translate d c x).2.mem = s.mem) ∧
  ∀ (s : State) (d c : Nat) (x : Xlat) (write : Bool), Memory.wf s.mem = true → (s.line (lineOf x.at_)).st ≠ .a → (s.line (lineOf x.at_)).recs = [] →
    let r := s.touch d c x write
    (s.refused d c x.at_ = true → r.2.mem = s.mem) ∧
    (s.refused d c x.at_ = false → s.entry x.at_ = x.pte → pteV x.pte = true → pteLeaf x.pte = true →
      r.1 = true ∧ r.2.entry x.at_ = x.pte ||| 0x80 ||| (if write then 0x100 else 0) ∧ ∀ a, (a < x.at_ ∨ x.at_ + 8 ≤ a) → r.2.byte a = s.byte a) ∧
    (s.refused d c x.at_ = false → (pteA x.pte = false ∨ (write = true ∧ pteD x.pte = false)) →
      pteV (s.entry x.at_) = false ∨ pteLeaf (s.entry x.at_) = false ∨ pteFrame (s.entry x.at_) ≠ pteFrame x.pte →
      r.1 = false ∧ r.2.mem = s.mem ∧ ∀ t ∈ r.2.tlb, ¬(t.dev = d ∧ t.ctx = c ∧ t.at_ = x.at_))

/-! ## Special registers and privilege (R48, R55, R56, R109, R189, R236) -/

/-- R189, R217 and the tables of the special registers: `wrsr` writes the special registers that D names, thread after thread: reserved and read-only bits keep
their value, a one clears a sticky bit, and NENT - 1 of `%ringcfg` below 3 reads as 3.  Every other special register, memory and the registers of the weft are as before.  A value of `%ringcfg` that its checks refuse traps. -/
def Obligations.SpecialWrites : Prop :=
  ∀ (s : State) (f : Fields) (c : Ctx) (n : BitVec 10), s.Issues .wrsr f c → c.sel ≠ 0 → f.d = .special n →
    let q := s.issued .wrsr f c
    let pair := modHi f.mod == 7
    let ts := if f.u then [lowThread c.sel] else threadsOf c.sel
    let val (t : Nat) : Nat := q.1.elem q.2 .int (if pair then 2 else 1) f.a t 0 0
    let ws : List (Nat × Word) := ts.flatMap fun t =>
      (n.toNat, BitVec.ofNat 32 (val t)) :: if pair then [(n.toNat + 1, BitVec.ofNat 32 (val t / 2 ^ 32))] else []
    let new (k : Nat) (old x : Word) : Word := match k with
      | 0x010 | 0x011 | 0x01B | 0x01C | 0x01E | 0x106 | 0x107 | 0x108 | 0x109 | 0x10B | 0x10D | 0x110 => x
      | 0x017 => ringNorm x
      | 0x019 => old &&& ~~~(x &&& 2)
      | 0x01A => old &&& ~~~(x &&& 3)
      | 0x01D => x &&& 0xFFFFFFF0
      | 0x01F => old &&& ~~~(x &&& 1)
      | 0x100 => x &&& 1
      | 0x101 => x &&& 0xFFFF0000
      | 0x102 => x &&& 0x00FFFFFF
      | 0x104 => x &&& 0xFFC00000
      | 0x105 => x &&& 0x007FFFFF
      | 0x10A => old &&& ~~~(x &&& 0x100)
      | 0x10C | 0x10F => x &&& 0xFFFFF000
      | _ => old
    ((∀ x ∈ ws, x.1 = 0x017 → c.G.ringCheck x.2 = none) →
      ∃ t w, exec (.wrsr f) s = .next t ∧ t.weft? c.r.g c.r.w = some w ∧ t.mem = s.mem ∧ (∀ k, w.reg k = c.wf.reg k) ∧
        (w.path? c.r.t).map (fun p => (p.pc, p.hold)) = some (c.p.pc + 1, none) ∧
        ∀ k, t.special c k 0 = (ws.filter fun x => x.1 == k).foldl (fun old x => new k old x.2) (s.special c k 0)) ∧
    (∀ reason, (ws.filter fun x => x.1 == 0x017).findSome? (fun x => c.G.ringCheck x.2) = some reason →
      exec (.wrsr f) s = .next (q.2.trap q.1 .operand reason))

/-- R56, R109, R236: before a word issues, a treadle traps TREADLE_FORBIDDEN on one outside its list, a privileged word or register traps PRIVILEGE in user
mode, and a vector register above the blocks that the weft holds traps REG_UNACQUIRED; a fetched word that fails a check of its encoding traps
ILLEGAL_INSTRUCTION with that check's reason, or TREADLE_FORBIDDEN in a treadle's stream.  Nothing of the word is executed.  That a treadle's undecodable word
traps TREADLE_FORBIDDEN is the model's choice (assumption log 43). -/
def Obligations.EarlyTraps : Prop :=
  (∀ (s : State) (i : Form) (f : Fields) (c : Ctx), s.issuing f = some c → c.hold = none → s.ready i f c = true →
     let traps (cls : TrapClass) (reason : Nat) : Prop := ∃ t : TrapInfo, t.cls = cls ∧ t.reason = reason ∧ t.pc = c.p.pc ∧ t.pmask = 0 ∧
       exec (i.mk f) s = .next (s.ticked.takeTrap c.r.g t)
     let runs := c.isTreadle = true → treadleWord (c.r.w == clusterWid) i f = true
     let high (o : Operand) : Prop := ∃ n, o = .special n ∧ 0x100 ≤ n.toNat
     (¬runs → traps .tile 4) ∧
     (runs → c.wf.priv = false → i ∈ [Form.tlbiAll, .tlbiCtx, .tlbiPage, .replay, .replayAll, .rdflt, .eret, .ctxsv] → traps .privilege 9) ∧
     (runs → c.wf.priv = false → high f.a ∨ high f.b ∨ high f.d → traps .privilege 9) ∧
     (runs → ∀ n, f.d = .special n → specialWritable c.wf.priv n.toNat = false → traps .privilege 9) ∧
     (runs → c.allowed i f = true → 64 * (c.wf.held + 1) ≤ max (topReg f f.d) (max (topReg f f.a) (topReg f f.b)) → traps .operand 1)) ∧
  (∀ (s s1 s2 : State) (r : PathRef) (c : Ctx) (w : InstrWord) (e : Illegal),
     let s0 : State := { s with sched := s.sched.tail, rr := s.rr + 1 }
     ((∃ d k l, s.nextMove = .pick d k l ∧ s0.pickLane d k l = some (r, s1)) ∨ (s.nextMove = .path r ∧ s1 = s0 ∧ c.late = none ∧ c.refetches = false)) →
     s1.ctxAt r = some c → s1.fetch c = (.ok w, s2) → decodeWord w = .error e →
     ∃ t : TrapInfo, (if c.isTreadle then t.cls = .tile ∧ t.reason = 4 else t.cls = .illegalInstruction ∧ t.reason = e.code) ∧ t.pc = c.p.pc ∧ t.pmask = 0 ∧
       StepsTo s (s2.takeTrap r.g t))

/-! ## Bobbins and commands (R217, R228 to R232, R269 to R275) -/

/-- R225, R229 to R231: the bobbin instructions.  A number above 63 traps; `bwait` goes on in the state it names, at once or when it is tried again, and is held otherwise; `bset` sets
FREE or FULL; `bexp` makes the bobbin FREE with a new offset and count; `bstat` reads state and remaining count. -/
def Obligations.BobbinWords : Prop :=
  let n (f : Fields) (c : Ctx) (s : State) : Nat := (c.once s f.a).toNat
  let B (f : Fields) (c : Ctx) (s : State) : Bobbin := (s.groupNow c).bobs.getD (n f c s) {}
  let arg (f : Fields) (c : Ctx) (s : State) : DWord := c.val64 s f.b (lowThread c.sel)
  let fits (f : Fields) (c : Ctx) (s : State) : Prop := (loWord (arg f c s)).toNat + (hiWord (arg f c s)).toNat ≤ (s.groupNow c).spadsz
  (∀ i ∈ [Form.bwait, .bset, .bexp, .bstat], Does i (fun f c s => 63 < n f c s) fun _ c s => s.trap c .operand 11) ∧
  (∀ i ∈ [Form.bwait, .bset], Does i (fun f c s => n f c s ≤ 63 ∧ (B f c s).st = .faulted) fun f c s =>
    s.trap c .bobbin (if (B f c s).overrun then 1 else 2)) ∧
  Does .bwait (fun f c s => n f c s ≤ 63 ∧ (B f c s).st ≠ .faulted ∧ (B f c s).st = bobStateOf f) (fun _ c s => s.finishLate c []) ∧
  Does .bwait (fun f c s => n f c s ≤ 63 ∧ (B f c s).st ≠ .faulted ∧ (B f c s).st ≠ bobStateOf f) (fun f c s => s.holdP c .bwait (n f c s) 0) ∧
  (∀ (s : State) (f : Fields) (c : Ctx), s.Resumes f c → c.sel ≠ 0 → c.heldAs .bwait = true → c.arg ≤ 63 →
    ((s.ticked.groupNow c).bobs.getD c.arg {}).st = bobStateOf f → exec (.bwait f) s = .next (s.ticked.finishLate c [])) ∧
  Does .bset (fun f c s => n f c s ≤ 63 ∧ (B f c s).holder = none ∧ ((B f c s).st = .free ∨ (B f c s).st = .full)) (fun f c s =>
    ((s.raiseEpoch c.dev c.core).modBob c.r.g (n f c s) fun b => { b with st := bobStateOf f }).finishLate c []) ∧
  Does .bset (fun f c s => n f c s ≤ 63 ∧ (B f c s).st ≠ .faulted ∧ ((B f c s).holder ≠ none ∨ (B f c s).st = .filling ∨ (B f c s).st = .draining)) (fun _ c s =>
    s.trap c .bobbin 3) ∧
  Does .bexp (fun f c s => n f c s ≤ 63 ∧ fits f c s ∧ (B f c s).holder = none) (fun f c s =>
    (s.modBob c.r.g (n f c s) fun b =>
      { b with st := .free, overrun := false, off := loWord (arg f c s), expect := hiWord (arg f c s), remain := hiWord (arg f c s) }).finishLate c []) ∧
  Does .bexp (fun f c s => n f c s ≤ 63 ∧ ¬fits f c s) (fun _ c s => s.trap c .bobbin 4) ∧
  Does .bstat (fun f c s => n f c s ≤ 63) (fun f c s => s.finishLate c (c.laneWrites f.d fun _ =>
    bobCode (B f c s).st + (if (B f c s).st = .faulted ∧ (B f c s).overrun = true then 8 else 0) + 2048 * ((B f c s).remain.toNat % 2 ^ 21)))

/-- R217, R218, R228, R232, R269 to R271, R275: `cmdw` and `permx` write their eight scalars as the entry at TAIL and raise TAIL if the ring has
room, and are held otherwise; `shcancel` cancels the commands it names and is held until they have ended; `mcast` sends its threads' stores to the
members of its set.  That `shcancel` reads the published entries of the ring first, also of a ring that is off, is the model's choice (assumption log 87). -/
def Obligations.CommandWords : Prop :=
  let k (f : Fields) : Nat := match f.a with | .scalar n => n.toNat | _ => 0
  let room (c : Ctx) (s : State) : Prop := (s.ringTail (s.groupNow c) - s.ringHead (s.groupNow c)).toNat < (s.groupNow c).nent
  let on (c : Ctx) (s : State) : Prop := (s.groupNow c).ringcfg.getLsbD 28 = true
  let entry (f : Fields) (c : Ctx) (s : State) : State :=
    let G := s.groupNow c
    let tail := s.ringTail G
    (((((s.raiseEpoch c.dev c.core).setSpad G (G.entryAt tail) ((List.range 8).flatMap fun i => leBytes 4 (c.s s (k f + i)).toNat)).setSpad G G.ringOff (leBytes 4 (tail + 1).toNat)).modG c
      fun G => { G with cpw := G.cpw ++ [(tail, c.r.w)] }).finishLate c (match f.d with | .none => [] | d => c.laneWrites d fun _ => tail.toNat))
  let kindOk (i : Form) (f : Fields) (c : Ctx) (s : State) : Prop := i = .permx → (c.s s (k f)).toNat % 16 = 3
  let first (f : Fields) (c : Ctx) (s : State) : Nat := (c.once s f.a).toNat
  let count (f : Fields) (c : Ctx) (s : State) : Nat := (c.once s f.b).toNat
  let range (c : Ctx) (s : State) (r : Nat × Nat) : Nat × Nat :=
    if r.2 = 0 then (match (s.groupNow c).cmds with | x :: _ => (x.seq.toNat, (BitVec.ofNat 32 (s.groupNow c).head - x.seq).toNat) | [] => (0, 0)) else r
  let set (f : Fields) (c : Ctx) (s : State) : DWord := c.val64 s f.b (lowThread c.sel)
  let z (f : Fields) : Nat × Nat := Sys2Proof.Machine.sizeOf (operandSub f.d)
  (∀ i ∈ [Form.cmdw, .permx],
    Does i (fun f c s => kindOk i f c s ∧ ¬on c s) (fun _ c s => s.trap c .operand 17) ∧
    Does i (fun f c s => kindOk i f c s ∧ on c s ∧ room c s) entry ∧
    Does i (fun f c s => kindOk i f c s ∧ on c s ∧ ¬room c s) (fun _ c s => s.holdP c .cmdw 0 0)) ∧
  Does .permx (fun f c s => (c.s s (k f)).toNat % 16 ≠ 3) (fun _ c s => s.trap c .operand 19) ∧
  Does .shcancel (fun f c s => 256 < count f c s) (fun _ c s => s.trap c .operand 11) ∧
  Does .shcancel (fun f c s => count f c s ≤ 256) (fun f c s =>
    let s1 := s.ringReadAll c.r.g
    let r := range c s1 (first f c s, count f c s)
    let named (x : Command) : Bool := decide ((x.seq - BitVec.ofNat 32 r.1).toNat < r.2)
    let s2 := s1.cancelCmds c.r.g named
    if (s1.groupNow c).cmds.any named then s2.holdP c .shcancel (r.1 + 2 ^ 32 * r.2) 0 else s2.finishLate c []) ∧
  (∀ (s : State) (f : Fields) (c : Ctx), s.Resumes f c → c.sel ≠ 0 → c.heldAs .shcancel = true →
    (∀ x ∈ (s.ticked.groupNow c).cmds, x.cancel = true → c.arg / 2 ^ 32 ≤ (x.seq - BitVec.ofNat 32 (c.arg % 2 ^ 32)).toNat) →
    exec (.shcancel f) s = .next (s.ticked.finishLate c [])) ∧
  Does .mcast (fun f c s => (set f c s).extractLsb' 12 4 ≠ 0 ∨ (set f c s).extractLsb' 28 4 ≠ 0) (fun _ c s => s.trap c .operand 21) ∧
  DoesThreads .mcast accessing (fun f c s => (set f c s).extractLsb' 12 4 = 0 ∧ (set f c s).extractLsb' 28 4 = 0)
    (fun f c s => (s.openCast c).release c.dev c.core (relLevel f))
    (fun f c s t => s.castThread c f (z f).1 (z f).2 (loWord (set f c s)) (hiWord (set f c s)) t)
    (fun c _ u => (({ u with casts := modIf (fun (x : Cast) => x.n == c.out) (fun (x : Cast) => { x with closed := true }) u.casts } : State).advance c).castEnd c.out)

/-! ## The matrix engine (R233 to R255) -/

/-- R235, R242, R247, R248, R251, R253: the matrix instructions whose references, tiles and tags pass their checks are accepted by every group they
act on, in the order of issue, and the issuer goes on; the loop counter of a counted tile operand moves on by the tiles it names. -/
def Obligations.MatrixWords : Prop :=
  let a (f : Fields) (c : Ctx) (s : State) : DWord := c.refVal s f.a
  let b (f : Fields) (c : Ctx) (s : State) : DWord := c.refVal s f.b
  let d (f : Fields) (c : Ctx) (s : State) : DWord := c.refVal s f.d
  let n (f : Fields) (c : Ctx) (s : State) : Nat := (c.once s f.a).toNat
  let blocks (f : Fields) (c : Ctx) (s : State) : Nat := (refTn (a f c s) + 1) * (refTn (b f c s) + 1)
  let refs (f : Fields) (c : Ctx) (s : State) : Prop := refOk c.isCluster (a f c s) = true ∧ refOk c.isCluster (b f c s) = true ∧ refKn (a f c s) = refKn (b f c s)
  let whole (x : DWord) : Prop := refKn x = 3 ∧ (refSrc x = 0 → refCk x % 128 = 0)
  let mac (i : Form) (f : Fields) (c : Ctx) (s : State) : State :=
    (s.acceptAll c (if i = .mmap then some .x128 else none) none fun H =>
      { n := 0, g := H.uid, w := 0, form := i, mod := f.mod, tag := tagOf (modHi f.mod), tiles := (c.tiles s f.d (blocks f c s)).toOption.getD [],
        refA := a f c s, refB := b f c s,
        rowOff := if c.isCluster then H.member / gridCols c.clusterSize * (32 * (refTn (a f c s) + 1)) else 0,
        colOff := if c.isCluster then H.member % gridCols c.clusterSize * (32 * (refTn (b f c s) + 1)) else 0 }).countTiles c f.d (blocks f c s)
  let masked (s : State) (H : Group) (d : Word) : Prop := d.toNat % 65536 < 256 ∧
    ∀ k, k < 8 → d.getLsbD k = true → ∃ T ∈ s.maskTargets H (d.toNat % 65536), T.core % 8 = k
  let one (f : Fields) (c : Ctx) (s : State) (i : Form) : Group → TileOp := fun H =>
    { n := 0, g := H.uid, w := 0, form := i, mod := f.mod, tag := H.tagAt (((c.tiles s f.a 1).toOption.getD []).headD 0), tiles := (c.tiles s f.a 1).toOption.getD [] }
  (∀ i ∈ [Form.mma, .mmap],
    Does i (fun f c s => refOk c.isCluster (a f c s) = false ∨ refOk c.isCluster (b f c s) = false) (fun _ c s => s.trap c .tile 5) ∧
    Does i (fun f c s => refOk c.isCluster (a f c s) = true ∧ refOk c.isCluster (b f c s) = true ∧ refKn (a f c s) ≠ refKn (b f c s)) (fun _ c s => s.trap c .tile 6) ∧
    ∀ e, Does i (fun f c s => refs f c s ∧ (i = .mmap → whole (a f c s) ∧ whole (b f c s)) ∧ c.tiles s f.d (blocks f c s) = .error e) (fun _ c s => s.trap c .tile e)) ∧
  Does .mma (fun f c s => refs f c s ∧ ∃ ts, c.tiles s f.d (blocks f c s) = .ok ts ∧ s.someTile c ts (fun x => x.tag != tagOf (modHi f.mod)) = false) (mac .mma) ∧
  Does .mma (fun f c s => refs f c s ∧ ∃ ts, c.tiles s f.d (blocks f c s) = .ok ts ∧ s.someTile c ts (fun x => x.tag != tagOf (modHi f.mod)) = true) (fun _ c s => s.trap c .tile 1) ∧
  Does .mmap (fun f c s => refs f c s ∧ whole (a f c s) ∧ whole (b f c s) ∧ ∃ ts, c.tiles s f.d (blocks f c s) = .ok ts) (mac .mmap) ∧
  Does .mmap (fun f c s => refs f c s ∧ ¬(whole (a f c s) ∧ whole (b f c s))) (fun _ c s => s.trap c .tile 6) ∧
  Does .tzero (fun f c s => n f c s = 0 ∨ 32 < n f c s) (fun _ c s => s.trap c .operand 20) ∧
  Does .tzero (fun f c s => 0 < n f c s ∧ n f c s ≤ 32 ∧ ∃ ts, c.tiles s f.d (n f c s) = .ok ts) (fun f c s =>
    (s.acceptAll c (some (tagOf (modHi f.mod))) none fun H =>
      { n := 0, g := H.uid, w := 0, form := .tzero, mod := f.mod, tag := tagOf (modHi f.mod),
        tiles := (c.tiles s f.d (n f c s)).toOption.getD [] }).countTiles c f.d (n f c s)) ∧
  Does .topen (fun f c s => n f c s = 0 ∨ 64 < n f c s) (fun _ c s => s.trap c .operand 20) ∧
  Does .topen (fun f c s => 0 < n f c s ∧ n f c s ≤ 64 ∧ ∃ ts, c.tiles s f.d 1 = .ok ts ∧ s.someTile c ts (fun x => x.open_.isSome) = false) (fun f c s =>
    (s.acceptAll c none (some (n f c s)) fun H =>
      { n := 0, g := H.uid, w := 0, form := .topen, tag := H.tagAt (((c.tiles s f.d 1).toOption.getD []).headD 0),
        tiles := (c.tiles s f.d 1).toOption.getD [] }).countTiles c f.d 1) ∧
  Does .topen (fun f c s => 0 < n f c s ∧ n f c s ≤ 64 ∧ ∃ ts, c.tiles s f.d 1 = .ok ts ∧ s.someTile c ts (fun x => x.open_.isSome) = true) (fun _ c s => s.trap c .tile 7) ∧
  Does .tdrain (fun f c s => refOk c.isCluster (d f c s) = true ∧ refSrc (d f c s) ≠ 2 ∧ refKn (d f c s) = 0 ∧ refTn (d f c s) = 0 ∧
      ∃ ts, c.tiles s f.a 1 = .ok ts ∧ s.someTile c ts (fun x => !drainTag (modHi f.mod) (f.mod.getLsbD 2) x.tag) = false) (fun f c s =>
    (s.acceptAll c none none fun H => { one f c s .tdrain H with refA := d f c s }).countTiles c f.a 1) ∧
  Does .tdadd (fun f c s => (c.once s f.b).toNat ≤ 63 ∧ (c.once s f.d).toNat < 2 ^ 21 ∧ (f.mod.getLsbD 2 = true → ∀ H ∈ s.actsOn c, masked s H (c.once s f.d)) ∧
      ∃ ts, c.tiles s f.a 1 = .ok ts) (fun f c s =>
    let k := (c.once s f.d).toNat % 65536
    let targets (H : Group) : List Nat := if f.mod.getLsbD 2 then (s.maskTargets H k).map fun T => T.gid else [k]
    (s.acceptAll c none none fun H =>
      { one f c s .tdadd H with word := c.once s f.d, src := (c.once s f.b).toNat, targets := targets H }).countTiles c f.a 1)

/-- R236, R244, R246, R252, R254, R255: cells move between tiles and registers, `tfence` closes a batch, `twait` waits for one and acquires it,
`tlc` sets a loop counter, `trun` starts a treadle with the weft's scalars, and `tstop` stops one once its operations are complete. -/
def Obligations.TreadleWords : Prop :=
  let n (f : Fields) (c : Ctx) (s : State) : Nat := (c.once s f.a).toNat
  let tile (o : Operand) (c : Ctx) (s : State) (x : Tile) : Prop := ∃ ts, c.tiles s o 1 = .ok ts ∧ ((s.group? c.r.g).getD c.G).tile? (ts.headD 0) = some x
  let named (f : Fields) (c : Ctx) : Nat := if f.mod.getLsbD 0 = true ∨ c.r.w = clusterWid then clusterWid else treadleWid
  let T (f : Fields) (c : Ctx) (s : State) : Treadle := (s.treadle? c.r.g (named f c)).getD {}
  let live (s : State) (T : Treadle) (n : Nat) : Bool := (T.batch n).any s.opLive
  (∀ x : Tile,
    DoesThreads .tread (fun _ m => threadsOf m) (fun f c s => tile f.a c s x ∧ (c.ordered x = true → cellTag f x.tag = true)) (fun _ _ s => s)
      (fun f c s t => s.treadThread c f x t) (fun c ws u => u.finishLate c ws) ∧
    DoesThreads .twrite (fun _ m => threadsOf m) (fun f c s => tile f.d c s x ∧ (c.ordered x = true → cellTag f x.tag = true)) (fun _ _ s => s)
      (fun f c s t => s.twriteThread c f x t) (fun c ws u => u.finishLate c ws)) ∧
  Does .tfence (fun f c s => c.isTreadle = true ∧ n f c s ≤ 15 ∧ live s (c.trd s) (n f c s) = false ∧
      (((List.range 16).filter (live s (c.trd s))).length < 8 ∨ (c.trd s).unfenced.any s.opLive = false)) (fun f c s =>
    (s.modTreadle c.r.g c.r.w fun T => { T with batches := (T.batches.filter fun b => b.1 != n f c s) ++ [(n f c s, T.unfenced)], unfenced := [] }).advance c) ∧
  Does .twait (fun f c s => (f.mod.getLsbD 0 = true → c.G.unit.isSome = true) ∧ n f c s ≤ 15) (fun f c s =>
    if live s (T f c s) (n f c s) then s.holdP c .twait (n f c s) 0
    else (s.modW c fun w => { w with acq := (w.acq ++ (T f c s).batch (n f c s)).eraseDups }).finishLate c []) ∧
  (∀ (s : State) (f : Fields) (c : Ctx), s.Resumes f c → c.sel ≠ 0 → c.heldAs .twait = true → (f.mod.getLsbD 0 = true → c.G.unit.isSome = true) → c.arg ≤ 15 →
    live s.ticked (T f c s.ticked) c.arg = false →
    exec (.twait f) s = .next ((s.ticked.modW c fun w => { w with acq := (w.acq ++ (T f c s.ticked).batch c.arg).eraseDups }).finishLate c [])) ∧
  Does .tlc (fun f c s => c.isTreadle = true ∧ n f c s < (c.once s f.b).toNat ∧ n f c s ≤ 31 ∧ (c.once s f.b).toNat ≤ 32) (fun f c s =>
    (s.modTreadle c.r.g c.r.w fun T =>
      { T with lc := Sparse.set T.lc (modLo2 f.mod) (BitVec.ofNat 8 (n f c s)),
               ring := Sparse.set T.ring (modLo2 f.mod) (BitVec.ofNat 8 (c.once s f.b).toNat) }).advance c) ∧
  (∀ i ∈ [Form.tfence, .tlc], Does i (fun _ c _ => c.isTreadle = false) fun _ c s => s.trap c .tile 3) ∧
  (∀ w, (w = treadleWid ∨ w = clusterWid) →
    Does .trun (fun f c s => w = (if f.mod.getLsbD 0 then clusterWid else treadleWid) ∧ (f.mod.getLsbD 0 = true → c.G.unit.isSome = true ∧ c.G.member = 0) ∧
        ((s.treadle? c.r.g w).getD {}).running = false ∧ (c.refVal s f.a).toNat % 4096 = 0) (fun f c s =>
      (s.modTreadle c.r.g w fun T =>
        { T with running := true, stopping := false, lc := [], ring := [(0, 32), (1, 32), (2, 32), (3, 32)],
                 weft := { wid := w, lane := c.wf.lane, paths := [{ mask := 1 }], s := (List.range 64).foldl (fun m k => Sparse.set m k (c.s s k)) [],
                           seg := c.refVal s f.a, acq := T.weft.acq } }).finishLate c [])) ∧
  Does .tstop (fun f c s => c.isTreadle = false ∧ (T f c s).running = false) (fun _ c s => s.finishLate c []) ∧
  Does .tstop (fun f c s => c.isTreadle = false ∧ (T f c s).running = true) (fun f c s =>
    let s1 := s.modTreadle c.r.g (named f c) fun T =>
      { T with stopping := true, weft := { T.weft with paths := T.weft.paths.map fun p => { p with hold := none } } }
    if (T f c s).issued.any s.opLive then s1.holdP c .tstop 0 0
    else ((s1.modTreadle c.r.g (named f c) fun T => { T with running := false, stopping := false, weft := { T.weft with paths := [] } }).modW c fun w =>
      { w with acq := (w.acq ++ (T f c s).issued).eraseDups }).finishLate c []) ∧
  Does .tstop (fun _ c s => c.isTreadle = true ∧ (c.trd s).running = true) (fun _ c s =>
    if (c.trd s).issued.any s.opLive then s.holdP c .tstop 0 0 else s.modTreadle c.r.g c.r.w fun T => { T with running := false, stopping := false, weft := { T.weft with paths := [] } })

/-! ## Barriers (R286 to R293) -/

/-- R246, R286 to R293: a party that arrives counts once in the phase, and the phase completes with its last party; `barv` answers the phase it
arrived in, `barw`, `cbar` and `gbar` wait for the end of that phase and acquire it when they are tried again, `bars` sets the number of parties, and a `fence` of scope below the domain
completes at once.  That a fence publishes the whole core's queue and marks the core for its later writes is the model's choice (assumption log 45), and so is
that wefts which have exited count at once in the next phase (assumption log 28). -/
def Obligations.BarrierWords : Prop :=
  let n (f : Fields) (c : Ctx) (s : State) : Nat := (c.once s f.a).toNat
  let b (f : Fields) (c : Ctx) (s : State) : Nat := (c.once s f.b).toNat
  let bar (f : Fields) (c : Ctx) (s : State) : Barrier := ((s.groupNow c).bars.getD (n f c s) {})
  let settle (c : Ctx) (s : State) (why : Why) (p k : Nat) (b : Barrier) : State :=
    if b.phase.toNat = p then s.holdP c why p 0 (BitVec.ofNat 64 k) else (s.modW c fun w => { w with acq := (w.acq ++ b.past).eraseDups }).finishLate c []
  (∀ (x : Barrier) (who : Nat × Nat) (acq : List Nat) (gone : List (Nat × Nat)),
    let y := x.arriveWith who acq gone
    (x.here.contains who = true → y.phase = x.phase ∧ y.arrived = x.arrived ∧ y.here = x.here) ∧
    (x.here.contains who = false → x.arrived + 1 < x.expect → y.phase = x.phase ∧ y.arrived = x.arrived + 1 ∧ y.here = x.here ++ [who] ∧ y.past = x.past) ∧
    (x.here.contains who = false → x.expect ≤ x.arrived + 1 → y.phase = x.phase + 1 ∧ y.arrived = gone.length ∧ y.here = gone ∧ y.carry = [] ∧
      ∀ k, k ∈ y.past ↔ k ∈ x.past ∨ k ∈ x.carry ∨ k ∈ acq)) ∧
  (∀ i ∈ [Form.barv, .barw, .bars], Does i (fun f c s => 15 < n f c s) fun _ c s => s.trap c .operand 11) ∧
  Does .barv (fun f c s => n f c s ≤ 15) (fun f c s => (s.arriveGroup c (n f c s)).finishLate c (c.laneWrites f.d fun _ => (bar f c s).phase.toNat)) ∧
  Does .barw (fun f c s => n f c s ≤ 15) (fun f c s =>
    settle c (s.arriveGroup c (n f c s)) .barw (bar f c s).phase.toNat (n f c s) (((s.arriveGroup c (n f c s)).groupNow c).bars.getD (n f c s) {})) ∧
  Does .bars (fun f c s => n f c s ≤ 15 ∧ (b f c s = 0 ∨ 33 < b f c s)) (fun _ c s => s.trap c .operand 22) ∧
  Does .bars (fun f c s => n f c s ≤ 15 ∧ 0 < b f c s ∧ b f c s ≤ 33) (fun f c s =>
    (s.modG c fun G => { G with bars := modAt (fun x => Barrier.complete { x with expect := b f c s } (exitedWefts [s.groupNow c])) (n f c s) G.bars }).finishLate c []) ∧
  (∀ P : Party,
    Does .cbar (fun f c s => n f c s ≤ 3 ∧ b f c s ≤ 1 ∧ c.G.unit.bind s.party? = some P ∧ (c.isTreadle = true → b f c s = 1) ∧
        ((P.cbars.getD (n f c s) {}).party = none ∨ (P.cbars.getD (n f c s) {}).party = some (b f c s))) (fun f c s =>
      let x := P.cbars.getD (n f c s) {}
      let s1 := (s.releaseAt c 2).modParty P.uid fun P1 =>
        { P1 with cbars := modAt (fun x => Barrier.arriveWith { x with party := some (b f c s), expect := s.partyWefts P + b f c s }
                                    (c.r.g, c.r.w) (c.acq s) (s.partyGone P)) (n f c s) P1.cbars }
      match s1.party? P.uid with
      | some P1 => settle c s1 .cbar x.phase.toNat (n f c s) (P1.cbars.getD (n f c s) {})
      | none => s1) ∧
    Does .gbar (fun _ c s => c.G.grid.bind s.party? = some P) (fun _ c s =>
      let s1 := (s.releaseAt c 2).modParty P.uid fun P1 => { P1 with gbar := P1.gbar.arriveWith (c.r.g, c.r.w) (c.acq s) (s.partyGone P) }
      match s1.party? P.uid with
      | some P1 => settle c s1 .gbar P.gbar.phase.toNat 0 P1.gbar
      | none => s1)) ∧
  Does .cbar (fun f c s => n f c s ≤ 3 ∧ b f c s ≤ 1 ∧ c.G.unit.bind s.party? = none) (fun _ c s => s.trap c .operand 23) ∧
  Does .gbar (fun _ c s => c.G.grid.bind s.party? = none) (fun _ c s => s.trap c .operand 23) ∧
  (∀ (s : State) (f : Fields) (c : Ctx) (h : Hold), s.Resumes f c → c.sel ≠ 0 → c.hold = some h →
    let k := h.va.toNat
    let acquires (b : Barrier) : State := (s.ticked.modW c fun w => { w with acq := (w.acq ++ b.past).eraseDups }).finishLate c []
    (h.why = .barw → k ≤ 15 → ((s.ticked.groupNow c).bars.getD k {}).phase.toNat ≠ h.arg → exec (.barw f) s = .next (acquires ((s.ticked.groupNow c).bars.getD k {}))) ∧
    (∀ P, c.G.unit.bind s.ticked.party? = some P → h.why = .cbar → k ≤ 3 → (P.cbars.getD k {}).phase.toNat ≠ h.arg →
      exec (.cbar f) s = .next (acquires (P.cbars.getD k {}))) ∧
    (∀ P, c.G.grid.bind s.ticked.party? = some P → h.why = .gbar → P.gbar.phase.toNat ≠ h.arg → exec (.gbar f) s = .next (acquires P.gbar))) ∧
  Does .fence (fun f _ _ => relLevel f = 0) (fun _ c s => s.finishLate c []) ∧
  Does .fence (fun f _ _ => relLevel f ≠ 0) (fun f c s =>
    let s1 := (s.releaseAt c (relLevel f)).modCore c.dev c.core fun x => { x with fenced := relLevel f }
    if relLevel f = 3 ∧ s1.reqs.any (fun r => r.msg.src == c.dev && r.msg.core == c.core) = true then s1.holdP c .fence 0 0 else s1.finishLate c [])

/-! ## Allocation and code lines (R110 to R115, R121, R122, R388) -/

/-- R110, R112, R114: `regacq` is granted at once or joins its core's queue, `regacq.try` answers whether it was granted, `regrel` gives blocks
back once no outstanding instruction of the weft names a register of them or above, and they serve the head of the queue; the registers of the blocks that a weft
gains are zero, and no older value of theirs is read any more.  What counts as reading or writing them, the registers that a word names up to the highest one, is the
model's choice (assumption log 48). -/
def Obligations.AllocWords : Prop :=
  let n (f : Fields) (c : Ctx) (s : State) : Nat := (c.once s f.a).toNat
  let done (f : Fields) (c : Ctx) (s : State) (x : Nat) : State := s.finishLate c (c.laneWrites f.d fun _ => x)
  (∀ (w : Weft) (k : Nat), (w.hold k).held = k ∧ ∀ r t, t < 16 →
    (r < 64 * (min k w.held + 1) → (w.hold k).reg (.v r t) = w.reg (.v r t)) ∧ (64 * (min k w.held + 1) ≤ r → (w.hold k).reg (.v r t) = 0)) ∧
  (∀ (w : Weft) (k r t : Nat), 64 * (min k w.held + 1) ≤ r → ∀ y ∈ (w.hold k).young, y.key ≠ .v r t) ∧
  (∀ (s : State) (i : Form) (f : Fields) (c : Ctx), s.Issues i f c → c.isTreadle = false →
    let q := s.issued i f c
    ∃ w, q.2.weft? c.r.g c.r.w = some w ∧ ∃ o ∈ w.outs, o.n = q.1.out ∧ o.top = max (topReg f f.d) (max (topReg f f.a) (topReg f f.b))) ∧
  (∀ i ∈ [Form.regacq, .regacqTry], Does i (fun f c s => n f c s = 0 ∨ 3 < n f c s) fun _ c s => s.trap c .operand 2) ∧
  Does .regrel (fun f c s => 3 < n f c s) (fun _ c s => s.trap c .operand 2) ∧
  (∀ (G : Group) (w : Weft),
    let sized (f : Fields) (c : Ctx) (s : State) : Prop := 0 < n f c s ∧ n f c s ≤ 3 ∧ s.weftNow c.r = some (G, w)
    Does .regacq (fun f c s => sized f c s ∧ n f c s ≤ w.held) (fun _ c s => s.finishLate c []) ∧
    Does .regacq (fun f c s => sized f c s ∧ w.held < n f c s) (fun f c s =>
      ((s.holdP c .regacq (n f c s) 0).modCore c.dev c.core fun k => { k with regq := k.regq ++ [c.r] }).regHead c.dev c.core) ∧
    Does .regacqTry (fun f c s => sized f c s ∧ n f c s ≤ w.held) (fun f c s => done f c s 1) ∧
    Does .regacqTry (fun f c s => sized f c s ∧ w.held < n f c s) (fun f c s =>
      if s.regFits G w (n f c s) = true ∧ (s.core c.dev c.core).regq = [] then done f c (s.modW c fun w => w.hold (max (n f c s) w.held)) 1 else done f c s 0) ∧
    let busy (k : Nat) (c : Ctx) : Prop := ∃ o ∈ w.outs, o.n ≠ c.out ∧ 64 * (k + 1) ≤ o.top
    let gives (k : Nat) (c : Ctx) (s : State) : State := ((s.modW c fun w => w.hold (min k w.held)).finishLate c []).regHead c.dev c.core
    Does .regrel (fun f c s => n f c s ≤ 3 ∧ s.weftNow c.r = some (G, w) ∧ busy (n f c s) c) (fun f c s => s.holdP c .regrel (n f c s) 0) ∧
    Does .regrel (fun f c s => n f c s ≤ 3 ∧ s.weftNow c.r = some (G, w) ∧ ¬busy (n f c s) c) (fun f c s => gives (n f c s) c s) ∧
    ∀ (s : State) (f : Fields) (c : Ctx), s.Resumes f c → c.sel ≠ 0 → c.heldAs .regrel = true → c.arg ≤ 3 → s.ticked.weftNow c.r = some (G, w) →
      ¬busy c.arg c → exec (.regrel f) s = .next (gives c.arg c s.ticked))

/-- R121, R122, R388: `spgrow` grows the window of an ELASTIC region's group or joins its core's queue, `spgrow.try` answers whether it did;
`ipin` pins all the lines of its range or none, `iunpin` lowers their pins, `ipf` changes timing only. -/
def Obligations.WindowAndCodeWords : Prop :=
  let n (f : Fields) (c : Ctx) (s : State) : Nat := (c.once s f.a).toNat
  let done (f : Fields) (c : Ctx) (s : State) (x : Nat) : State := s.finishLate c (c.laneWrites f.d fun _ => x)
  let sized (f : Fields) (c : Ctx) (s : State) : Prop := c.R.elastic = true ∧ 0 < n f c s ∧ n f c s ≤ 256
  let count (f : Fields) (c : Ctx) (s : State) : Nat := (c.once s f.b).toNat
  let fresh (f : Fields) (c : Ctx) (s : State) : List Nat := (c.codeLines s f).filter fun l => !(s.pinsAt c f).any (c.isPin l)
  let up (c : Ctx) (ps : List Pin) (l : Nat) : List Pin :=
    upsert (c.isPin l) { seg := c.wf.seg, ctx := c.ctx, line := l, count := 0 } (fun p => { p with count := p.count + 1 }) ps
  let down (c : Ctx) (ps : List Pin) (l : Nat) : List Pin := modIf (c.isPin l) (fun p => { p with count := p.count - 1 }) ps
  (∀ i ∈ [Form.spgrow, .spgrowTry],
    Does i (fun _ c _ => c.R.elastic = false) (fun _ c s => s.trap c .operand 30) ∧
    Does i (fun f c s => c.R.elastic = true ∧ (n f c s = 0 ∨ 256 < n f c s)) (fun _ c s => s.trap c .operand 31)) ∧
  Does .spgrow (fun f c s => sized f c s ∧ n f c s ≤ (s.groupNow c).grans.length) (fun _ c s => s.finishLate c []) ∧
  Does .spgrow (fun f c s => sized f c s ∧ (s.groupNow c).grans.length < n f c s) (fun f c s =>
    ((s.holdP c .spgrow (n f c s) 0).modCore c.dev c.core fun k => { k with spq := k.spq ++ [c.r] }).spadHead c.dev c.core) ∧
  Does .spgrowTry (fun f c s => sized f c s ∧ n f c s ≤ (s.groupNow c).grans.length) (fun f c s => done f c s 1) ∧
  Does .spgrowTry (fun f c s => sized f c s ∧ (s.groupNow c).grans.length < n f c s) (fun f c s =>
    if s.spadFits (s.groupNow c) (n f c s) = true ∧ (s.core c.dev c.core).spq = [] then done f c (s.growSpad (s.groupNow c) (n f c s)) 1 else done f c s 0) ∧
  (∀ i ∈ [Form.ipf, .ipin, .iunpin], Does i (fun f c s => 4096 < count f c s) fun _ c s => s.trap c .operand 10) ∧
  Does .ipf (fun f c s => count f c s ≤ 4096) (fun _ c s => s.finishLate c []) ∧
  Does .ipin (fun f c s => count f c s ≤ 4096 ∧ (s.pinsAt c f).length + (fresh f c s).length ≤ (if f.mod.getLsbD 0 then 2048 else 128)) (fun f c s =>
    done f c (s.setPins c f ((c.codeLines s f).foldl (up c) (s.pinsAt c f))) 1) ∧
  Does .ipin (fun f c s => count f c s ≤ 4096 ∧ (if f.mod.getLsbD 0 then 2048 else 128) < (s.pinsAt c f).length + (fresh f c s).length) (fun f c s => done f c s 0) ∧
  Does .iunpin (fun f c s => count f c s ≤ 4096) (fun f c s =>
    (s.setPins c f (((c.codeLines s f).foldl (down c) (s.pinsAt c f)).filter fun p => 0 < p.count)).finishLate c [])

/-! ## Regions, tournaments and the Jacquard (R94 to R96, R370 to R373, R386, R387) -/

/-- R94 to R96, R386, R387: `launch` lowers PENDING, `post` appends its threads' records to a bin, `relh` takes a slot's count as LEN, `countb` adds
to slots, `score` reports the rival's score, and `trnd` waits for the end of the round.  What the three instructions that name a node do where its region has
not been started (`unstarted`, `unstartedIn`, `relhUnread`, `postUnread`, and POST_TARGET or LAUNCH_TARGET where there is none) is the model's choice (assumption
log 90). -/
def Obligations.WorkWords : Prop :=
  let ref (f : Fields) (c : Ctx) (s : State) : Option (Nat × Nat) := s.nodeInTree c.R.rid (c.nodeRef s f)
  let node (f : Fields) (c : Ctx) (s : State) : Option (Nat × Nat) := s.nodeAt c.dev c.ctx (c.nodeRef s f)
  let below (f : Fields) (c : Ctx) (s : State) : Option (Region × Nat) × State := s.unstarted c.R (c.nodeRef s f)
  let later (f : Fields) (c : Ctx) (s : State) : Option (Region × Nat) × State := s.unstartedIn c.dev c.ctx (c.nodeRef s f)
  Does .launch (fun f c s => ref f c s = none ∧ (below f c s).1 = none) (fun f c s => (below f c s).2.trap c .operand 3) ∧
  Does .launch (fun f c s => ref f c s = none ∧ (below f c s).1 ≠ none) (fun f c s => (below f c s).2.trap c .operand 4) ∧
  Does .relh (fun f c s => ref f c s = none ∧ (below f c s).1 = none) (fun f c s => (below f c s).2.trap c .operand 3) ∧
  (∀ (R : Region) (n : Nat), Does .relh (fun f c s => ref f c s = none ∧ (below f c s).1 = some (R, n)) (fun f c s => (below f c s).2.relhUnread c R n)) ∧
  Does .post (fun f c s => node f c s = none ∧ (later f c s).1 = none) (fun f c s => (later f c s).2.trap c .operand 5) ∧
  (∀ (R : Region) (n : Nat), Does .post (fun f c s => node f c s = none ∧ (later f c s).1 = some (R, n)) (fun f c s => (later f c s).2.postUnread c f R n)) ∧
  (∀ (r n : Nat) (R : Region) (N : Node),
    let names (f : Fields) (c : Ctx) (s : State) : Prop := ref f c s = some (r, n) ∧ s.region? r = some R ∧ s.node? r n = some N
    Does .launch (fun f c s => names f c s ∧ R.killed = false ∧ R.st = 1 ∧ N.st = 0 ∧ N.pending ≠ 0) (fun _ c s => ((s.releaseAt c 2).decrement r n).finishLate c []) ∧
    Does .launch (fun f c s => names f c s ∧ (R.killed = true ∨ R.st ≠ 1 ∨ N.st ≠ 0 ∨ N.pending = 0)) (fun _ c s => s.trap c .operand 4) ∧
    Does .relh (fun f c s => names f c s ∧ (R.killed = true ∨ N.held = false ∨ N.st ≠ 0)) (fun _ c s => s.trap c .operand 9) ∧
    (∀ (v : Nat) (x : Xlat) (u : State), Does .relh (fun f c s => names f c s ∧ R.killed = false ∧ N.held = true ∧ N.st = 0 ∧
        s.slotWord c R.dev R.ctx (R.cslots + BitVec.ofNat 64 (4 * N.slot)) = (.ok (v, x), u) ∧ u.refused R.dev R.ctx x.pa = false) (fun _ c _ =>
      let u1 := (u.putSlot x.pa 0).modNode r n fun N => { N with len := v, held := false }
      (((u1.dput R.dev R.ctx (R.nodeAddr n + 0x10) 31 0 v).dput R.dev R.ctx (R.nodeAddr n) 4 4 0).readyCheck r n).finishLate c [])) ∧
    DoesThreads .post accessing (fun f c s => node f c s = some (r, n) ∧ s.node? r n = some N ∧ N.kind = 1 ∧
        f.rows * f.cols * 4 = N.recBytes) (fun _ c s => s.releaseAt c 2) (fun f c s t => s.postThread c f r n t) (fun c ws u => u.finishLate c ws) ∧
    Does .post (fun f c s => node f c s = some (r, n) ∧ s.node? r n = some N ∧ N.kind ≠ 1) (fun _ c s => s.trap c .operand 5) ∧
    Does .post (fun f c s => node f c s = some (r, n) ∧ s.node? r n = some N ∧ N.kind = 1 ∧
        f.rows * f.cols * 4 ≠ N.recBytes) (fun _ c s => s.trap c .operand 6)) ∧
  (∀ (s u : State) (c : Ctx) (d ctx v : Nat) (va : DWord) (x : Xlat), s.slotWord c d ctx va = (.ok (v, x), u) → Memory.wf u.mem = true →
    v = leNat (u.bytes x.pa 4) ∧ ∀ k, leNat ((u.putSlot x.pa k).bytes x.pa 4) = k % 2 ^ 32 ∧
      ∀ a, (a < x.pa ∨ x.pa + 4 ≤ a) → (u.putSlot x.pa k).byte a = u.byte a) ∧
  DoesThreads .countb accessing (fun _ _ _ => True) (fun _ _ s => s) (fun f c s t => s.countThread c f t) (fun c ws u => u.finishLate c ws) ∧
  (∀ i ∈ [Form.score, .trnd], Does i (fun _ c s => s.tournOf c.G = none) fun _ c s => s.trap c .operand 29) ∧
  (∀ (T : Tourn) (r : Rival),
    Does .score (fun _ c s => s.tournOf c.G = some (T, r)) (fun f c s =>
      (s.modRival T.sid r.idx fun r => { r with score := some (c.val64 s f.a (lowThread c.sel)) }).finishLate c []) ∧
    Does .trnd (fun _ c s => s.tournOf c.G = some (T, r)) (fun f c s =>
      if 2 ≤ T.st then s.finishLate c (c.laneWrites f.d fun _ => T.round) else s.holdP c .trnd T.round 0) ∧
    ∀ (s : State) (f : Fields) (c : Ctx), s.Resumes f c → c.sel ≠ 0 → c.heldAs .trnd = true → s.ticked.tournOf c.G = some (T, r) →
      (c.arg < T.round → exec (.trnd f) s = .next (s.ticked.finishLate c (c.laneWrites f.d fun _ => c.arg + 1))) ∧
      (T.round ≤ c.arg → exec (.trnd f) s =
        .next (if 2 ≤ T.st then s.ticked.finishLate c (c.laneWrites f.d fun _ => T.round) else s.ticked.holdP c .trnd c.arg 0)))

/-- R366, R370 to R373: `jqstart` answers false on a Jacquard that is taken, starts the run of a valid pattern and waits for its samples'
initialisation, and traps for an invalid one; `jqdone` answers stages, `jqstat` reads the status words. -/
def Obligations.JacquardWords : Prop :=
  let start (f : Fields) (c : Ctx) (s : State) : JqStart × State := (s.releaseAt c 2).jqTry c.dev c.jq c.ctx (c.addr s f.a 0 (lowThread c.sel))
  let free (c : Ctx) (s : State) : Prop := (s.cluster c.dev c.jq).jqFree = true ∧ (s.cluster c.dev c.jq).jqPause = none
  Does .jqstart (fun _ c s => (s.cluster c.dev c.jq).jqFree = false) (fun f c s => s.finishLate c (c.laneWrites f.d fun _ => 0)) ∧
  Does .jqstart (fun f c s => free c s ∧ (start f c s).1 = .ran) (fun f c s =>
    ((start f c s).2.modCluster c.dev c.jq fun C => { C with jqPath := some c.r, jqOwner := none, jqRid := c.G.rid }).holdP c .jqstart 1 0) ∧
  (∀ cls reason va, Does .jqstart (fun f c s => free c s ∧ (start f c s).1 = .failed cls reason va) (fun f c s =>
    ((start f c s).2.modCluster c.dev c.jq fun C => { C with jqPath := none }).trap c cls reason 0 va)) ∧
  (∀ (s : State) (f : Fields) (c : Ctx), s.Resumes f c → c.sel ≠ 0 → c.heldAs .jqstart = true → c.arg = 1 →
    let C := s.ticked.cluster c.dev c.jq
    exec (.jqstart f) s = .next (
      if C.jqLive = true ∧ ∃ x ∈ C.samples, x.st = 0 ∧ x.phase = 5 then s.ticked.holdP c .jqstart 1 0
      else (s.ticked.modCluster c.dev c.jq fun C => { C with jqPath := none, jqPause := none }).finishLate c (c.laneWrites f.d fun _ => 1))) ∧
  (∀ (C : Cluster) (x : DWord) (buf : List Byte),
    let D := C.beginRun x buf
    D.jqLive = true ∧ D.jqTag = (C.jqTag + 1) % 2 ^ 14 ∧ D.jqBuf = buf ∧ D.samples.length = leNat (buf.take 4) / 2 ^ 16 % 2 ^ 9 + 1 ∧
    ∀ i (h : i < D.samples.length), D.samples[i].idx = i) ∧
  DoesThreads .jqdone accessing (fun _ _ _ => True) (fun _ c s => s.releaseAt c 2) (fun f c s t => s.jqdoneThread c f t) (fun c ws u => u.finishLate c ws) ∧
  DoesThreads .jqstat accessing (fun _ _ _ => True) (fun _ _ s => s) (fun f c s t => s.jqstatThread c f t) (fun c ws u => u.finishLate c ws)

/-! ## Supervisor instructions (R403 to R405, R407) -/

/-- R403: a shootdown removes the translations it names and leaves the others, and waits for the accesses still to be made through them; R404: a replay
publishes at device scope, removes entries of the fault buffer and retries the stalls; R405: `rdflt` reads the oldest unread entry; R407: `ctxsv` stores or loads
the context's block.  Which accesses a shootdown waits for, the late words that keep a named translation, and that it then publishes what every core of the
device holds and drains the device's requests is the model's choice (assumption log 58). -/
def Obligations.SupervisorWords : Prop :=
  let va (f : Fields) (c : Ctx) (s : State) : Nat := (c.val64 s f.a (lowThread c.sel)).toNat
  let used (c : Ctx) (s : State) (hit : Tlb → Bool) : Prop :=
    ∃ G ∈ s.groups, G.dev = c.dev ∧ ∃ w ∈ G.wefts, ∃ l ∈ w.late, l.hold.why = .late ∧ ∃ e ∈ l.tlb, e.dev = c.dev ∧ hit e = true
  let sweep (c : Ctx) (s : State) (hit : Tlb → Bool) : State :=
    let s1 := s.dropEntries c.dev hit
    (((s1.cores.filter fun k => k.dev == c.dev).foldl (fun s k => s.publishAll k.dev k.n) s1).drain c.dev).finishLate c []
  let tlbi (i : Form) (at_ : Fields → Ctx → State → Nat) (hit : Nat → Ctx → Tlb → Bool) : Prop :=
    Does i (fun f c s => ¬used c s (hit (at_ f c s) c)) (fun f c s => sweep c s (hit (at_ f c s) c)) ∧
    Does i (fun f c s => used c s (hit (at_ f c s) c)) (fun f c s =>
      (s.dropEntries c.dev (hit (at_ f c s) c)).holdP c .tlbi 0 0 (BitVec.ofNat 64 (at_ f c s))) ∧
    ∀ (s : State) (f : Fields) (c : Ctx) (v : Nat), s.Resumes f c → c.sel ≠ 0 → c.heldAs .tlbi = true → c.hold.map (fun h => h.va.toNat % 2 ^ 55) = some v →
      ¬used c s.ticked (hit v c) → exec (i.mk f) s = .next (sweep c s.ticked (hit v c))
  let always (_ : Fields) (_ : Ctx) (_ : State) : Prop := True
  (∀ (s : State) (d : Nat) (hit : Tlb → Bool),
    let u := s.dropEntries d hit
    u = { s with tlb := s.tlb.filter fun t => !(t.dev == d && hit t), groups := u.groups } ∧
    (∀ g G, s.group? g = some G → ∃ H, u.group? g = some H ∧ H = { G with wefts := H.wefts } ∧
      (G.dev = d → ∀ w ∈ H.wefts, ∀ l ∈ w.late, l.hold.why ≠ .late → ∀ e ∈ l.tlb, ¬(e.dev = d ∧ hit e = true)))) ∧
  tlbi .tlbiAll (fun _ _ _ => 0) (fun _ _ _ => true) ∧
  tlbi .tlbiCtx (fun _ _ _ => 0) (fun _ c t => t.ctx == c.ctx && !pteG t.pte) ∧
  tlbi .tlbiPage (fun f c s => va f c s % 2 ^ 55) (fun v c t => t.ctx == c.ctx && v / 2 ^ t.bits == t.base / 2 ^ t.bits) ∧
  Does .replay always (fun f c s =>
    (((s.releaseAt c 2).modCtx c.dev c.ctx fun C => { C with faults := C.faults.filter fun e => e.page != va f c s / 65536 }).replayAt c.dev c.ctx (some (va f c s / 65536))).finishLate c []) ∧
  Does .replayAll always (fun _ c s => (((s.releaseAt c 2).modCtx c.dev c.ctx fun C => { C with faults := [], dropped := false }).replayAt c.dev c.ctx none).finishLate c []) ∧
  Does .rdflt (fun _ c s => (s.ctx c.dev c.ctx).faults.find? (fun e => !e.read) = none) (fun f c s =>
    s.finishLate c (((List.range 4).map fun j => (RegKey.s (scalarOf f.d + j), 0)) ++ c.laneWrites f.a fun _ => 0)) ∧
  (∀ e : FaultEntry, Does .rdflt (fun _ c s => (s.ctx c.dev c.ctx).faults.find? (fun e => !e.read) = some e) (fun f c s =>
    let C : Context := { s.ctx c.dev c.ctx with faults := readOldest (s.ctx c.dev c.ctx).faults }
    (s.modCtx c.dev c.ctx fun _ => C).finishLate c
      (((e.words c.ctx ++ [C.word3]).zipIdx.map fun x => (RegKey.s (scalarOf f.d + x.2), x.1)) ++ c.laneWrites f.a fun _ => 1))) ∧
  DoesThreads .ctxsv (fun _ m => (threadsOf m).take 1) always (fun _ _ s => s) (fun f c s t => s.ctxsvOnce c f (c.once s f.b != 0) t)
    (fun c ws u => u.finishLate c ws)

/-! ## Steps of a core and its engines -/

/-- R112, R115, R248, R251, R312, R349, R388, R393, R414, R418: the steps that a core makes by itself: waiting requests and deliveries are served when
their turn has come, time limits act once they have run out, and until then nothing changes. -/
def Obligations.CoreEvents : Prop :=
  ∀ (s : State) (d k g n : Nat),
    (∀ c : Ctx, s.ctxAt c.r = some c → c.heldAs .adld = true →
      exec (.adldRetry c.r) s = .next (s.modP c fun p => { p with hold := p.hold.map fun h => { h with why := .retry } }) ∧
      exec (.adjEarly c.r) s = .next (if c.arg ≤ s.clk then s.trap c .twin 2 c.done ((c.hold.map fun h => h.va).getD 0) 0 else s)) ∧
    (∀ (r : PathRef) (rs : List PathRef) (c : Ctx) (G : Group) (w : Weft), s.ctxAt r = some c →
      ((s.core d k).regq = r :: rs → s.weftNow r = some (G, w) → exec (.regacqGrant d k) s = .next (
        if s.regFits G w c.arg then (((s.modCore d k fun x => { x with regq := rs }).modW c fun w => w.hold (max c.arg w.held)).finishLate c []) else s)) ∧
      ((s.core d k).spq = r :: rs → s.group? r.g = some G → exec (.spgrowGrant d k) s = .next (
        if s.spadFits G c.arg then (((s.modCore d k fun x => { x with spq := rs }).growSpad G c.arg).finishLate c []).coverSpad d k else s)) ∧
      (∀ since, (s.core d k).stall = some since → (s.core d k).regq ++ (s.core d k).spq = [r] → c.p.stuckIn false = true →
        exec (.stallDeadlock d k) s = .next (if s.stalled d k = true ∧ since + 4096 ≤ s.clk then s.trap c .deadlock 1 else s))) ∧
    (∀ (e : QEntry) (es : List QEntry), (s.core d k).queue = e :: es →
      exec (.writeQueueTimeout d k) s = .next (if e.at_ + 4096 ≤ s.clk then s.publish d k e else s)) ∧
    exec (.engineHangReset d k) s = .next (if s.hung d k then s.engineReset d k else s) ∧
    (∀ (G : Group) (t : TrapInfo), s.group? g = some G → exec (.deferredTrap g t) s = .next (
      if G.life = .placed then s.takeTrap g t else s.modGroup g fun G => { G with pend := some (G.pend.getD t) })) ∧
    (∀ (G : Group) (o : TileOp), s.group? g = some G → (s.core G.dev G.core).ops.find? (fun o => o.n == n) = some o →
      (opTurn (s.core G.dev G.core).ops o = false → exec (.tileOpComplete g n) s = .next s) ∧
      (opTurn (s.core G.dev G.core).ops o = true → o.form = .tzero → exec (.tileOpComplete g n) s = .next (
        ((s.modTiles g o.tiles fun x => { x with cells := [], nar := false }).putOp G.dev G.core n none).opDone o)) ∧
      (opTurn (s.core G.dev G.core).ops o = true → o.form = .mma ∨ o.form = .mmap → exec (.tileOpComplete g n) s = .next (s.ticked.macStep G o)) ∧
      (opTurn (s.core G.dev G.core).ops o = true → o.form = .tdrain → exec (.tileOpComplete g n) s = .next (s.ticked.drainNext G o)) ∧
      (opTurn (s.core G.dev G.core).ops o = true → o.form = .tdadd → exec (.tileOpComplete g n) s = .next (s.ticked.sendTile G o))) ∧
    (∀ e : Delivery, s.deliveries.find? (fun e => e.n == n) = some e →
      (∀ due, s.deliveryDue e = some due → exec (.tileNotOpenTimeout n) s = .next (if due ≤ s.clk then s.deliveryTrap e 9 else s)) ∧
      let e1 : Delivery := { e with arrived := some (e.arrived.getD s.clk) }
      let s1 : State := { s with deliveries := modIf (fun x => x.n == n) (fun _ => e1) s.deliveries }
      ∀ (H : Group) (x : Tile) (m top : Nat), s1.target? e1 = some H → H.life = .placed → H.tile? e.tile = some x → x.open_ = some (m, top) →
        exec (.tdaddDelivery n) s = .next (
          if m ≤ e.op.src ∨ e.op.src ∈ x.added then s1.deliveryTrap e1 10
          else if ∃ o ∈ (s1.core H.dev H.core).ops, o.n = top ∧ o.tag ≠ e.op.tag then s1.deliveryTrap e1 1
          else if ¬∃ o ∈ (s1.core H.dev H.core).ops, o.n = top ∧ opTurn (s1.core H.dev H.core).ops o = true then s1
          else if (s1.regionOf H).det = true ∧ ¬(List.range e.op.src).all (fun j => x.added.contains j) = true then s1
          else s1.addSource e1 H x m top))

/-! ## Steps of a shuttle (R217 to R226, R272 to R274) -/

/-- R217, R218, R220 to R224, R232, R272 to R274: the shuttle reads a published entry or traps on a ring that has run over; a command starts, stands still
while it is paused, ends cancelled at a line of its destination, or waits; a load takes a FREE bobbin and a drain a FULL one; elements move line by line of
the destination, none beyond a 64 KiB boundary while a shootdown is pending, and the last one ends the command; two PERMX commands pair, exchange their
elements, and end together.  Where a command that is to be cancelled stops, at once between boxes and else at its next line, that a cancelled exchange takes
each side to its own next line (`permStop`), and what a side does alone (`permHalt`) is the model's choice (assumption log 87). -/
def Obligations.CommandEvents : Prop :=
  ∀ (s : State) (g seq : Nat) (G : Group) (c : Command),
    let kinds : List ((Nat → Nat → Instr) × (Command → Prop)) := [
      (.copyDraftToBobbin, fun c => c.kind = 0 ∧ c.mode = 0), (.copyBobbinToDraft, fun c => c.kind = 0 ∧ c.mode = 1),
      (.copyDraftToDraft, fun c => c.kind = 0 ∧ 2 ≤ c.mode), (.streamFill, fun c => c.kind = 1 ∧ c.mode = 0),
      (.streamDrain, fun c => c.kind = 1 ∧ c.mode ≠ 0), (.fillBobbin, fun c => c.kind = 2 ∧ c.mode = 0),
      (.fillDraft, fun c => c.kind = 2 ∧ c.mode ≠ 0), (.beamwr, fun c => c.kind = 4), (.cancel, fun c => 5 ≤ c.kind),
      (.permxCommand, fun c => c.kind = 3 ∧ c.paired = none)]
    let live := s.command? g seq = some (G, c) ∧ c.status = none ∧ G.life = .placed
    let held := c.pause.isSome = true ∨ s.shootHeld G c = true
    let stops := s.ceases G c = true ∧ (c.between = true ∨ 5 ≤ c.kind ∨ (c.kind = 3 ∧ c.paired = none) ∨ G.atLine c c.elem = true)
    let goes := live ∧ ¬held ∧ ¬stops
    let runs := goes ∧ c.started = true
    let d := draftOf c.draft
    let b := c.boxBob
    let B := G.bobs.getD b {}
    let moves (i : Nat → Nat → Instr) (one : State → Command → Option Halt × Command × State) (last : State → Command → State) : Prop :=
      ∀ h c1 s1, runElems one (s.mayMove G c (G.toLine c (d.count_ - c.elem) c.elem) c.elem) s c = (h, c1, s1) →
        exec (i g seq) s = .next (match h with
          | some h => s1.haltCmd g G c1 h
          | none => if d.count_ ≤ c1.elem then last s1 c1 else s1.putCmd g c1)
    (∀ x : (Nat → Nat → Instr) × (Command → Prop), x ∈ kinds → x.2 c →
      (live → held → exec (x.1 g seq) s = .next s) ∧
      (live → ¬held → stops → exec (x.1 g seq) s = .next (s.finishCmd g c 1)) ∧
      (goes → c.started = false → exec (x.1 g seq) s = .next (s.startCmd g G c))) ∧
    (goes → c.started = false → c.kind = 4 → G.mayStart c = true → c.formatOk = true → (c.cwen = true → c.cwordAt + 8 ≤ G.spadsz) →
      ∀ c1 s1, s.readDrafts G c = (.ok c1, s1) → exec (.beamwr g seq) s = .next (if s1.beamReaders G.dev then s1.finishCmd g c1 3 else s1.putCmd g c1)) ∧
    (runs → ∀ i : (Nat → Nat → Instr) × Nat × Bool, i ∈ [(Instr.copyDraftToBobbin, 0, false), (.streamFill, 1, false), (.fillBobbin, 2, true)] → c.kind = i.2.1 → c.mode = 0 →
      (c.bob = none → exec (i.1 g seq) s = .next (
        if B.st = .free then (s.modBob g b fun B => { B with st := .filling, remain := B.expect, holder := some c.seq.toNat }).putCmd g { c with bob := some b, elem := 0, excess := false }
        else s)) ∧
      ∀ k, c.bob = some k → moves i.1 (fun s c => s.loadElem G c d k i.2.2 (s.regionOf G).counting) fun s c => s.loadOver g k c) ∧
    (runs → ∀ i : (Nat → Nat → Instr) × Nat, i ∈ [(Instr.copyBobbinToDraft, 0), (.streamDrain, 1)] → c.kind = i.2 → c.mode = 1 →
      (c.bob = none → exec (i.1 g seq) s = .next (
        if B.st = .full then (s.modBob g b fun B => { B with st := .draining, holder := some c.seq.toNat }).putCmd g { c with bob := some b, elem := 0 } else s)) ∧
      ∀ k, c.bob = some k → moves i.1 (fun s c => s.drainElem G c d k) fun s c => (s.modBob g k fun B => { B with holder := none, st := .free }).nextBox g c) ∧
    (runs → c.kind = 0 → 2 ≤ c.mode → moves .copyDraftToDraft (fun s c => s.copyElem G c d (draftOf c.draft2) (s.regionOf G).counting) fun s c => s.finishCmd g c 0) ∧
    (runs → c.kind = 2 → c.mode ≠ 0 → moves .fillDraft (fun s c => s.fillElem G c d) fun s c => s.finishCmd g c 0) ∧
    (runs → c.kind = 4 → moves .beamwr (fun s c => s.beamElem G c d) fun s c => s.finishCmd g c 0) ∧
    (runs → 5 ≤ c.kind →
      let named (x : Command) : Bool :=
        if c.argField % 2 == 1 then (G.cmds.takeWhile fun x => x.seq != c.seq).any fun y => y.seq == x.seq
        else x.seq.toNat == c.arg2 && x.seq != c.seq
      exec (.cancel g seq) s = .next (if G.cmds.any (fun x => x.cancel && named x) then s else s.finishCmd g c 0)) ∧
    (runs → c.kind = 3 → c.paired = none →
      (s.joined G.dev (G.dev ^^^ 2 ^ c.jbit) = false → exec (.permxCommand g seq) s = .next (s.finishCmd g c 6)) ∧
      (s.joined G.dev (G.dev ^^^ 2 ^ c.jbit) = true → s.partner (G.dev ^^^ 2 ^ c.jbit) c = none → exec (.permxCommand g seq) s = .next s) ∧
      ∀ H e, s.joined G.dev (G.dev ^^^ 2 ^ c.jbit) = true → s.partner (G.dev ^^^ 2 ^ c.jbit) c = some (H, e) →
        exec (.permxCommand g seq) s = .next ((s.putCmd g { c with paired := some (H.uid, e.seq) }).putCmd H.uid { e with paired := some (g, c.seq) })) ∧
    (live → c.kind = 3 → ∀ h q, c.paired = some (h, q) →
      (c.pause = none → (∀ x, s.command? h q.toNat = some x → x.2.status.isSome = true) →
        exec (.permxCommand g seq) s = .next (s.finishCmd g c (if c.cancel then 1 else 6))) ∧
      ∀ H e, s.command? h q.toNat = some (H, e) → e.status = none → H.life = .placed →
        let still := c.pause.isSome = true ∨ e.pause.isSome = true ∨ s.shootHeld G c = true ∨ s.shootHeld H e = true ∨
          s.paused G.dev H.dev 0 = true ∨ s.paused H.dev G.dev 0 = true
        let same := c.logn = e.logn ∧ c.esize = e.esize ∧ c.lbit = e.lbit
        let total := 2 ^ (c.logn - 1)
        let left := total - c.elem
        let runs := ¬still ∧ s.joined G.dev H.dev = true ∧ same
        let cancelled := c.cancel = true ∨ e.cancel = true
        (still → exec (.permxExchange g seq) s = .next s) ∧
        (¬still → s.joined G.dev H.dev = false → exec (.permxExchange g seq) s = .next (s.finishPair G.uid c 6 H.uid e 6)) ∧
        (¬still → s.joined G.dev H.dev = true → ¬same → exec (.permxExchange g seq) s = .next (s.finishPair G.uid c 5 H.uid e 5)) ∧
        (runs → cancelled → exec (.permxExchange g seq) s = .next (s.permStop G H c e total)) ∧
        (runs → cancelled → G.atLine c c.elem = true → H.atLine e e.elem = true → exec (.permxExchange g seq) s = .next (
          s.finishPair G.uid (c.moved c.elem) (if c.cancel then 1 else 6) H.uid (e.moved e.elem) (if e.cancel then 1 else 6))) ∧
        (runs → ¬cancelled →
          ∀ stop k s1, s.permRun G H c e (min (s.mayMove G c (G.toLine c left c.elem) c.elem) (s.mayMove H e (H.toLine e left e.elem) e.elem)) c.elem = (stop, k, s1) →
            let s2 := (s1.putCmd G.uid (c.moved k)).putCmd H.uid (e.moved k)
            exec (.permxExchange g seq) s = .next (match stop with
              | none => if total ≤ k then s2.finishPair G.uid (c.moved k) 0 H.uid (e.moved k) 0 else s2
              | some h => s2.permHalt G H (c.moved k) (e.moved k) total h))) ∧
    (∀ st, s.command? g seq = some (G, c) → c.status = some st →
      let s1 := (match G.cpw.find? fun (x : Word × Nat) => x.1 == c.seq with
        | some (_, w) => (s.cword G c st).modWeft g w fun wf => { wf with cp := wf.cp - 1 }
        | none => s.cword G c st).modGroup g fun G => { G with cmds := G.cmds.filter (fun x => x.seq != c.seq), cpw := G.cpw.filter fun (x : Word × Nat) => x.1 != c.seq }
      (G.copy = false → exec (.commandEnd g seq) s = .next s1) ∧
      (G.copy = true → G.cmds.length = 1 → G.ringDead = false → exec (.commandEnd g seq) s = .next ((s1.dropGroup G).endNode G.rid G.node 3))) ∧
    (s.group? g = some G → G.life = .placed → G.watched = true →
      let q := BitVec.ofNat 32 G.head
      (s.unread G = if G.ringUsed then (s.ringTail G - q).toNat else 0) ∧
      exec (.shuttleRingRead g) s = .next (
        if s.unread G = 0 then s
        else if G.nent < s.unread G then s.shuttleTrap g .operand 16 0 0 q 0
        else (s.setSpad G (G.ringOff + 4) (leBytes 4 (q + 1).toNat)).modGroup g fun G1 =>
          { G1 with head := (q + 1).toNat, cmds := G1.cmds ++ [{ seq := q, bytes := s.spadBytes G (G.entryAt q) 32, quiet := !G.ringcfg.getLsbD 28 }] }))

/-! ## Steps of the dobby (R85 to R106, R116, R117, R408, R409, R423 to R428) -/

/-- R85, R88, R89, R93, R99, R116, R117, R409, R423, R427, R428, R435: a set POST arms an idle region and is refused by any other; a READY node's
work starts; a batch closes once its expiry has passed; groups are placed, saved, restored and retired, and a grid ends with its last group.  That a READYPOST
with WALK = 0 ends with POSTERR is the model's choice (assumption log 53), and so is that a set POST arms a region by its STATE alone, whatever its word at 0x40 holds
(assumption log 73). -/
def Obligations.DobbyEvents : Prop :=
  ∀ (s : State) (d die k r n g : Nat),
    (∀ rcb x, s.rootEntry d k = some (rcb, x) → (s.dcheck d x rcb 128 false).1 = .ok () →
      let s1 := (s.dcheck d x rcb 128 false).2
      let s2 := s1.dput d x (rcb + 0x38) 63 0 0
      (s1.vnum d x (rcb + 0x38) 1 % 2 = 0 → exec (.arm d k) s = .next s1) ∧
      (s1.vnum d x (rcb + 0x38) 1 % 2 = 1 → (∀ R ∈ s1.regions, R.pause = none ∧ R.retry = false) → exec (.arm d k) s = .next (
        if s2.vnum d x (rcb + 0x22) 1 % 16 = 0 ∧ s2.liveRcb d x rcb = false then s2.beginRegion d x rcb none 0 0 else s2.dput d x (rcb + 0x40) 3 1 3))) ∧
    (∀ (R : Region) (N : Node), s.region? r = some R → R.node? n = some N →
      let starts := R.retry = false ∧ N.st = 1 ∧ R.st = 1 ∧ R.killed = false
      let s1 := s.setNodeSt r n 2
      (R.retry = true → exec (.nodeLaunch r n) s = .next ((s.modRegion r fun R => { R with retry := false }).startRegion r)) ∧
      (R.retry = false → ¬starts → exec (.nodeLaunch r n) s = .next s) ∧
      (starts → (N.kind = 0 ∨ N.kind = 2) → N.len = 0 → exec (.nodeLaunch r n) s = .next (s.endNode r n 3)) ∧
      (starts → N.kind = 0 → N.len ≠ 0 → exec (.nodeLaunch r n) s = .next (
        (s1.modNode r n fun N => { N with inFlight := N.len }).modRegion r fun R =>
          { R with queue := R.queue ++ (List.range N.len).map fun g => { node := n, gid := g, age := N.readyAt } })) ∧
      (starts → N.kind = 1 → exec (.nodeLaunch r n) s = .next (s1.binEnd r n)) ∧
      (starts → N.kind = 2 → N.len ≠ 0 → exec (.nodeLaunch r n) s = .next (s.launchCopy r n R N)) ∧
      (starts → N.kind = 3 → exec (.nodeLaunch r n) s = .next (s.reserveJq r n N.entry)) ∧
      (starts → N.kind = 4 → exec (.nodeLaunch r n) s = .next (s.startTourn r n N.entry)) ∧
      (starts → 5 ≤ N.kind → exec (.nodeLaunch r n) s = .next (s1.beginRegion R.dev R.ctx N.entry (some (r, n)) (s.childDie R.dev) (R.depth + 1))) ∧
      (∀ e, N.expiry = some e → exec (.binTimerExpiry r n) s = .next (if e < s.clk then s.closeBatch r n else s)) ∧
      (N.kind = 0 → N.st = 2 → N.inFlight = 0 → s.gridPublished r n = true → (s.endNode r n (if N.failed then 4 else 3)).tourns = [] →
        exec (.gridComplete r n) s = .next (s.endNode r n (if N.failed then 4 else 3))) ∧
      (N.inFlight ≠ 0 → exec (.gridComplete r n) s = .next s)) ∧
    (∀ (R : Region) (W : Waiting) (rest : List (Region × Waiting)), s.heads d die = (R, W) :: rest →
      (∀ t, s.placeHead R W deviceCores = some t → exec (.groupPlace d die) s = .next (if W.saved.isNone then t else s)) ∧
      (rest = [] → s.placeHead R W deviceCores = none → exec (.groupPlace d die) s = .next s) ∧
      ((∃ x ∈ s.rooms R W, x.2 s.afterSaves = true) → exec (.preempt d die) s = .next s) ∧
      ∀ v t, (∀ x ∈ s.rooms R W, x.2 s.afterSaves = false) → (s.rooms R W).filterMap (fun x => s.afterSaves.victims R.prio d x.1 x.2 (s.afterSaves.groups.length + 1) []) = [v] →
        s.takeSlots v = some t → exec (.preempt d die) s = .next (if v.all s.settled then v.foldl (fun s g => s.stopGroup g) t else s)) ∧
    (∀ G : Group, s.group? g = some G →
      exec (.groupRetire g) s = .next (if s.canRetire G then s.retire G else s) ∧
      (∀ R k, s.region? G.rid = some R → G.slot = some k →
        (G.life = .saving → (∀ o ∈ (s.core G.dev G.core).ops, o.g ≠ g ∨ o.form = .topen) → (∀ x ∈ s.deliveries, x.op.g ≠ g) → G.finishing = false →
          exec (.saveComplete g) s = .next (((((s.modCore G.dev G.core fun c => { c with stall := none }).saveImage R G k).modGroup g fun G =>
            { G with life := .saved, kept := s.spadBytes G 0 G.spadsz }).modRegion G.rid fun R =>
            { R with queue := R.queue ++ [{ node := G.node, gid := G.gid, age := G.age, rival := G.rival, batch := G.batch, tries := G.relaunched, saved := some g }] }))) ∧
        (G.life ≠ .saving → exec (.saveComplete g) s = .next s)) ∧
      (∀ R, s.region? G.rid = some R →
        (s.firstHead R.dev R.die = none → exec (.restore g) s = .next s) ∧
        ∀ W t, s.firstHead R.dev R.die = some (W, t) →
          (∀ h, W.saved = some h → exec (.restore g) s = .next (if (s.unitOf G).contains h then t else s)) ∧
          (W.saved = none → exec (.restore g) s = .next s))) ∧
    (∀ va R N, (s.dev d).st = 6 → s.nodeAt d k va = some (r, n) → s.region? r = some R → s.node? r n = some N →
      exec (.readypost d k va) s = .next (
        if s.modeBit d k 1 = true ∧ R.st = 1 ∧ R.killed = false ∧ N.st = 0 ∧ N.isRival = false then (s.modNode r n fun N => { N with readyAt := s.clk }).setNodeSt r n 1
        else s.modDev d fun D => { D with mode := Sparse.put D.mode (4 * k + 2) (Sparse.get D.mode (4 * k + 2) ||| 0x10000) }))

/-- R361, R366, R368, R379 to R382: a rival parks once its allowance is spent or it is idle, a round ends once no rival of it runs, its ranking has each rival
once and none behind a worse one, and a higher score beats a lower one in the same state; a reserved Jacquard starts its run, and takes the host's decision of a
step.  What the end of a round waits for beside the parked rivals (`rivalBusy`) is the model's choice (assumption log 46), and so is when a rival is idle
(assumption log 49). -/
def Obligations.ScopeEvents : Prop :=
  ∀ (s : State) (x i d jq : Nat),
    (∀ T r, s.runningRival x i = some (T, r) →
      exec (.allowanceExhausted x i) s = .next (if r.allow ≤ r.count then s.modRival x i fun r => { r with parked := true } else s) ∧
      exec (.rivalIdlePark x i) s = .next (if s.allInTrnd T r = true ∨ r.lastIssue + 2 ^ 20 ≤ s.clk then s.modRival x i fun r => { r with parked := true } else s)) ∧
    (s.runningRival x i = none → exec (.allowanceExhausted x i) s = .next s ∧ exec (.rivalIdlePark x i) s = .next s) ∧
    (∀ T, s.tourn? x = some T → exec (.roundEnd x) s = .next (if T.st = 1 ∧ ∀ r ∈ T.rivals, r.live = true → r.still = true ∧ s.rivalBusy T r = false then s.rank T else s)) ∧
    (∀ rs : List Rival, (∀ a ∈ rs, ∀ b ∈ rs, a.idx = b.idx → a = b) → (∀ a ∈ rs, a.st = 1 ∨ a.st = 3) →
      let order := rs.foldr insertRival []
      order.Perm rs ∧ order.Pairwise fun a b => b.beats a = false) ∧
    (∀ a b : Rival, a.st = b.st → (b.score.getD leastScore).slt (a.score.getD leastScore) = true → a.beats b = true ∧ b.beats a = false) ∧
    let C := s.cluster d jq
    (C.jqWait = false ∨ C.jqPause.isSome = true → exec (.jacqRunStart d jq) s = .next s) ∧
    (∀ t, C.jqWait = true → C.jqPause = none → s.jqTry d jq C.jqCtx C.jqPat = (.ran, t) → exec (.jacqRunStart d jq) s = .next t) ∧
    (∀ t page, C.jqWait = true → C.jqPause = none → s.jqTry d jq C.jqCtx C.jqPat = (.paused page, t) →
      exec (.jacqRunStart d jq) s = .next (t.modCluster d jq fun C => { C with jqPause := some page })) ∧
    (∀ D y, s.sample? d jq i = some (D, y) → exec (.jacqHostDecision d jq i) s = .next (if y.phase = 4 ∧ y.elem = 1 then s.hostDecision d jq D y else s))

/-! ## Messages (R260 to R268, R310 to R315, R323 to R327, R349) -/

/-- R263 to R268, R311, R314, R315, R323 to R327, R349: what each message of the fabric does at its receiver.  A request is applied at most once; one
that no route carries or no right admits fails; an answer ends its request.  That READ_SHARED leaves the line in O where a dirty owner answers and in S otherwise
is the model's choice (assumption log 47), and so is how a request that is given up ends (`giveUp`, assumption log 77). -/
def Obligations.MessageEvents : Prop :=
  ∀ (s : State) (m : Msg),
    let seen := s.done.any fun x => sameMsg x.1 m
    let routed := s.reaches m.src m.dst
    let L := s.line m.line
    let hands := (s.force m.src m.core m.line).mergeLine m.line
    let sent := s.reqs.find? fun r => sameMsg r.msg m
    let recs := (sent.map fun r => r.recs).getD []
    let us := (sent.map fun r => r.users).getD []
    let marked (s : State) : State := { s with reqs := modIf (fun r => sameMsg r.msg m) (fun r => { r with applied := true }) s.reqs }
    let fresh := seen = false ∧ s.earlierReq m = false
    let right := m.src = m.dst ∨ s.remoteAllowed m.ctx m.line = true
    let pre := if m.conts.any contReads then s.forceRed m.src m.core m.line else s
    let gone := (pre.done.any fun x => sameMsg x.1 m) || (sent.isSome && !pre.reqs.any fun r => sameMsg r.msg m)
    (∀ i : (Msg → Instr), i ∈ [Instr.store, .accrueDeposit] →
      (routed = false → exec (i m) s = .next (s.giveUp m 3)) ∧
      (routed = true → seen = true → exec (i m) s = .next (s.later s.clk (.storeAck m))) ∧
      (routed = true → seen = false → s.earlierReq m = true → exec (i m) s = .next (s.later (s.clk + 1) (i m))) ∧
      (routed = true → fresh → ¬right → exec (i m) s = .next ((marked s).failReq m .memoryAccess 15)) ∧
      (routed = true → fresh → right → gone = true → exec (i m) s = .next (pre.later s.clk (.storeAck m))) ∧
      (routed = true → fresh → right → gone = false →
        let s1 := marked (pre.applyEntry m.src m.core m.line m.conts us recs)
        exec (i m) s = .next (({ s1 with done := s1.done ++ [(m, [])] } : State).later s.clk (.storeAck m)))) ∧
    (∀ reason, (s.reqs.any fun r => sameMsg r.msg m && r.applied) = false → s.giveUp m reason = s.failReq m .fabric reason) ∧
    (∀ reason, (s.reqs.any fun r => sameMsg r.msg m && r.applied) = true → s.giveUp m reason = s.endReq m) ∧
    (s.losers m.src m.core m.line (m.conts.zip us) = [] → coversLine (m.conts.zip us) = false →
      s.applyEntry m.src m.core m.line m.conts us recs = ((s.applyConts m.src m.core m.line m.conts).uncache m.line).putRecs m.line recs) ∧
    (fresh → ¬right → exec (.atomic m) s = .next (s.failReq m .memoryAccess 15)) ∧
    (fresh → right →
      let s2 := (hands.applyConts m.src m.core m.line m.conts).uncache m.line
      exec (.atomic m) s = .next (if hands.poison.contains m.line then hands.failReq m .uncorrectable 1
        else ({ s2 with done := s2.done ++ [(m, hands.bytes m.line 128)] } : State).later s.clk (.data m))) ∧
    (∀ i : (Msg → Instr), i ∈ [Instr.atomic, .readShared, .readOwn, .upgrade] →
      (seen = true → exec (i m) s = .next (s.later s.clk (.data m))) ∧
      (seen = false → s.earlierReq m = true → exec (i m) s = .next (s.later (s.clk + 1) (i m)))) ∧
    (fresh →
      exec (.readShared m) s = .next ((hands.modLine m.line fun L =>
        { L with st := if L.owner.isSome then .o else .s, sharers := if L.sharers.contains m.holder then L.sharers else L.sharers ++ [m.holder] }).answer m) ∧
      exec (.readOwn m) s = .next ((hands.own m).answer m) ∧
      exec (.upgrade m) s = .next ((if L.sharers.contains m.holder then s.own m else hands.own m).answer m)) ∧
    (∀ t : State, ((t.own m).line m.line).st = .m ∧ ((t.own m).line m.line).owner = some m.holder ∧ ((t.own m).line m.line).sharers = []) ∧
    exec (.storeAck m) s = .next (s.endReq m) ∧ exec (.data m) s = .next (s.endReq m) ∧
    exec (.invalidate m) s = .next ((s.modLine m.line fun L => { L with sharers := L.sharers.filter (· != m.pos) }).later s.clk (.invAck m)) ∧
    (∃ t, exec (.invAck m) s = .next t ∧ m.pos ∉ (t.line m.line).sharers ∧ t.mem = s.mem ∧ ∀ a, a ≠ m.line → t.line a = s.line a) ∧
    (m.src = m.dst ∨ s.remoteAllowed m.ctx m.line = true → ∃ t, exec (.writeback m) s = .next t ∧ (t.line m.line).owner ≠ some m.holder ∧
      t.mem = (s.applyConts m.src m.core m.line m.conts).mem) ∧
    (∃ t, exec (.forcePublish m) s = .next t ∧ t.mem = (((s.publishAll m.dst m.core).drain m.dst).clearRecs m.dst).mem ∧
      ∀ L ∈ t.lines, ∀ r ∈ L.recs, r.dev = m.dst → r.core = m.core → 2 ^ 15 ≤ (m.epoch - r.epoch).toNat) ∧
    (∀ c, s.ctxAt m.path = some c → exec (.notReady m) s = .next (if c.heldAs .adld then s.later (s.clk + 2048) (.adldRetry m.path) else s)) ∧
    (L.st = .a → exec (.accrueEvict m) s = .next (s.modLine m.line fun L =>
      { L with holders := modIf (fun h => h.pos == m.pos) (fun h => { h with home := true }) L.holders })) ∧
    (L.st ≠ .a → exec (.accrueEvict m) s = .next s ∧ exec (.mergeReq m) s = .next s ∧ exec (.mergeData m) s = .next s) ∧
    (L.st = .a → exec (.mergeReq m) s = .next ((s.modLine m.line fun L => { L with merging := some (L.merging.getD s.clk) }).later s.clk (.mergeData m))) ∧
    (L.st = .a → L.merging.isSome = true → (∀ h ∈ L.holders, h.pos = m.pos ∨ h.pos ∈ L.replies) → exec (.mergeData m) s = .next (s.mergeLine m.line))

/-- R259, R261, R262, R264, R265, R435: requests are resent and given up by their counts and times; a flit is accepted in its order, a failed one
asks for a replay, and a message whose tag does not check is discarded with a NACK; a failing link retrains at half its width, is held for the host, or goes
down, and carries traffic again once it is up.  The bit order, initial value and final complement of `crc32` and of the check of `tagOk`, how the flits of one
message join, and what a failed flit had carried (`sentFlit`) are the model's choice (assumption log 89). -/
def Obligations.LinkEvents : Prop :=
  ∀ (s : State) (d n die dst : Nat) (mseq : Word), s.hasDev d = true →
    let l := s.link d n
    (∀ (r : Req) (m : Msg), s.reqs.find? (fun r => sameMsg r.msg m) = some r → exec (.nack m) s = .next (
      if 7 ≤ r.bad then s.giveUp r.msg 2 else (s.dropCopies r.msg).resend r.msg fun r => { r with bad := r.bad + 1 })) ∧
    (∀ r : Req, s.reqs.find? (fun r => r.msg.src == d && r.msg.die == die && r.msg.dst == dst && r.msg.mseq == mseq) = some r →
      exec (.requestTimeout d die dst mseq) s = .next (
        if s.clk < r.at_ + 262144 * 2 ^ max r.width (s.widthOf r.route) then s
        else if 4 ≤ r.tries then s.giveUp r.msg 1
        else s.resend r.msg fun r => { r with tries := r.tries + 1, at_ := s.clk, bad := 0 })) ∧
    (∀ flit : List Byte, ∃ t, exec (.flitReceive d n flit) s = .next t ∧
      (t.link d n).lrx = if flit.length = 256 ∧ crc32 (flit.take 252) = BitVec.ofNat 32 (leNat (flit.drop 252)) ∧ flitSeq flit = l.lrx + 1 then l.lrx + 1 else l.lrx) ∧
    (∀ (flit : List Byte) (x y : Nat), flitOk flit = false → linkPeer d n = some (x, y) →
      exec (.flitReceive d n flit) s = .next ((s.keepFlit d n (s.sentFlit d n)).later s.clk (.flitReplayRequest x y (l.lrx + 1)))) ∧
    (∀ flit : List Byte, let bs := l.rx ++ flit.take 248
      let h := headerOf bs
      flitOk flit = true → flitSeq flit = l.lrx + 1 → 248 * h.nflit ≤ bs.length → h.dst = d → tagOk bs = false →
      ∃ t, exec (.flitReceive d n flit) s = .next t ∧ (t.link d n).rx = [] ∧
        ∀ r, s.reqs.find? (fun r => r.msg.src == h.src && r.msg.die == h.die && r.msg.dst == h.dst && r.msg.mseq == h.mseq) = some r → r.bad < 7 →
          ∃ q ∈ t.reqs, sameMsg q.msg r.msg = true ∧ q.bad = r.bad + 1 ∧ q.tries = r.tries) ∧
    (∀ lseq : BitVec 16, ∃ t, exec (.flitReplayRequest d n lseq) s = .next t ∧ (t.link d n).lack = lseq - 1 ∧ (t.link d n).tries = l.tries + 1 ∧
      (∀ x, x ∈ (t.link d n).replay ↔ x ∈ l.replay ∧ 2 ^ 15 ≤ (lseq - 1 - flitSeq x).toNat) ∧
      ∀ x y, linkPeer d n = some (x, y) → t.agenda = s.agenda ++ (t.link d n).replay.map fun b => (s.clk, Instr.flitReceive x y b)) ∧
    (l.up = false → exec (.laneFailure d n) s = .next s) ∧
    (l.up = true → ∃ t, exec (.laneFailure d n) s = .next t ∧
      (s.modeBit d 0 3 = true → (t.link d n).waits = true ∧ (t.link d n).width = l.width) ∧
      (s.modeBit d 0 3 = false → l.width < 2 → (t.link d n).width = l.width + 1 ∧ (t.link d n).retrain = some (s.clk + 65536) ∧ (t.link d n).up = true) ∧
      (s.modeBit d 0 3 = false → 2 ≤ l.width → (t.link d n).up = false ∧ (t.link d n).replay = [])) ∧
    (∃ t, exec (.retrainComplete d n) s = .next t ∧ t.link d n = { l with retrain := none }) ∧
    (l.waits = false → exec (.linkNarrow d n) s = .next s ∧ exec (.linkDown d n) s = .next s) ∧
    (l.waits = true → ∃ t u, exec (.linkNarrow d n) s = .next t ∧ t.link d n = l.narrower s.clk ∧ exec (.linkDown d n) s = .next u ∧
      (u.link d n).up = false ∧ (u.link d n).waits = false) ∧
    ∃ t, exec (.linkUp d n) s = .next t ∧ (t.link d n).up = true ∧ (l.up = false → (t.link d n).width = 0)

/-! ## The host, errors and the life of a device (R199, R201, R415, R417, R431 to R440) -/

/-- R199, R201, R415, R417, R431 to R440: the host's register and memory accesses, storage errors, sleep and wake, and the states that a device goes
through from RESET to READY; a GO command word writes its staged draft to the context's draft table, with status 0 and GO cleared.  That the counters of a
storage kind are words 2 k and 2 k + 1 is the model's choice (assumption log 9), and so is that FABRIC_TRAINED gives the device the number of its DEVID register
(assumption log 54). -/
def Obligations.HostEvents : Prop :=
  ∀ (s : State) (d : Nat), s.hasDev d = true →
    let D := s.dev d
    let ram (a : Nat) : Bool := devOf a == d && (zoneOf (localOf a) == .hbm || zoneOf (localOf a) == .tier2)
    (∀ k, ∃ t, exec (.correctableError d k) s = .next t ∧ Sparse.get (t.dev d).err (2 * storageNo k) = Sparse.get D.err (2 * storageNo k) + 1 ∧ t.mem = s.mem) ∧
    (∀ a, let s1 := s.modDev d fun D => { D with err := Sparse.put D.err 1 (Sparse.get D.err 1 + 1) }
      ∀ G, s.group? a = some G → G.dev = d →
        exec (.uncorrectableError d .core a) s = .next (s1.takeTrap a { cls := .uncorrectable, reason := 2, precise := false })) ∧
    (∀ a, ∃ t, exec (.uncorrectableError d .hbm a) s = .next t ∧ t.poison.contains (lineOf a) = true ∧ t.mem = s.mem) ∧
    (∀ a, let x := lineOf a
      ((s.line x).st ≠ .a → ∃ t, exec (.uncorrectableError d .dirtyLine a) s = .next t ∧ t.poison.contains x = true ∧ t.mem = s.mem) ∧
      ((s.line x).st = .a → ∃ t, exec (.uncorrectableError d .dirtyLine a) s = .next t ∧ t.poison = s.poison ∧ t.mem = s.mem ∧
        ∀ h ∈ (t.line x).holders, (t.line x).holderDev h.pos = d → h.lost = true)) ∧
    (∀ a, ∃ t, exec (.uncorrectableError d .directory a) s = .next t ∧ (t.dev d).st = 8) ∧
    (∃ t, exec (.thermalTrip d) s = .next t ∧ (t.dev d).st = 8 ∧ t.msix = s.msix ++ [(d, 0)] ∧ t.mem = s.mem) ∧
    (∀ down, ∃ t, exec (.clockThrottleStep d down) s = .next t ∧ (t.dev d).mhz = (if down then D.mhz - 100 else min 1100 (D.mhz + 100)) ∧ t.clk = s.clk ∧ t.mem = s.mem) ∧
    (D.st = 6 → exec (.sleepRequest d) s = .next (((((s.cores.filter fun k => k.dev == d).foldl (fun s k => s.publishAll k.dev k.n) s).drain d).mergeAll d).modDev d fun D => { D with st := 7 })) ∧ (D.st ≠ 6 → exec (.sleepRequest d) s = .next s) ∧
    (D.st = 7 → ∃ t u, exec (.wakeKeep d) s = .next t ∧ (t.dev d).st = 6 ∧ (t.dev d).l2gen = D.l2gen + 1 ∧ exec (.wakeDiscard d) s = .next u ∧
      (u.dev d).st = 6 ∧ (u.dev d).l2gen = D.l2gen + 1 ∧ (u.dev d).l2floor = D.l2gen + 1 ∧ t.mem = s.mem ∧ u.mem = s.mem) ∧
    (D.st ≠ 7 → exec (.wakeKeep d) s = .next s ∧ exec (.wakeDiscard d) s = .next s) ∧
    (∃ t, exec (.reset d) s = .next t ∧ ((t.dev d).st = 1 ∨ (t.dev d).st = 2) ∧ (t.dev d).rten = false ∧ (t.dev d).root = [] ∧ (t.dev d).rwbase = 0 ∧
      (∀ G ∈ t.groups, G.dev ≠ d) ∧ (∀ R ∈ t.regions, R.dev ≠ d) ∧ (∀ C ∈ t.ctxs, C.dev ≠ d) ∧ (∀ x ∈ t.devs, x.id ≠ d → x ∈ s.devs)) ∧
    (D.st = 2 → ∃ t, exec (.memoryTrained d) s = .next t ∧ (t.dev d).st = 3 ∧ (∀ a, ram a = true → t.byte a = 0) ∧ ∀ a, ram a = false → t.byte a = s.byte a) ∧
    (∀ gen, D.st = 3 → ∃ t, exec (.hostLinkTrained d gen) s = .next t ∧ (t.dev d).st = 4 ∧ (t.dev d).gen = some gen) ∧
    (D.st = 4 → D.named = true → D.devid = d → ∃ t, exec (.fabricTrained d) s = .next t ∧ (t.dev d).st = 5 ∧ t.mem = s.mem) ∧
    (D.st = 4 → D.named = true → D.devid ≠ d → s.hasDev D.devid = false → ∃ t, exec (.fabricTrained d) s = .next t ∧ t.hasDev D.devid = true ∧
      (t.dev D.devid).st = 5) ∧
    (D.st = 4 → D.devid ≠ d → s.hasDev D.devid = true → exec (.fabricTrained d) s = .next s) ∧
    (D.st = 4 → D.named = false → exec (.fabricTrained d) s = .next s) ∧
    (D.st = 5 → (s.nextCycle.dev d).st = 6) ∧
    (D.st ≠ 2 → exec (.memoryTrained d) s = .next s) ∧ (∀ gen, D.st ≠ 3 → exec (.hostLinkTrained d gen) s = .next s) ∧ (D.st ≠ 4 → exec (.fabricTrained d) s = .next s) ∧
    (∃ t, exec (.attestRequest d) s = .next t ∧ Sparse.range (t.dev d).attest 0xFF0 8 = List.replicate 8 0 ∧
      Sparse.range (t.dev d).attest 0x100 64 = Sparse.range D.attest 0 64) ∧
    (∀ slot byHost, let w := leNat (Sparse.range D.draftq (128 * slot) 4)
      (D.st ≠ 6 ∨ w.testBit 31 = false → exec (.draftWrite d slot byHost) s = .next s) ∧
      (D.st = 6 → w.testBit 31 = true → s.modeBit d (w / 2 ^ 16 % 2 ^ 12) 2 ≠ byHost →
        ∃ t, exec (.draftWrite d slot byHost) s = .next t ∧ leNat (Sparse.range (t.dev d).draftq (128 * slot) 4) = w % 2 ^ 29 + 2 ^ 29 ∧ t.mem = s.mem) ∧
      (D.st = 6 → w.testBit 31 = true → s.modeBit d (w / 2 ^ 16 % 2 ^ 12) 2 = byHost →
        let k := w / 2 ^ 16 % 2 ^ 12
        let va := (s.ctx d k).dtbase + BitVec.ofNat 64 (64 * (w % 2 ^ 16))
        let takes (s : State) (x : Xlat) : Bool := pteW x.pte && !s.unmapped x.pa && !s.refused d k x.pa
        let staged := Sparse.range D.draftq (128 * slot + 0x40) 64
        let run := s.access d k va true (takes s)
        (∀ e s1, run = (.error e, s1) → exec (.draftWrite d slot byHost) s = .next (s1.draftStatus d slot 2)) ∧
        (∀ x s1, run = (.ok x, s1) → exec (.draftWrite d slot byHost) s = .next (
          if takes s1 x then (((s1.settleHome d x.pa).setBytes x.pa staged).uncache (lineOf x.pa)).draftStatus d slot 0 else s1.draftStatus d slot 2)) ∧
        (∀ e, s.tlbHit d k va = some e → pteA e.pte = true → pteD e.pte = true →
          let x := xlatOf va e.bits e.pte e.at_
          takes s x = true → (s.line (lineOf x.pa)).st ≠ .a → (s.line (lineOf x.pa)).recs = [] → Memory.wf s.mem = true →
          ∃ t, exec (.draftWrite d slot byHost) s = .next t ∧ t.bytes x.pa 64 = staged ∧ (∀ a, (a < x.pa ∨ x.pa + 64 ≤ a) → t.byte a = s.byte a) ∧
            leNat (Sparse.range (t.dev d).draftq (128 * slot) 4) = w % 2 ^ 29))) ∧
    (∀ v : DWord, ∃ t, exec (.mmioRegisterWrite d 0x18 8 v true) s = .next t ∧ (t.dev d).rwbase = v) ∧
    (∀ (k : Nat) (v : DWord), k < 512 → D.st = 6 → ∃ t, exec (.mmioRegisterWrite d (0x10000 + 8 * k) 8 v true) s = .next t ∧ Sparse.get (t.dev d).root k = v ∧ t.mem = s.mem) ∧
    (∀ a w n, D.st < 4 ∨ 6 < D.st → exec (.hostMemoryAccess d a w n) s = .next s) ∧
    ∀ a (b : Byte), 4 ≤ D.st → D.st ≤ 6 → a < 2 ^ 42 → zoneOf a = .hbm → Memory.wf s.mem = true →
      (∀ x ∈ s.lines, x.addr ≠ lineOf (d * 2 ^ 44 + a)) →
      ∃ t, exec (.hostMemoryAccess d a [b] 0) s = .next t ∧ t.byte (d * 2 ^ 44 + a) = b ∧ ∀ x, x ≠ d * 2 ^ 44 + a → t.byte x = s.byte x


end Slice0Obligations
end

