-- ==== Sys2Proof/Laws/Sparse.lean ====
section
/-! SUPPORT. Sys2Proof/Laws/Sparse.lean: what every operation on a sparse map does to its reads and to its canonical form. -/

namespace Sys2Proof.Machine

variable {w : Nat}

@[simp] theorem Sparse.get_nil (n : Nat) : Sparse.get ([] : Sparse w) n = 0 := rfl

/-- A key below every listed key is not listed. -/
theorem Sparse.get_of_wfFrom {m : Sparse w} {k n : Nat} (h : Sparse.wfFrom k m = true) (hn : n < k) : Sparse.get m n = 0 := by
  induction m generalizing k with
  | nil => rfl
  | cons x m ih =>
    simp only [Sparse.wfFrom, Bool.and_eq_true, decide_eq_true_eq, bne_iff_ne, ne_eq, BitVec.ofNat_eq_ofNat] at h
    have hx : n ≠ x.1 := by omega
    simpa [Sparse.get, hx] using ih h.2 (by omega)

theorem Sparse.wfFrom_mono {m : Sparse w} {k n : Nat} (h : Sparse.wfFrom k m = true) (hn : n ≤ k) : Sparse.wfFrom n m = true := by
  cases m with
  | nil => rfl
  | cons x m =>
    simp only [Sparse.wfFrom, Bool.and_eq_true, decide_eq_true_eq, bne_iff_ne, ne_eq, BitVec.ofNat_eq_ofNat] at h ⊢
    exact ⟨⟨by omega, h.1.2⟩, h.2⟩

theorem Sparse.wfFrom_set {m : Sparse w} {k n : Nat} (h : Sparse.wfFrom k m = true) (hn : k ≤ n) (x : BitVec w) :
    Sparse.wfFrom k (Sparse.set m n x) = true := by
  induction m generalizing k with
  | nil => by_cases hx : x = 0#w <;> simp [Sparse.set, Sparse.wfFrom, hx, hn]
  | cons y m ih =>
    obtain ⟨j, v⟩ := y
    simp only [Sparse.wfFrom, Bool.and_eq_true, decide_eq_true_eq, bne_iff_ne, ne_eq, BitVec.ofNat_eq_ofNat] at h
    obtain ⟨⟨hj, hv⟩, hm⟩ := h
    simp only [Sparse.set]
    by_cases h1 : n < j
    · by_cases hx : x = 0#w
      · simp [h1, hx, Sparse.wfFrom, hj, hv, hm]
      · simp [h1, hx, Sparse.wfFrom, hn, hv, hm, Nat.succ_le_iff]
    · by_cases h2 : n = j
      · subst h2
        by_cases hx : x = 0#w
        · simpa [hx] using Sparse.wfFrom_mono hm (by omega)
        · simp [hx, Sparse.wfFrom, hn, hm]
      · have := ih hm (by omega)
        simp [h1, h2, Sparse.wfFrom, hj, hv, this]

/-- Storing a word keeps the canonical form. -/
theorem Sparse.wf_set {m : Sparse w} (h : Sparse.wf m = true) (n : Nat) (x : BitVec w) : Sparse.wf (Sparse.set m n x) = true :=
  Sparse.wfFrom_set h (Nat.zero_le n) x

/-- Storing consecutive words keeps the canonical form. -/
theorem Sparse.wf_setRange {m : Sparse w} (h : Sparse.wf m = true) (k : Nat) (xs : List (BitVec w)) :
    Sparse.wf (Sparse.setRange m k xs) = true := by
  induction xs generalizing m k with
  | nil => exact h
  | cons x xs ih => exact ih (Sparse.wf_set h k x) (k + 1)

theorem Sparse.wfFrom_drop {m : Sparse w} {k : Nat} (h : Sparse.wfFrom k m = true) (p : Nat → Bool) :
    Sparse.wfFrom k (Sparse.drop m p) = true := by
  induction m generalizing k with
  | nil => rfl
  | cons y m ih =>
    simp only [Sparse.wfFrom, Bool.and_eq_true, decide_eq_true_eq, bne_iff_ne, ne_eq, BitVec.ofNat_eq_ofNat] at h
    have hm := ih h.2
    unfold Sparse.drop at hm ⊢
    by_cases hp : p y.1 = true
    · simpa [hp] using Sparse.wfFrom_mono hm (by omega)
    · simpa [hp, Sparse.wfFrom, h.1.1, h.1.2] using hm

/-- Removing entries keeps the canonical form. -/
theorem Sparse.wf_drop {m : Sparse w} (h : Sparse.wf m = true) (p : Nat → Bool) : Sparse.wf (Sparse.drop m p) = true :=
  Sparse.wfFrom_drop h p

/-- Any list of entries has a canonical form. -/
theorem Sparse.wf_canon (m : Sparse w) : Sparse.wf (Sparse.canon m) = true := by
  induction m with
  | nil => rfl
  | cons x m ih => exact Sparse.wf_set ih x.1 x.2

/-- A word reads back as it was stored, and every other word as before. -/
theorem Sparse.get_set {m : Sparse w} (h : Sparse.wf m = true) (n k : Nat) (x : BitVec w) :
    Sparse.get (Sparse.set m n x) k = if k = n then x else Sparse.get m k := by
  suffices H : ∀ (m : Sparse w) (j : Nat), Sparse.wfFrom j m = true →
      Sparse.get (Sparse.set m n x) k = if k = n then x else Sparse.get m k from H m 0 h
  intro m
  induction m with
  | nil =>
    intro j _
    by_cases hx : x = 0#w <;> by_cases hk : k = n <;> simp [Sparse.set, Sparse.get, hx, hk]
  | cons y m ih =>
    intro j hj
    obtain ⟨a, v⟩ := y
    simp only [Sparse.wfFrom, Bool.and_eq_true, decide_eq_true_eq, bne_iff_ne, ne_eq, BitVec.ofNat_eq_ofNat] at hj
    have hm := hj.2
    simp only [Sparse.set]
    by_cases h1 : n < a
    · by_cases hx : x = 0#w
      · by_cases hk : k = n
        · have hka : k ≠ a := by omega
          have : Sparse.get m k = 0 := Sparse.get_of_wfFrom hm (by omega)
          subst hk; simp [h1, hx, Sparse.get, hka, this]
        · simp [h1, hx, hk, Sparse.get]
      · by_cases hk : k = n <;> simp [h1, hx, hk, Sparse.get]
    · by_cases h2 : n = a
      · subst h2
        by_cases hk : k = n
        · by_cases hx : x = 0#w
          · have : Sparse.get m k = 0 := Sparse.get_of_wfFrom hm (by omega)
            simp [hx, hk, hk ▸ this]
          · simp [hx, hk, Sparse.get]
        · by_cases hx : x = 0#w <;> simp [hx, hk, Sparse.get]
      · by_cases hk : k = a
        · have : k ≠ n := by omega
          have : a ≠ n := by omega
          simp [h1, h2, hk, this, Sparse.get]
        · simp [h1, h2, hk, Sparse.get, ih _ hm]

@[simp] theorem Sparse.get_set_same {m : Sparse w} (h : Sparse.wf m = true) (n : Nat) (x : BitVec w) : Sparse.get (Sparse.set m n x) n = x := by
  simp [Sparse.get_set h]

theorem Sparse.get_set_other {m : Sparse w} (h : Sparse.wf m = true) {n k : Nat} (hk : k ≠ n) (x : BitVec w) :
    Sparse.get (Sparse.set m n x) k = Sparse.get m k := by
  simp [Sparse.get_set h, hk]

/-- The words stored in a range read back; the others stay. -/
theorem Sparse.get_setRange {m : Sparse w} (h : Sparse.wf m = true) (a k : Nat) (xs : List (BitVec w)) :
    Sparse.get (Sparse.setRange m a xs) k = if a ≤ k ∧ k < a + xs.length then xs.getD (k - a) 0 else Sparse.get m k := by
  induction xs generalizing m a with
  | nil => rw [if_neg (by simp only [List.length_nil]; omega)]; rfl
  | cons x xs ih =>
    rw [Sparse.setRange, ih (Sparse.wf_set h a x), Sparse.get_set h, List.length_cons]
    by_cases h1 : k = a
    · subst h1
      rw [if_neg (by omega), if_pos rfl, if_pos (by omega), Nat.sub_self]; rfl
    · by_cases h2 : a ≤ k ∧ k < a + (xs.length + 1)
      · rw [if_pos (by omega), if_pos h2, show k - a = (k - (a + 1)) + 1 by omega]; rfl
      · rw [if_neg (by omega), if_neg h1, if_neg h2]

/-- The canonical form reads as the list did. -/
theorem Sparse.get_canon (m : Sparse w) (k : Nat) : Sparse.get (Sparse.canon m) k = Sparse.get m k := by
  induction m with
  | nil => rfl
  | cons x m ih =>
    show Sparse.get (Sparse.set (Sparse.canon m) x.1 x.2) k = _
    rw [Sparse.get_set (Sparse.wf_canon m), ih]
    obtain ⟨a, v⟩ := x
    by_cases hk : k = a <;> simp [Sparse.get, hk]

/-- Removed words read zero, the others as before. -/
theorem Sparse.get_drop (m : Sparse w) (p : Nat → Bool) (k : Nat) :
    Sparse.get (Sparse.drop m p) k = if p k then 0 else Sparse.get m k := by
  induction m with
  | nil => simp [Sparse.drop]
  | cons x m ih =>
    obtain ⟨a, v⟩ := x
    unfold Sparse.drop at ih ⊢
    by_cases hp : p a = true <;> by_cases hk : k = a <;> simp_all [Sparse.get]

/-- A key that is not listed reads zero. -/
theorem Sparse.get_of_forall {m : Sparse w} {n : Nat} (h : ∀ x ∈ m, x.1 ≠ n) : Sparse.get m n = 0 := by
  induction m with
  | nil => rfl
  | cons x m ih =>
    have hx : n ≠ x.1 := fun e => h x (by simp) e.symm
    simpa [Sparse.get, hx] using ih fun y hy => h y (by simp [hy])

/-- A word put into any map reads back, and every other word as before. -/
theorem Sparse.get_put (m : Sparse w) (n k : Nat) (x : BitVec w) :
    Sparse.get (Sparse.put m n x) k = if k = n then x else Sparse.get m k := by
  have key : ∀ m : Sparse w, (∀ y ∈ m, y.1 ≠ n) → Sparse.get (Sparse.set m n x) k = if k = n then x else Sparse.get m k := by
    intro m
    induction m with
    | nil =>
      intro _
      by_cases hx : x = 0#w <;> by_cases hk : k = n <;> simp [Sparse.set, Sparse.get, hx, hk]
    | cons y m ih =>
      intro hm
      obtain ⟨a, v⟩ := y
      have ha : a ≠ n := hm (a, v) (by simp)
      have ih := ih fun y hy => hm y (by simp [hy])
      have h0 : Sparse.get m n = 0 := Sparse.get_of_forall fun y hy => hm y (by simp [hy])
      simp only [Sparse.set]
      by_cases h1 : n < a
      · by_cases hx : x = 0#w
        · by_cases hk : k = n
          · subst hk; simp [h1, hx, Sparse.get, h0, ha.symm]
          · simp [h1, hx, hk]
        · by_cases hk : k = n <;> simp [h1, hx, hk, Sparse.get]
      · by_cases hk : k = a
        · subst hk; simp [h1, ha, ha.symm, Sparse.get]
        · simp [h1, ha.symm, hk, Sparse.get, ih]
  rw [Sparse.put, key _ (fun y hy => by simpa using (List.mem_filter.mp hy).2), Sparse.get_drop]
  by_cases hk : k = n <;> simp [hk]

/-- Putting a word keeps the canonical form. -/
theorem Sparse.wf_put {m : Sparse w} (h : Sparse.wf m = true) (n : Nat) (x : BitVec w) : Sparse.wf (Sparse.put m n x) = true :=
  Sparse.wf_set (Sparse.wf_drop h _) n x

theorem Sparse.wf_putRange {m : Sparse w} (h : Sparse.wf m = true) (k : Nat) (xs : List (BitVec w)) :
    Sparse.wf (Sparse.putRange m k xs) = true := by
  induction xs generalizing m k with
  | nil => exact h
  | cons x xs ih => exact ih (Sparse.wf_put h k x) (k + 1)

/-- Reading a map after consecutive words were put into it. -/
theorem Sparse.get_putRange (m : Sparse w) (a k : Nat) (xs : List (BitVec w)) :
    Sparse.get (Sparse.putRange m a xs) k = if a ≤ k ∧ k < a + xs.length then xs.getD (k - a) 0 else Sparse.get m k := by
  induction xs generalizing m a with
  | nil => rw [if_neg (by simp only [List.length_nil]; omega)]; rfl
  | cons x xs ih =>
    rw [Sparse.putRange, ih, Sparse.get_put, List.length_cons]
    by_cases h1 : k = a
    · subst h1
      rw [if_neg (by omega), if_pos rfl, if_pos (by omega), Nat.sub_self]; rfl
    · by_cases h2 : a ≤ k ∧ k < a + (xs.length + 1)
      · rw [if_pos (by omega), if_pos h2, show k - a = (k - (a + 1)) + 1 by omega]; rfl
      · rw [if_neg (by omega), if_neg h1, if_neg h2]

/-- A canonical map is its own canonical form. -/
theorem Sparse.canon_of_wf {m : Sparse w} (h : Sparse.wf m = true) : Sparse.canon m = m := by
  suffices H : ∀ (m : Sparse w) (j : Nat), Sparse.wfFrom j m = true → Sparse.canon m = m from H m 0 h
  intro m
  induction m with
  | nil => intro _ _; rfl
  | cons y m ih =>
    intro j hj
    obtain ⟨a, v⟩ := y
    simp only [Sparse.wfFrom, Bool.and_eq_true, decide_eq_true_eq, bne_iff_ne, ne_eq, BitVec.ofNat_eq_ofNat] at hj
    show Sparse.set (Sparse.canon m) a v = _
    rw [ih _ hj.2]
    have hv : ¬v = 0#w := hj.1.2
    cases m with
    | nil => simp [Sparse.set, hv]
    | cons z m =>
      have hz := hj.2
      simp only [Sparse.wfFrom, Bool.and_eq_true, decide_eq_true_eq, bne_iff_ne, ne_eq, BitVec.ofNat_eq_ofNat] at hz
      have : a < z.1 := by omega
      simp [Sparse.set, hv, this]

end Sys2Proof.Machine
end

