-- ==== Sys2Proof/Laws/State.lean ====
section
/-! SUPPORT. Sys2Proof/Laws/State.lean: what each named update of the state leaves alone, field by field. -/

namespace Sys2Proof.Machine

variable (s : State)

/-! ## modGroup -/

@[simp] theorem State.modGroup_clk (g : Nat) (f : Group → Group) : (s.modGroup g f).clk = s.clk := rfl
@[simp] theorem State.modGroup_sched (g : Nat) (f : Group → Group) : (s.modGroup g f).sched = s.sched := rfl
@[simp] theorem State.modGroup_rr (g : Nat) (f : Group → Group) : (s.modGroup g f).rr = s.rr := rfl
@[simp] theorem State.modGroup_inputs (g : Nat) (f : Group → Group) : (s.modGroup g f).inputs = s.inputs := rfl
@[simp] theorem State.modGroup_agenda (g : Nat) (f : Group → Group) : (s.modGroup g f).agenda = s.agenda := rfl
@[simp] theorem State.modGroup_issuer (g : Nat) (f : Group → Group) : (s.modGroup g f).issuer = s.issuer := rfl
@[simp] theorem State.modGroup_tick (g : Nat) (f : Group → Group) : (s.modGroup g f).tick = s.tick := rfl
@[simp] theorem State.modGroup_uid (g : Nat) (f : Group → Group) : (s.modGroup g f).uid = s.uid := rfl
@[simp] theorem State.modGroup_mem (g : Nat) (f : Group → Group) : (s.modGroup g f).mem = s.mem := rfl
@[simp] theorem State.modGroup_poison (g : Nat) (f : Group → Group) : (s.modGroup g f).poison = s.poison := rfl
@[simp] theorem State.modGroup_devs (g : Nat) (f : Group → Group) : (s.modGroup g f).devs = s.devs := rfl
@[simp] theorem State.modGroup_ctxs (g : Nat) (f : Group → Group) : (s.modGroup g f).ctxs = s.ctxs := rfl
@[simp] theorem State.modGroup_tlb (g : Nat) (f : Group → Group) : (s.modGroup g f).tlb = s.tlb := rfl
@[simp] theorem State.modGroup_lines (g : Nat) (f : Group → Group) : (s.modGroup g f).lines = s.lines := rfl
@[simp] theorem State.modGroup_cores (g : Nat) (f : Group → Group) : (s.modGroup g f).cores = s.cores := rfl
@[simp] theorem State.modGroup_clusters (g : Nat) (f : Group → Group) : (s.modGroup g f).clusters = s.clusters := rfl
@[simp] theorem State.modGroup_regions (g : Nat) (f : Group → Group) : (s.modGroup g f).regions = s.regions := rfl
@[simp] theorem State.modGroup_tourns (g : Nat) (f : Group → Group) : (s.modGroup g f).tourns = s.tourns := rfl
@[simp] theorem State.modGroup_units (g : Nat) (f : Group → Group) : (s.modGroup g f).units = s.units := rfl
@[simp] theorem State.modGroup_deliveries (g : Nat) (f : Group → Group) : (s.modGroup g f).deliveries = s.deliveries := rfl
@[simp] theorem State.modGroup_reqs (g : Nat) (f : Group → Group) : (s.modGroup g f).reqs = s.reqs := rfl
@[simp] theorem State.modGroup_casts (g : Nat) (f : Group → Group) : (s.modGroup g f).casts = s.casts := rfl
@[simp] theorem State.modGroup_done (g : Nat) (f : Group → Group) : (s.modGroup g f).done = s.done := rfl
@[simp] theorem State.modGroup_mseq (g : Nat) (f : Group → Group) : (s.modGroup g f).mseq = s.mseq := rfl
@[simp] theorem State.modGroup_msix (g : Nat) (f : Group → Group) : (s.modGroup g f).msix = s.msix := rfl
@[simp] theorem State.modGroup_dfault (g : Nat) (f : Group → Group) : (s.modGroup g f).dfault = s.dfault := rfl
@[simp] theorem State.modGroup_dstalls (g : Nat) (f : Group → Group) : (s.modGroup g f).dstalls = s.dstalls := rfl
@[simp] theorem State.modGroup_storing (g : Nat) (f : Group → Group) : (s.modGroup g f).storing = s.storing := rfl

/-! ## modParty -/

@[simp] theorem State.modParty_clk (u : Nat) (f : Party → Party) : (s.modParty u f).clk = s.clk := rfl
@[simp] theorem State.modParty_sched (u : Nat) (f : Party → Party) : (s.modParty u f).sched = s.sched := rfl
@[simp] theorem State.modParty_rr (u : Nat) (f : Party → Party) : (s.modParty u f).rr = s.rr := rfl
@[simp] theorem State.modParty_inputs (u : Nat) (f : Party → Party) : (s.modParty u f).inputs = s.inputs := rfl
@[simp] theorem State.modParty_agenda (u : Nat) (f : Party → Party) : (s.modParty u f).agenda = s.agenda := rfl
@[simp] theorem State.modParty_issuer (u : Nat) (f : Party → Party) : (s.modParty u f).issuer = s.issuer := rfl
@[simp] theorem State.modParty_tick (u : Nat) (f : Party → Party) : (s.modParty u f).tick = s.tick := rfl
@[simp] theorem State.modParty_uid (u : Nat) (f : Party → Party) : (s.modParty u f).uid = s.uid := rfl
@[simp] theorem State.modParty_mem (u : Nat) (f : Party → Party) : (s.modParty u f).mem = s.mem := rfl
@[simp] theorem State.modParty_poison (u : Nat) (f : Party → Party) : (s.modParty u f).poison = s.poison := rfl
@[simp] theorem State.modParty_devs (u : Nat) (f : Party → Party) : (s.modParty u f).devs = s.devs := rfl
@[simp] theorem State.modParty_ctxs (u : Nat) (f : Party → Party) : (s.modParty u f).ctxs = s.ctxs := rfl
@[simp] theorem State.modParty_tlb (u : Nat) (f : Party → Party) : (s.modParty u f).tlb = s.tlb := rfl
@[simp] theorem State.modParty_lines (u : Nat) (f : Party → Party) : (s.modParty u f).lines = s.lines := rfl
@[simp] theorem State.modParty_cores (u : Nat) (f : Party → Party) : (s.modParty u f).cores = s.cores := rfl
@[simp] theorem State.modParty_clusters (u : Nat) (f : Party → Party) : (s.modParty u f).clusters = s.clusters := rfl
@[simp] theorem State.modParty_regions (u : Nat) (f : Party → Party) : (s.modParty u f).regions = s.regions := rfl
@[simp] theorem State.modParty_tourns (u : Nat) (f : Party → Party) : (s.modParty u f).tourns = s.tourns := rfl
@[simp] theorem State.modParty_groups (u : Nat) (f : Party → Party) : (s.modParty u f).groups = s.groups := rfl
@[simp] theorem State.modParty_deliveries (u : Nat) (f : Party → Party) : (s.modParty u f).deliveries = s.deliveries := rfl
@[simp] theorem State.modParty_reqs (u : Nat) (f : Party → Party) : (s.modParty u f).reqs = s.reqs := rfl
@[simp] theorem State.modParty_casts (u : Nat) (f : Party → Party) : (s.modParty u f).casts = s.casts := rfl
@[simp] theorem State.modParty_done (u : Nat) (f : Party → Party) : (s.modParty u f).done = s.done := rfl
@[simp] theorem State.modParty_mseq (u : Nat) (f : Party → Party) : (s.modParty u f).mseq = s.mseq := rfl
@[simp] theorem State.modParty_msix (u : Nat) (f : Party → Party) : (s.modParty u f).msix = s.msix := rfl
@[simp] theorem State.modParty_dfault (u : Nat) (f : Party → Party) : (s.modParty u f).dfault = s.dfault := rfl
@[simp] theorem State.modParty_dstalls (u : Nat) (f : Party → Party) : (s.modParty u f).dstalls = s.dstalls := rfl
@[simp] theorem State.modParty_storing (u : Nat) (f : Party → Party) : (s.modParty u f).storing = s.storing := rfl

/-! ## modDev -/

@[simp] theorem State.modDev_clk (d : Nat) (f : Device → Device) : (s.modDev d f).clk = s.clk := rfl
@[simp] theorem State.modDev_sched (d : Nat) (f : Device → Device) : (s.modDev d f).sched = s.sched := rfl
@[simp] theorem State.modDev_rr (d : Nat) (f : Device → Device) : (s.modDev d f).rr = s.rr := rfl
@[simp] theorem State.modDev_inputs (d : Nat) (f : Device → Device) : (s.modDev d f).inputs = s.inputs := rfl
@[simp] theorem State.modDev_agenda (d : Nat) (f : Device → Device) : (s.modDev d f).agenda = s.agenda := rfl
@[simp] theorem State.modDev_issuer (d : Nat) (f : Device → Device) : (s.modDev d f).issuer = s.issuer := rfl
@[simp] theorem State.modDev_tick (d : Nat) (f : Device → Device) : (s.modDev d f).tick = s.tick := rfl
@[simp] theorem State.modDev_uid (d : Nat) (f : Device → Device) : (s.modDev d f).uid = s.uid := rfl
@[simp] theorem State.modDev_mem (d : Nat) (f : Device → Device) : (s.modDev d f).mem = s.mem := rfl
@[simp] theorem State.modDev_poison (d : Nat) (f : Device → Device) : (s.modDev d f).poison = s.poison := rfl
@[simp] theorem State.modDev_ctxs (d : Nat) (f : Device → Device) : (s.modDev d f).ctxs = s.ctxs := rfl
@[simp] theorem State.modDev_tlb (d : Nat) (f : Device → Device) : (s.modDev d f).tlb = s.tlb := rfl
@[simp] theorem State.modDev_lines (d : Nat) (f : Device → Device) : (s.modDev d f).lines = s.lines := rfl
@[simp] theorem State.modDev_cores (d : Nat) (f : Device → Device) : (s.modDev d f).cores = s.cores := rfl
@[simp] theorem State.modDev_clusters (d : Nat) (f : Device → Device) : (s.modDev d f).clusters = s.clusters := rfl
@[simp] theorem State.modDev_regions (d : Nat) (f : Device → Device) : (s.modDev d f).regions = s.regions := rfl
@[simp] theorem State.modDev_tourns (d : Nat) (f : Device → Device) : (s.modDev d f).tourns = s.tourns := rfl
@[simp] theorem State.modDev_units (d : Nat) (f : Device → Device) : (s.modDev d f).units = s.units := rfl
@[simp] theorem State.modDev_groups (d : Nat) (f : Device → Device) : (s.modDev d f).groups = s.groups := rfl
@[simp] theorem State.modDev_deliveries (d : Nat) (f : Device → Device) : (s.modDev d f).deliveries = s.deliveries := rfl
@[simp] theorem State.modDev_reqs (d : Nat) (f : Device → Device) : (s.modDev d f).reqs = s.reqs := rfl
@[simp] theorem State.modDev_casts (d : Nat) (f : Device → Device) : (s.modDev d f).casts = s.casts := rfl
@[simp] theorem State.modDev_done (d : Nat) (f : Device → Device) : (s.modDev d f).done = s.done := rfl
@[simp] theorem State.modDev_mseq (d : Nat) (f : Device → Device) : (s.modDev d f).mseq = s.mseq := rfl
@[simp] theorem State.modDev_msix (d : Nat) (f : Device → Device) : (s.modDev d f).msix = s.msix := rfl
@[simp] theorem State.modDev_dfault (d : Nat) (f : Device → Device) : (s.modDev d f).dfault = s.dfault := rfl
@[simp] theorem State.modDev_dstalls (d : Nat) (f : Device → Device) : (s.modDev d f).dstalls = s.dstalls := rfl
@[simp] theorem State.modDev_storing (d : Nat) (f : Device → Device) : (s.modDev d f).storing = s.storing := rfl

/-! ## modCtx -/

@[simp] theorem State.modCtx_clk (d c : Nat) (f : Context → Context) : (s.modCtx d c f).clk = s.clk := rfl
@[simp] theorem State.modCtx_sched (d c : Nat) (f : Context → Context) : (s.modCtx d c f).sched = s.sched := rfl
@[simp] theorem State.modCtx_rr (d c : Nat) (f : Context → Context) : (s.modCtx d c f).rr = s.rr := rfl
@[simp] theorem State.modCtx_inputs (d c : Nat) (f : Context → Context) : (s.modCtx d c f).inputs = s.inputs := rfl
@[simp] theorem State.modCtx_agenda (d c : Nat) (f : Context → Context) : (s.modCtx d c f).agenda = s.agenda := rfl
@[simp] theorem State.modCtx_issuer (d c : Nat) (f : Context → Context) : (s.modCtx d c f).issuer = s.issuer := rfl
@[simp] theorem State.modCtx_tick (d c : Nat) (f : Context → Context) : (s.modCtx d c f).tick = s.tick := rfl
@[simp] theorem State.modCtx_uid (d c : Nat) (f : Context → Context) : (s.modCtx d c f).uid = s.uid := rfl
@[simp] theorem State.modCtx_mem (d c : Nat) (f : Context → Context) : (s.modCtx d c f).mem = s.mem := rfl
@[simp] theorem State.modCtx_poison (d c : Nat) (f : Context → Context) : (s.modCtx d c f).poison = s.poison := rfl
@[simp] theorem State.modCtx_devs (d c : Nat) (f : Context → Context) : (s.modCtx d c f).devs = s.devs := rfl
@[simp] theorem State.modCtx_tlb (d c : Nat) (f : Context → Context) : (s.modCtx d c f).tlb = s.tlb := rfl
@[simp] theorem State.modCtx_lines (d c : Nat) (f : Context → Context) : (s.modCtx d c f).lines = s.lines := rfl
@[simp] theorem State.modCtx_cores (d c : Nat) (f : Context → Context) : (s.modCtx d c f).cores = s.cores := rfl
@[simp] theorem State.modCtx_clusters (d c : Nat) (f : Context → Context) : (s.modCtx d c f).clusters = s.clusters := rfl
@[simp] theorem State.modCtx_regions (d c : Nat) (f : Context → Context) : (s.modCtx d c f).regions = s.regions := rfl
@[simp] theorem State.modCtx_tourns (d c : Nat) (f : Context → Context) : (s.modCtx d c f).tourns = s.tourns := rfl
@[simp] theorem State.modCtx_units (d c : Nat) (f : Context → Context) : (s.modCtx d c f).units = s.units := rfl
@[simp] theorem State.modCtx_groups (d c : Nat) (f : Context → Context) : (s.modCtx d c f).groups = s.groups := rfl
@[simp] theorem State.modCtx_deliveries (d c : Nat) (f : Context → Context) : (s.modCtx d c f).deliveries = s.deliveries := rfl
@[simp] theorem State.modCtx_reqs (d c : Nat) (f : Context → Context) : (s.modCtx d c f).reqs = s.reqs := rfl
@[simp] theorem State.modCtx_casts (d c : Nat) (f : Context → Context) : (s.modCtx d c f).casts = s.casts := rfl
@[simp] theorem State.modCtx_done (d c : Nat) (f : Context → Context) : (s.modCtx d c f).done = s.done := rfl
@[simp] theorem State.modCtx_mseq (d c : Nat) (f : Context → Context) : (s.modCtx d c f).mseq = s.mseq := rfl
@[simp] theorem State.modCtx_msix (d c : Nat) (f : Context → Context) : (s.modCtx d c f).msix = s.msix := rfl
@[simp] theorem State.modCtx_dfault (d c : Nat) (f : Context → Context) : (s.modCtx d c f).dfault = s.dfault := rfl
@[simp] theorem State.modCtx_dstalls (d c : Nat) (f : Context → Context) : (s.modCtx d c f).dstalls = s.dstalls := rfl
@[simp] theorem State.modCtx_storing (d c : Nat) (f : Context → Context) : (s.modCtx d c f).storing = s.storing := rfl

/-! ## modCore -/

@[simp] theorem State.modCore_clk (d c : Nat) (f : Core → Core) : (s.modCore d c f).clk = s.clk := rfl
@[simp] theorem State.modCore_sched (d c : Nat) (f : Core → Core) : (s.modCore d c f).sched = s.sched := rfl
@[simp] theorem State.modCore_rr (d c : Nat) (f : Core → Core) : (s.modCore d c f).rr = s.rr := rfl
@[simp] theorem State.modCore_inputs (d c : Nat) (f : Core → Core) : (s.modCore d c f).inputs = s.inputs := rfl
@[simp] theorem State.modCore_agenda (d c : Nat) (f : Core → Core) : (s.modCore d c f).agenda = s.agenda := rfl
@[simp] theorem State.modCore_issuer (d c : Nat) (f : Core → Core) : (s.modCore d c f).issuer = s.issuer := rfl
@[simp] theorem State.modCore_tick (d c : Nat) (f : Core → Core) : (s.modCore d c f).tick = s.tick := rfl
@[simp] theorem State.modCore_uid (d c : Nat) (f : Core → Core) : (s.modCore d c f).uid = s.uid := rfl
@[simp] theorem State.modCore_mem (d c : Nat) (f : Core → Core) : (s.modCore d c f).mem = s.mem := rfl
@[simp] theorem State.modCore_poison (d c : Nat) (f : Core → Core) : (s.modCore d c f).poison = s.poison := rfl
@[simp] theorem State.modCore_devs (d c : Nat) (f : Core → Core) : (s.modCore d c f).devs = s.devs := rfl
@[simp] theorem State.modCore_ctxs (d c : Nat) (f : Core → Core) : (s.modCore d c f).ctxs = s.ctxs := rfl
@[simp] theorem State.modCore_tlb (d c : Nat) (f : Core → Core) : (s.modCore d c f).tlb = s.tlb := rfl
@[simp] theorem State.modCore_lines (d c : Nat) (f : Core → Core) : (s.modCore d c f).lines = s.lines := rfl
@[simp] theorem State.modCore_clusters (d c : Nat) (f : Core → Core) : (s.modCore d c f).clusters = s.clusters := rfl
@[simp] theorem State.modCore_regions (d c : Nat) (f : Core → Core) : (s.modCore d c f).regions = s.regions := rfl
@[simp] theorem State.modCore_tourns (d c : Nat) (f : Core → Core) : (s.modCore d c f).tourns = s.tourns := rfl
@[simp] theorem State.modCore_units (d c : Nat) (f : Core → Core) : (s.modCore d c f).units = s.units := rfl
@[simp] theorem State.modCore_groups (d c : Nat) (f : Core → Core) : (s.modCore d c f).groups = s.groups := rfl
@[simp] theorem State.modCore_deliveries (d c : Nat) (f : Core → Core) : (s.modCore d c f).deliveries = s.deliveries := rfl
@[simp] theorem State.modCore_reqs (d c : Nat) (f : Core → Core) : (s.modCore d c f).reqs = s.reqs := rfl
@[simp] theorem State.modCore_casts (d c : Nat) (f : Core → Core) : (s.modCore d c f).casts = s.casts := rfl
@[simp] theorem State.modCore_done (d c : Nat) (f : Core → Core) : (s.modCore d c f).done = s.done := rfl
@[simp] theorem State.modCore_mseq (d c : Nat) (f : Core → Core) : (s.modCore d c f).mseq = s.mseq := rfl
@[simp] theorem State.modCore_msix (d c : Nat) (f : Core → Core) : (s.modCore d c f).msix = s.msix := rfl
@[simp] theorem State.modCore_dfault (d c : Nat) (f : Core → Core) : (s.modCore d c f).dfault = s.dfault := rfl
@[simp] theorem State.modCore_dstalls (d c : Nat) (f : Core → Core) : (s.modCore d c f).dstalls = s.dstalls := rfl
@[simp] theorem State.modCore_storing (d c : Nat) (f : Core → Core) : (s.modCore d c f).storing = s.storing := rfl

/-! ## modCluster -/

@[simp] theorem State.modCluster_clk (d c : Nat) (f : Cluster → Cluster) : (s.modCluster d c f).clk = s.clk := rfl
@[simp] theorem State.modCluster_sched (d c : Nat) (f : Cluster → Cluster) : (s.modCluster d c f).sched = s.sched := rfl
@[simp] theorem State.modCluster_rr (d c : Nat) (f : Cluster → Cluster) : (s.modCluster d c f).rr = s.rr := rfl
@[simp] theorem State.modCluster_inputs (d c : Nat) (f : Cluster → Cluster) : (s.modCluster d c f).inputs = s.inputs := rfl
@[simp] theorem State.modCluster_agenda (d c : Nat) (f : Cluster → Cluster) : (s.modCluster d c f).agenda = s.agenda := rfl
@[simp] theorem State.modCluster_issuer (d c : Nat) (f : Cluster → Cluster) : (s.modCluster d c f).issuer = s.issuer := rfl
@[simp] theorem State.modCluster_tick (d c : Nat) (f : Cluster → Cluster) : (s.modCluster d c f).tick = s.tick := rfl
@[simp] theorem State.modCluster_uid (d c : Nat) (f : Cluster → Cluster) : (s.modCluster d c f).uid = s.uid := rfl
@[simp] theorem State.modCluster_mem (d c : Nat) (f : Cluster → Cluster) : (s.modCluster d c f).mem = s.mem := rfl
@[simp] theorem State.modCluster_poison (d c : Nat) (f : Cluster → Cluster) : (s.modCluster d c f).poison = s.poison := rfl
@[simp] theorem State.modCluster_devs (d c : Nat) (f : Cluster → Cluster) : (s.modCluster d c f).devs = s.devs := rfl
@[simp] theorem State.modCluster_ctxs (d c : Nat) (f : Cluster → Cluster) : (s.modCluster d c f).ctxs = s.ctxs := rfl
@[simp] theorem State.modCluster_tlb (d c : Nat) (f : Cluster → Cluster) : (s.modCluster d c f).tlb = s.tlb := rfl
@[simp] theorem State.modCluster_lines (d c : Nat) (f : Cluster → Cluster) : (s.modCluster d c f).lines = s.lines := rfl
@[simp] theorem State.modCluster_cores (d c : Nat) (f : Cluster → Cluster) : (s.modCluster d c f).cores = s.cores := rfl
@[simp] theorem State.modCluster_regions (d c : Nat) (f : Cluster → Cluster) : (s.modCluster d c f).regions = s.regions := rfl
@[simp] theorem State.modCluster_tourns (d c : Nat) (f : Cluster → Cluster) : (s.modCluster d c f).tourns = s.tourns := rfl
@[simp] theorem State.modCluster_units (d c : Nat) (f : Cluster → Cluster) : (s.modCluster d c f).units = s.units := rfl
@[simp] theorem State.modCluster_groups (d c : Nat) (f : Cluster → Cluster) : (s.modCluster d c f).groups = s.groups := rfl
@[simp] theorem State.modCluster_deliveries (d c : Nat) (f : Cluster → Cluster) : (s.modCluster d c f).deliveries = s.deliveries := rfl
@[simp] theorem State.modCluster_reqs (d c : Nat) (f : Cluster → Cluster) : (s.modCluster d c f).reqs = s.reqs := rfl
@[simp] theorem State.modCluster_casts (d c : Nat) (f : Cluster → Cluster) : (s.modCluster d c f).casts = s.casts := rfl
@[simp] theorem State.modCluster_done (d c : Nat) (f : Cluster → Cluster) : (s.modCluster d c f).done = s.done := rfl
@[simp] theorem State.modCluster_mseq (d c : Nat) (f : Cluster → Cluster) : (s.modCluster d c f).mseq = s.mseq := rfl
@[simp] theorem State.modCluster_msix (d c : Nat) (f : Cluster → Cluster) : (s.modCluster d c f).msix = s.msix := rfl
@[simp] theorem State.modCluster_dfault (d c : Nat) (f : Cluster → Cluster) : (s.modCluster d c f).dfault = s.dfault := rfl
@[simp] theorem State.modCluster_dstalls (d c : Nat) (f : Cluster → Cluster) : (s.modCluster d c f).dstalls = s.dstalls := rfl
@[simp] theorem State.modCluster_storing (d c : Nat) (f : Cluster → Cluster) : (s.modCluster d c f).storing = s.storing := rfl

/-! ## modRegion -/

@[simp] theorem State.modRegion_clk (r : Nat) (f : Region → Region) : (s.modRegion r f).clk = s.clk := rfl
@[simp] theorem State.modRegion_sched (r : Nat) (f : Region → Region) : (s.modRegion r f).sched = s.sched := rfl
@[simp] theorem State.modRegion_rr (r : Nat) (f : Region → Region) : (s.modRegion r f).rr = s.rr := rfl
@[simp] theorem State.modRegion_inputs (r : Nat) (f : Region → Region) : (s.modRegion r f).inputs = s.inputs := rfl
@[simp] theorem State.modRegion_agenda (r : Nat) (f : Region → Region) : (s.modRegion r f).agenda = s.agenda := rfl
@[simp] theorem State.modRegion_issuer (r : Nat) (f : Region → Region) : (s.modRegion r f).issuer = s.issuer := rfl
@[simp] theorem State.modRegion_tick (r : Nat) (f : Region → Region) : (s.modRegion r f).tick = s.tick := rfl
@[simp] theorem State.modRegion_uid (r : Nat) (f : Region → Region) : (s.modRegion r f).uid = s.uid := rfl
@[simp] theorem State.modRegion_mem (r : Nat) (f : Region → Region) : (s.modRegion r f).mem = s.mem := rfl
@[simp] theorem State.modRegion_poison (r : Nat) (f : Region → Region) : (s.modRegion r f).poison = s.poison := rfl
@[simp] theorem State.modRegion_devs (r : Nat) (f : Region → Region) : (s.modRegion r f).devs = s.devs := rfl
@[simp] theorem State.modRegion_ctxs (r : Nat) (f : Region → Region) : (s.modRegion r f).ctxs = s.ctxs := rfl
@[simp] theorem State.modRegion_tlb (r : Nat) (f : Region → Region) : (s.modRegion r f).tlb = s.tlb := rfl
@[simp] theorem State.modRegion_lines (r : Nat) (f : Region → Region) : (s.modRegion r f).lines = s.lines := rfl
@[simp] theorem State.modRegion_cores (r : Nat) (f : Region → Region) : (s.modRegion r f).cores = s.cores := rfl
@[simp] theorem State.modRegion_clusters (r : Nat) (f : Region → Region) : (s.modRegion r f).clusters = s.clusters := rfl
@[simp] theorem State.modRegion_tourns (r : Nat) (f : Region → Region) : (s.modRegion r f).tourns = s.tourns := rfl
@[simp] theorem State.modRegion_units (r : Nat) (f : Region → Region) : (s.modRegion r f).units = s.units := rfl
@[simp] theorem State.modRegion_groups (r : Nat) (f : Region → Region) : (s.modRegion r f).groups = s.groups := rfl
@[simp] theorem State.modRegion_deliveries (r : Nat) (f : Region → Region) : (s.modRegion r f).deliveries = s.deliveries := rfl
@[simp] theorem State.modRegion_reqs (r : Nat) (f : Region → Region) : (s.modRegion r f).reqs = s.reqs := rfl
@[simp] theorem State.modRegion_casts (r : Nat) (f : Region → Region) : (s.modRegion r f).casts = s.casts := rfl
@[simp] theorem State.modRegion_done (r : Nat) (f : Region → Region) : (s.modRegion r f).done = s.done := rfl
@[simp] theorem State.modRegion_mseq (r : Nat) (f : Region → Region) : (s.modRegion r f).mseq = s.mseq := rfl
@[simp] theorem State.modRegion_msix (r : Nat) (f : Region → Region) : (s.modRegion r f).msix = s.msix := rfl
@[simp] theorem State.modRegion_dfault (r : Nat) (f : Region → Region) : (s.modRegion r f).dfault = s.dfault := rfl
@[simp] theorem State.modRegion_dstalls (r : Nat) (f : Region → Region) : (s.modRegion r f).dstalls = s.dstalls := rfl
@[simp] theorem State.modRegion_storing (r : Nat) (f : Region → Region) : (s.modRegion r f).storing = s.storing := rfl

/-! ## modNode -/

@[simp] theorem State.modNode_clk (r n : Nat) (f : Node → Node) : (s.modNode r n f).clk = s.clk := rfl
@[simp] theorem State.modNode_sched (r n : Nat) (f : Node → Node) : (s.modNode r n f).sched = s.sched := rfl
@[simp] theorem State.modNode_rr (r n : Nat) (f : Node → Node) : (s.modNode r n f).rr = s.rr := rfl
@[simp] theorem State.modNode_inputs (r n : Nat) (f : Node → Node) : (s.modNode r n f).inputs = s.inputs := rfl
@[simp] theorem State.modNode_agenda (r n : Nat) (f : Node → Node) : (s.modNode r n f).agenda = s.agenda := rfl
@[simp] theorem State.modNode_issuer (r n : Nat) (f : Node → Node) : (s.modNode r n f).issuer = s.issuer := rfl
@[simp] theorem State.modNode_tick (r n : Nat) (f : Node → Node) : (s.modNode r n f).tick = s.tick := rfl
@[simp] theorem State.modNode_uid (r n : Nat) (f : Node → Node) : (s.modNode r n f).uid = s.uid := rfl
@[simp] theorem State.modNode_mem (r n : Nat) (f : Node → Node) : (s.modNode r n f).mem = s.mem := rfl
@[simp] theorem State.modNode_poison (r n : Nat) (f : Node → Node) : (s.modNode r n f).poison = s.poison := rfl
@[simp] theorem State.modNode_devs (r n : Nat) (f : Node → Node) : (s.modNode r n f).devs = s.devs := rfl
@[simp] theorem State.modNode_ctxs (r n : Nat) (f : Node → Node) : (s.modNode r n f).ctxs = s.ctxs := rfl
@[simp] theorem State.modNode_tlb (r n : Nat) (f : Node → Node) : (s.modNode r n f).tlb = s.tlb := rfl
@[simp] theorem State.modNode_lines (r n : Nat) (f : Node → Node) : (s.modNode r n f).lines = s.lines := rfl
@[simp] theorem State.modNode_cores (r n : Nat) (f : Node → Node) : (s.modNode r n f).cores = s.cores := rfl
@[simp] theorem State.modNode_clusters (r n : Nat) (f : Node → Node) : (s.modNode r n f).clusters = s.clusters := rfl
@[simp] theorem State.modNode_tourns (r n : Nat) (f : Node → Node) : (s.modNode r n f).tourns = s.tourns := rfl
@[simp] theorem State.modNode_units (r n : Nat) (f : Node → Node) : (s.modNode r n f).units = s.units := rfl
@[simp] theorem State.modNode_groups (r n : Nat) (f : Node → Node) : (s.modNode r n f).groups = s.groups := rfl
@[simp] theorem State.modNode_deliveries (r n : Nat) (f : Node → Node) : (s.modNode r n f).deliveries = s.deliveries := rfl
@[simp] theorem State.modNode_reqs (r n : Nat) (f : Node → Node) : (s.modNode r n f).reqs = s.reqs := rfl
@[simp] theorem State.modNode_casts (r n : Nat) (f : Node → Node) : (s.modNode r n f).casts = s.casts := rfl
@[simp] theorem State.modNode_done (r n : Nat) (f : Node → Node) : (s.modNode r n f).done = s.done := rfl
@[simp] theorem State.modNode_mseq (r n : Nat) (f : Node → Node) : (s.modNode r n f).mseq = s.mseq := rfl
@[simp] theorem State.modNode_msix (r n : Nat) (f : Node → Node) : (s.modNode r n f).msix = s.msix := rfl
@[simp] theorem State.modNode_dfault (r n : Nat) (f : Node → Node) : (s.modNode r n f).dfault = s.dfault := rfl
@[simp] theorem State.modNode_dstalls (r n : Nat) (f : Node → Node) : (s.modNode r n f).dstalls = s.dstalls := rfl
@[simp] theorem State.modNode_storing (r n : Nat) (f : Node → Node) : (s.modNode r n f).storing = s.storing := rfl

/-! ## modTourn -/

@[simp] theorem State.modTourn_clk (t : Nat) (f : Tourn → Tourn) : (s.modTourn t f).clk = s.clk := rfl
@[simp] theorem State.modTourn_sched (t : Nat) (f : Tourn → Tourn) : (s.modTourn t f).sched = s.sched := rfl
@[simp] theorem State.modTourn_rr (t : Nat) (f : Tourn → Tourn) : (s.modTourn t f).rr = s.rr := rfl
@[simp] theorem State.modTourn_inputs (t : Nat) (f : Tourn → Tourn) : (s.modTourn t f).inputs = s.inputs := rfl
@[simp] theorem State.modTourn_agenda (t : Nat) (f : Tourn → Tourn) : (s.modTourn t f).agenda = s.agenda := rfl
@[simp] theorem State.modTourn_issuer (t : Nat) (f : Tourn → Tourn) : (s.modTourn t f).issuer = s.issuer := rfl
@[simp] theorem State.modTourn_tick (t : Nat) (f : Tourn → Tourn) : (s.modTourn t f).tick = s.tick := rfl
@[simp] theorem State.modTourn_uid (t : Nat) (f : Tourn → Tourn) : (s.modTourn t f).uid = s.uid := rfl
@[simp] theorem State.modTourn_mem (t : Nat) (f : Tourn → Tourn) : (s.modTourn t f).mem = s.mem := rfl
@[simp] theorem State.modTourn_poison (t : Nat) (f : Tourn → Tourn) : (s.modTourn t f).poison = s.poison := rfl
@[simp] theorem State.modTourn_devs (t : Nat) (f : Tourn → Tourn) : (s.modTourn t f).devs = s.devs := rfl
@[simp] theorem State.modTourn_ctxs (t : Nat) (f : Tourn → Tourn) : (s.modTourn t f).ctxs = s.ctxs := rfl
@[simp] theorem State.modTourn_tlb (t : Nat) (f : Tourn → Tourn) : (s.modTourn t f).tlb = s.tlb := rfl
@[simp] theorem State.modTourn_lines (t : Nat) (f : Tourn → Tourn) : (s.modTourn t f).lines = s.lines := rfl
@[simp] theorem State.modTourn_cores (t : Nat) (f : Tourn → Tourn) : (s.modTourn t f).cores = s.cores := rfl
@[simp] theorem State.modTourn_clusters (t : Nat) (f : Tourn → Tourn) : (s.modTourn t f).clusters = s.clusters := rfl
@[simp] theorem State.modTourn_regions (t : Nat) (f : Tourn → Tourn) : (s.modTourn t f).regions = s.regions := rfl
@[simp] theorem State.modTourn_units (t : Nat) (f : Tourn → Tourn) : (s.modTourn t f).units = s.units := rfl
@[simp] theorem State.modTourn_groups (t : Nat) (f : Tourn → Tourn) : (s.modTourn t f).groups = s.groups := rfl
@[simp] theorem State.modTourn_deliveries (t : Nat) (f : Tourn → Tourn) : (s.modTourn t f).deliveries = s.deliveries := rfl
@[simp] theorem State.modTourn_reqs (t : Nat) (f : Tourn → Tourn) : (s.modTourn t f).reqs = s.reqs := rfl
@[simp] theorem State.modTourn_casts (t : Nat) (f : Tourn → Tourn) : (s.modTourn t f).casts = s.casts := rfl
@[simp] theorem State.modTourn_done (t : Nat) (f : Tourn → Tourn) : (s.modTourn t f).done = s.done := rfl
@[simp] theorem State.modTourn_mseq (t : Nat) (f : Tourn → Tourn) : (s.modTourn t f).mseq = s.mseq := rfl
@[simp] theorem State.modTourn_msix (t : Nat) (f : Tourn → Tourn) : (s.modTourn t f).msix = s.msix := rfl
@[simp] theorem State.modTourn_dfault (t : Nat) (f : Tourn → Tourn) : (s.modTourn t f).dfault = s.dfault := rfl
@[simp] theorem State.modTourn_dstalls (t : Nat) (f : Tourn → Tourn) : (s.modTourn t f).dstalls = s.dstalls := rfl
@[simp] theorem State.modTourn_storing (t : Nat) (f : Tourn → Tourn) : (s.modTourn t f).storing = s.storing := rfl

/-! ## modLine -/

@[simp] theorem State.modLine_clk (a : Nat) (f : Line → Line) : (s.modLine a f).clk = s.clk := rfl
@[simp] theorem State.modLine_sched (a : Nat) (f : Line → Line) : (s.modLine a f).sched = s.sched := rfl
@[simp] theorem State.modLine_rr (a : Nat) (f : Line → Line) : (s.modLine a f).rr = s.rr := rfl
@[simp] theorem State.modLine_inputs (a : Nat) (f : Line → Line) : (s.modLine a f).inputs = s.inputs := rfl
@[simp] theorem State.modLine_agenda (a : Nat) (f : Line → Line) : (s.modLine a f).agenda = s.agenda := rfl
@[simp] theorem State.modLine_issuer (a : Nat) (f : Line → Line) : (s.modLine a f).issuer = s.issuer := rfl
@[simp] theorem State.modLine_tick (a : Nat) (f : Line → Line) : (s.modLine a f).tick = s.tick := rfl
@[simp] theorem State.modLine_uid (a : Nat) (f : Line → Line) : (s.modLine a f).uid = s.uid := rfl
@[simp] theorem State.modLine_mem (a : Nat) (f : Line → Line) : (s.modLine a f).mem = s.mem := rfl
@[simp] theorem State.modLine_poison (a : Nat) (f : Line → Line) : (s.modLine a f).poison = s.poison := rfl
@[simp] theorem State.modLine_devs (a : Nat) (f : Line → Line) : (s.modLine a f).devs = s.devs := rfl
@[simp] theorem State.modLine_ctxs (a : Nat) (f : Line → Line) : (s.modLine a f).ctxs = s.ctxs := rfl
@[simp] theorem State.modLine_tlb (a : Nat) (f : Line → Line) : (s.modLine a f).tlb = s.tlb := rfl
@[simp] theorem State.modLine_cores (a : Nat) (f : Line → Line) : (s.modLine a f).cores = s.cores := rfl
@[simp] theorem State.modLine_clusters (a : Nat) (f : Line → Line) : (s.modLine a f).clusters = s.clusters := rfl
@[simp] theorem State.modLine_regions (a : Nat) (f : Line → Line) : (s.modLine a f).regions = s.regions := rfl
@[simp] theorem State.modLine_tourns (a : Nat) (f : Line → Line) : (s.modLine a f).tourns = s.tourns := rfl
@[simp] theorem State.modLine_units (a : Nat) (f : Line → Line) : (s.modLine a f).units = s.units := rfl
@[simp] theorem State.modLine_groups (a : Nat) (f : Line → Line) : (s.modLine a f).groups = s.groups := rfl
@[simp] theorem State.modLine_deliveries (a : Nat) (f : Line → Line) : (s.modLine a f).deliveries = s.deliveries := rfl
@[simp] theorem State.modLine_reqs (a : Nat) (f : Line → Line) : (s.modLine a f).reqs = s.reqs := rfl
@[simp] theorem State.modLine_casts (a : Nat) (f : Line → Line) : (s.modLine a f).casts = s.casts := rfl
@[simp] theorem State.modLine_done (a : Nat) (f : Line → Line) : (s.modLine a f).done = s.done := rfl
@[simp] theorem State.modLine_mseq (a : Nat) (f : Line → Line) : (s.modLine a f).mseq = s.mseq := rfl
@[simp] theorem State.modLine_msix (a : Nat) (f : Line → Line) : (s.modLine a f).msix = s.msix := rfl
@[simp] theorem State.modLine_dfault (a : Nat) (f : Line → Line) : (s.modLine a f).dfault = s.dfault := rfl
@[simp] theorem State.modLine_dstalls (a : Nat) (f : Line → Line) : (s.modLine a f).dstalls = s.dstalls := rfl
@[simp] theorem State.modLine_storing (a : Nat) (f : Line → Line) : (s.modLine a f).storing = s.storing := rfl

/-! ## later -/

@[simp] theorem State.later_clk (d : Nat) (i : Instr) : (s.later d i).clk = s.clk := rfl
@[simp] theorem State.later_sched (d : Nat) (i : Instr) : (s.later d i).sched = s.sched := rfl
@[simp] theorem State.later_rr (d : Nat) (i : Instr) : (s.later d i).rr = s.rr := rfl
@[simp] theorem State.later_inputs (d : Nat) (i : Instr) : (s.later d i).inputs = s.inputs := rfl
@[simp] theorem State.later_issuer (d : Nat) (i : Instr) : (s.later d i).issuer = s.issuer := rfl
@[simp] theorem State.later_tick (d : Nat) (i : Instr) : (s.later d i).tick = s.tick := rfl
@[simp] theorem State.later_uid (d : Nat) (i : Instr) : (s.later d i).uid = s.uid := rfl
@[simp] theorem State.later_mem (d : Nat) (i : Instr) : (s.later d i).mem = s.mem := rfl
@[simp] theorem State.later_poison (d : Nat) (i : Instr) : (s.later d i).poison = s.poison := rfl
@[simp] theorem State.later_devs (d : Nat) (i : Instr) : (s.later d i).devs = s.devs := rfl
@[simp] theorem State.later_ctxs (d : Nat) (i : Instr) : (s.later d i).ctxs = s.ctxs := rfl
@[simp] theorem State.later_tlb (d : Nat) (i : Instr) : (s.later d i).tlb = s.tlb := rfl
@[simp] theorem State.later_lines (d : Nat) (i : Instr) : (s.later d i).lines = s.lines := rfl
@[simp] theorem State.later_cores (d : Nat) (i : Instr) : (s.later d i).cores = s.cores := rfl
@[simp] theorem State.later_clusters (d : Nat) (i : Instr) : (s.later d i).clusters = s.clusters := rfl
@[simp] theorem State.later_regions (d : Nat) (i : Instr) : (s.later d i).regions = s.regions := rfl
@[simp] theorem State.later_tourns (d : Nat) (i : Instr) : (s.later d i).tourns = s.tourns := rfl
@[simp] theorem State.later_units (d : Nat) (i : Instr) : (s.later d i).units = s.units := rfl
@[simp] theorem State.later_groups (d : Nat) (i : Instr) : (s.later d i).groups = s.groups := rfl
@[simp] theorem State.later_deliveries (d : Nat) (i : Instr) : (s.later d i).deliveries = s.deliveries := rfl
@[simp] theorem State.later_reqs (d : Nat) (i : Instr) : (s.later d i).reqs = s.reqs := rfl
@[simp] theorem State.later_casts (d : Nat) (i : Instr) : (s.later d i).casts = s.casts := rfl
@[simp] theorem State.later_done (d : Nat) (i : Instr) : (s.later d i).done = s.done := rfl
@[simp] theorem State.later_mseq (d : Nat) (i : Instr) : (s.later d i).mseq = s.mseq := rfl
@[simp] theorem State.later_msix (d : Nat) (i : Instr) : (s.later d i).msix = s.msix := rfl
@[simp] theorem State.later_dfault (d : Nat) (i : Instr) : (s.later d i).dfault = s.dfault := rfl
@[simp] theorem State.later_dstalls (d : Nat) (i : Instr) : (s.later d i).dstalls = s.dstalls := rfl
@[simp] theorem State.later_storing (d : Nat) (i : Instr) : (s.later d i).storing = s.storing := rfl

/-! ## ticked -/

@[simp] theorem State.ticked_clk : (s.ticked).clk = s.clk := rfl
@[simp] theorem State.ticked_sched : (s.ticked).sched = s.sched := rfl
@[simp] theorem State.ticked_rr : (s.ticked).rr = s.rr := rfl
@[simp] theorem State.ticked_inputs : (s.ticked).inputs = s.inputs := rfl
@[simp] theorem State.ticked_agenda : (s.ticked).agenda = s.agenda := rfl
@[simp] theorem State.ticked_issuer : (s.ticked).issuer = s.issuer := rfl
@[simp] theorem State.ticked_uid : (s.ticked).uid = s.uid := rfl
@[simp] theorem State.ticked_mem : (s.ticked).mem = s.mem := rfl
@[simp] theorem State.ticked_poison : (s.ticked).poison = s.poison := rfl
@[simp] theorem State.ticked_devs : (s.ticked).devs = s.devs := rfl
@[simp] theorem State.ticked_ctxs : (s.ticked).ctxs = s.ctxs := rfl
@[simp] theorem State.ticked_tlb : (s.ticked).tlb = s.tlb := rfl
@[simp] theorem State.ticked_lines : (s.ticked).lines = s.lines := rfl
@[simp] theorem State.ticked_cores : (s.ticked).cores = s.cores := rfl
@[simp] theorem State.ticked_clusters : (s.ticked).clusters = s.clusters := rfl
@[simp] theorem State.ticked_regions : (s.ticked).regions = s.regions := rfl
@[simp] theorem State.ticked_tourns : (s.ticked).tourns = s.tourns := rfl
@[simp] theorem State.ticked_units : (s.ticked).units = s.units := rfl
@[simp] theorem State.ticked_groups : (s.ticked).groups = s.groups := rfl
@[simp] theorem State.ticked_deliveries : (s.ticked).deliveries = s.deliveries := rfl
@[simp] theorem State.ticked_reqs : (s.ticked).reqs = s.reqs := rfl
@[simp] theorem State.ticked_casts : (s.ticked).casts = s.casts := rfl
@[simp] theorem State.ticked_done : (s.ticked).done = s.done := rfl
@[simp] theorem State.ticked_mseq : (s.ticked).mseq = s.mseq := rfl
@[simp] theorem State.ticked_msix : (s.ticked).msix = s.msix := rfl
@[simp] theorem State.ticked_dfault : (s.ticked).dfault = s.dfault := rfl
@[simp] theorem State.ticked_dstalls : (s.ticked).dstalls = s.dstalls := rfl
@[simp] theorem State.ticked_storing : (s.ticked).storing = s.storing := rfl

/-! ## setBytes -/

@[simp] theorem State.setBytes_clk (a : Nat) (bs : List Byte) : (s.setBytes a bs).clk = s.clk := rfl
@[simp] theorem State.setBytes_sched (a : Nat) (bs : List Byte) : (s.setBytes a bs).sched = s.sched := rfl
@[simp] theorem State.setBytes_rr (a : Nat) (bs : List Byte) : (s.setBytes a bs).rr = s.rr := rfl
@[simp] theorem State.setBytes_inputs (a : Nat) (bs : List Byte) : (s.setBytes a bs).inputs = s.inputs := rfl
@[simp] theorem State.setBytes_agenda (a : Nat) (bs : List Byte) : (s.setBytes a bs).agenda = s.agenda := rfl
@[simp] theorem State.setBytes_issuer (a : Nat) (bs : List Byte) : (s.setBytes a bs).issuer = s.issuer := rfl
@[simp] theorem State.setBytes_tick (a : Nat) (bs : List Byte) : (s.setBytes a bs).tick = s.tick := rfl
@[simp] theorem State.setBytes_uid (a : Nat) (bs : List Byte) : (s.setBytes a bs).uid = s.uid := rfl
@[simp] theorem State.setBytes_poison (a : Nat) (bs : List Byte) : (s.setBytes a bs).poison = s.poison := rfl
@[simp] theorem State.setBytes_devs (a : Nat) (bs : List Byte) : (s.setBytes a bs).devs = s.devs := rfl
@[simp] theorem State.setBytes_ctxs (a : Nat) (bs : List Byte) : (s.setBytes a bs).ctxs = s.ctxs := rfl
@[simp] theorem State.setBytes_tlb (a : Nat) (bs : List Byte) : (s.setBytes a bs).tlb = s.tlb := rfl
@[simp] theorem State.setBytes_lines (a : Nat) (bs : List Byte) : (s.setBytes a bs).lines = s.lines := rfl
@[simp] theorem State.setBytes_cores (a : Nat) (bs : List Byte) : (s.setBytes a bs).cores = s.cores := rfl
@[simp] theorem State.setBytes_clusters (a : Nat) (bs : List Byte) : (s.setBytes a bs).clusters = s.clusters := rfl
@[simp] theorem State.setBytes_regions (a : Nat) (bs : List Byte) : (s.setBytes a bs).regions = s.regions := rfl
@[simp] theorem State.setBytes_tourns (a : Nat) (bs : List Byte) : (s.setBytes a bs).tourns = s.tourns := rfl
@[simp] theorem State.setBytes_units (a : Nat) (bs : List Byte) : (s.setBytes a bs).units = s.units := rfl
@[simp] theorem State.setBytes_groups (a : Nat) (bs : List Byte) : (s.setBytes a bs).groups = s.groups := rfl
@[simp] theorem State.setBytes_deliveries (a : Nat) (bs : List Byte) : (s.setBytes a bs).deliveries = s.deliveries := rfl
@[simp] theorem State.setBytes_reqs (a : Nat) (bs : List Byte) : (s.setBytes a bs).reqs = s.reqs := rfl
@[simp] theorem State.setBytes_casts (a : Nat) (bs : List Byte) : (s.setBytes a bs).casts = s.casts := rfl
@[simp] theorem State.setBytes_done (a : Nat) (bs : List Byte) : (s.setBytes a bs).done = s.done := rfl
@[simp] theorem State.setBytes_mseq (a : Nat) (bs : List Byte) : (s.setBytes a bs).mseq = s.mseq := rfl
@[simp] theorem State.setBytes_msix (a : Nat) (bs : List Byte) : (s.setBytes a bs).msix = s.msix := rfl
@[simp] theorem State.setBytes_dfault (a : Nat) (bs : List Byte) : (s.setBytes a bs).dfault = s.dfault := rfl
@[simp] theorem State.setBytes_dstalls (a : Nat) (bs : List Byte) : (s.setBytes a bs).dstalls = s.dstalls := rfl
@[simp] theorem State.setBytes_storing (a : Nat) (bs : List Byte) : (s.setBytes a bs).storing = s.storing := rfl

/-! ## fresh -/

@[simp] theorem State.fresh_clk : s.fresh.2.clk = s.clk := rfl
@[simp] theorem State.fresh_sched : s.fresh.2.sched = s.sched := rfl
@[simp] theorem State.fresh_rr : s.fresh.2.rr = s.rr := rfl
@[simp] theorem State.fresh_inputs : s.fresh.2.inputs = s.inputs := rfl
@[simp] theorem State.fresh_agenda : s.fresh.2.agenda = s.agenda := rfl
@[simp] theorem State.fresh_issuer : s.fresh.2.issuer = s.issuer := rfl
@[simp] theorem State.fresh_tick : s.fresh.2.tick = s.tick := rfl
@[simp] theorem State.fresh_mem : s.fresh.2.mem = s.mem := rfl
@[simp] theorem State.fresh_poison : s.fresh.2.poison = s.poison := rfl
@[simp] theorem State.fresh_devs : s.fresh.2.devs = s.devs := rfl
@[simp] theorem State.fresh_ctxs : s.fresh.2.ctxs = s.ctxs := rfl
@[simp] theorem State.fresh_tlb : s.fresh.2.tlb = s.tlb := rfl
@[simp] theorem State.fresh_lines : s.fresh.2.lines = s.lines := rfl
@[simp] theorem State.fresh_cores : s.fresh.2.cores = s.cores := rfl
@[simp] theorem State.fresh_clusters : s.fresh.2.clusters = s.clusters := rfl
@[simp] theorem State.fresh_regions : s.fresh.2.regions = s.regions := rfl
@[simp] theorem State.fresh_tourns : s.fresh.2.tourns = s.tourns := rfl
@[simp] theorem State.fresh_units : s.fresh.2.units = s.units := rfl
@[simp] theorem State.fresh_groups : s.fresh.2.groups = s.groups := rfl
@[simp] theorem State.fresh_deliveries : s.fresh.2.deliveries = s.deliveries := rfl
@[simp] theorem State.fresh_reqs : s.fresh.2.reqs = s.reqs := rfl
@[simp] theorem State.fresh_casts : s.fresh.2.casts = s.casts := rfl
@[simp] theorem State.fresh_done : s.fresh.2.done = s.done := rfl
@[simp] theorem State.fresh_mseq : s.fresh.2.mseq = s.mseq := rfl
@[simp] theorem State.fresh_msix : s.fresh.2.msix = s.msix := rfl
@[simp] theorem State.fresh_dfault : s.fresh.2.dfault = s.dfault := rfl
@[simp] theorem State.fresh_dstalls : s.fresh.2.dstalls = s.dstalls := rfl
@[simp] theorem State.fresh_storing : s.fresh.2.storing = s.storing := rfl
@[simp] theorem State.fresh_name : s.fresh.1 = s.uid := rfl
@[simp] theorem State.fresh_uid : s.fresh.2.uid = s.uid + 1 := rfl

/-! ## modWeft, modTreadle: the group or the unit that holds the weft changes, nothing else -/

@[simp] theorem State.modWeft_clk (g w : Nat) (f : Weft → Weft) : (s.modWeft g w f).clk = s.clk := by
  unfold State.modWeft; repeat (first | rfl | split)
@[simp] theorem State.modWeft_sched (g w : Nat) (f : Weft → Weft) : (s.modWeft g w f).sched = s.sched := by
  unfold State.modWeft; repeat (first | rfl | split)
@[simp] theorem State.modWeft_rr (g w : Nat) (f : Weft → Weft) : (s.modWeft g w f).rr = s.rr := by
  unfold State.modWeft; repeat (first | rfl | split)
@[simp] theorem State.modWeft_inputs (g w : Nat) (f : Weft → Weft) : (s.modWeft g w f).inputs = s.inputs := by
  unfold State.modWeft; repeat (first | rfl | split)
@[simp] theorem State.modWeft_agenda (g w : Nat) (f : Weft → Weft) : (s.modWeft g w f).agenda = s.agenda := by
  unfold State.modWeft; repeat (first | rfl | split)
@[simp] theorem State.modWeft_issuer (g w : Nat) (f : Weft → Weft) : (s.modWeft g w f).issuer = s.issuer := by
  unfold State.modWeft; repeat (first | rfl | split)
@[simp] theorem State.modWeft_tick (g w : Nat) (f : Weft → Weft) : (s.modWeft g w f).tick = s.tick := by
  unfold State.modWeft; repeat (first | rfl | split)
@[simp] theorem State.modWeft_uid (g w : Nat) (f : Weft → Weft) : (s.modWeft g w f).uid = s.uid := by
  unfold State.modWeft; repeat (first | rfl | split)
@[simp] theorem State.modWeft_mem (g w : Nat) (f : Weft → Weft) : (s.modWeft g w f).mem = s.mem := by
  unfold State.modWeft; repeat (first | rfl | split)
@[simp] theorem State.modWeft_poison (g w : Nat) (f : Weft → Weft) : (s.modWeft g w f).poison = s.poison := by
  unfold State.modWeft; repeat (first | rfl | split)
@[simp] theorem State.modWeft_devs (g w : Nat) (f : Weft → Weft) : (s.modWeft g w f).devs = s.devs := by
  unfold State.modWeft; repeat (first | rfl | split)
@[simp] theorem State.modWeft_ctxs (g w : Nat) (f : Weft → Weft) : (s.modWeft g w f).ctxs = s.ctxs := by
  unfold State.modWeft; repeat (first | rfl | split)
@[simp] theorem State.modWeft_tlb (g w : Nat) (f : Weft → Weft) : (s.modWeft g w f).tlb = s.tlb := by
  unfold State.modWeft; repeat (first | rfl | split)
@[simp] theorem State.modWeft_lines (g w : Nat) (f : Weft → Weft) : (s.modWeft g w f).lines = s.lines := by
  unfold State.modWeft; repeat (first | rfl | split)
@[simp] theorem State.modWeft_cores (g w : Nat) (f : Weft → Weft) : (s.modWeft g w f).cores = s.cores := by
  unfold State.modWeft; repeat (first | rfl | split)
@[simp] theorem State.modWeft_clusters (g w : Nat) (f : Weft → Weft) : (s.modWeft g w f).clusters = s.clusters := by
  unfold State.modWeft; repeat (first | rfl | split)
@[simp] theorem State.modWeft_regions (g w : Nat) (f : Weft → Weft) : (s.modWeft g w f).regions = s.regions := by
  unfold State.modWeft; repeat (first | rfl | split)
@[simp] theorem State.modWeft_tourns (g w : Nat) (f : Weft → Weft) : (s.modWeft g w f).tourns = s.tourns := by
  unfold State.modWeft; repeat (first | rfl | split)
@[simp] theorem State.modWeft_deliveries (g w : Nat) (f : Weft → Weft) : (s.modWeft g w f).deliveries = s.deliveries := by
  unfold State.modWeft; repeat (first | rfl | split)
@[simp] theorem State.modWeft_reqs (g w : Nat) (f : Weft → Weft) : (s.modWeft g w f).reqs = s.reqs := by
  unfold State.modWeft; repeat (first | rfl | split)
@[simp] theorem State.modWeft_casts (g w : Nat) (f : Weft → Weft) : (s.modWeft g w f).casts = s.casts := by
  unfold State.modWeft; repeat (first | rfl | split)
@[simp] theorem State.modWeft_done (g w : Nat) (f : Weft → Weft) : (s.modWeft g w f).done = s.done := by
  unfold State.modWeft; repeat (first | rfl | split)
@[simp] theorem State.modWeft_mseq (g w : Nat) (f : Weft → Weft) : (s.modWeft g w f).mseq = s.mseq := by
  unfold State.modWeft; repeat (first | rfl | split)
@[simp] theorem State.modWeft_msix (g w : Nat) (f : Weft → Weft) : (s.modWeft g w f).msix = s.msix := by
  unfold State.modWeft; repeat (first | rfl | split)
@[simp] theorem State.modWeft_dfault (g w : Nat) (f : Weft → Weft) : (s.modWeft g w f).dfault = s.dfault := by
  unfold State.modWeft; repeat (first | rfl | split)
@[simp] theorem State.modWeft_dstalls (g w : Nat) (f : Weft → Weft) : (s.modWeft g w f).dstalls = s.dstalls := by
  unfold State.modWeft; repeat (first | rfl | split)
@[simp] theorem State.modWeft_storing (g w : Nat) (f : Weft → Weft) : (s.modWeft g w f).storing = s.storing := by
  unfold State.modWeft; repeat (first | rfl | split)

@[simp] theorem State.modTreadle_clk (g w : Nat) (f : Treadle → Treadle) : (s.modTreadle g w f).clk = s.clk := by
  unfold State.modTreadle; repeat (first | rfl | split)
@[simp] theorem State.modTreadle_sched (g w : Nat) (f : Treadle → Treadle) : (s.modTreadle g w f).sched = s.sched := by
  unfold State.modTreadle; repeat (first | rfl | split)
@[simp] theorem State.modTreadle_rr (g w : Nat) (f : Treadle → Treadle) : (s.modTreadle g w f).rr = s.rr := by
  unfold State.modTreadle; repeat (first | rfl | split)
@[simp] theorem State.modTreadle_inputs (g w : Nat) (f : Treadle → Treadle) : (s.modTreadle g w f).inputs = s.inputs := by
  unfold State.modTreadle; repeat (first | rfl | split)
@[simp] theorem State.modTreadle_agenda (g w : Nat) (f : Treadle → Treadle) : (s.modTreadle g w f).agenda = s.agenda := by
  unfold State.modTreadle; repeat (first | rfl | split)
@[simp] theorem State.modTreadle_issuer (g w : Nat) (f : Treadle → Treadle) : (s.modTreadle g w f).issuer = s.issuer := by
  unfold State.modTreadle; repeat (first | rfl | split)
@[simp] theorem State.modTreadle_tick (g w : Nat) (f : Treadle → Treadle) : (s.modTreadle g w f).tick = s.tick := by
  unfold State.modTreadle; repeat (first | rfl | split)
@[simp] theorem State.modTreadle_uid (g w : Nat) (f : Treadle → Treadle) : (s.modTreadle g w f).uid = s.uid := by
  unfold State.modTreadle; repeat (first | rfl | split)
@[simp] theorem State.modTreadle_mem (g w : Nat) (f : Treadle → Treadle) : (s.modTreadle g w f).mem = s.mem := by
  unfold State.modTreadle; repeat (first | rfl | split)
@[simp] theorem State.modTreadle_poison (g w : Nat) (f : Treadle → Treadle) : (s.modTreadle g w f).poison = s.poison := by
  unfold State.modTreadle; repeat (first | rfl | split)
@[simp] theorem State.modTreadle_devs (g w : Nat) (f : Treadle → Treadle) : (s.modTreadle g w f).devs = s.devs := by
  unfold State.modTreadle; repeat (first | rfl | split)
@[simp] theorem State.modTreadle_ctxs (g w : Nat) (f : Treadle → Treadle) : (s.modTreadle g w f).ctxs = s.ctxs := by
  unfold State.modTreadle; repeat (first | rfl | split)
@[simp] theorem State.modTreadle_tlb (g w : Nat) (f : Treadle → Treadle) : (s.modTreadle g w f).tlb = s.tlb := by
  unfold State.modTreadle; repeat (first | rfl | split)
@[simp] theorem State.modTreadle_lines (g w : Nat) (f : Treadle → Treadle) : (s.modTreadle g w f).lines = s.lines := by
  unfold State.modTreadle; repeat (first | rfl | split)
@[simp] theorem State.modTreadle_cores (g w : Nat) (f : Treadle → Treadle) : (s.modTreadle g w f).cores = s.cores := by
  unfold State.modTreadle; repeat (first | rfl | split)
@[simp] theorem State.modTreadle_clusters (g w : Nat) (f : Treadle → Treadle) : (s.modTreadle g w f).clusters = s.clusters := by
  unfold State.modTreadle; repeat (first | rfl | split)
@[simp] theorem State.modTreadle_regions (g w : Nat) (f : Treadle → Treadle) : (s.modTreadle g w f).regions = s.regions := by
  unfold State.modTreadle; repeat (first | rfl | split)
@[simp] theorem State.modTreadle_tourns (g w : Nat) (f : Treadle → Treadle) : (s.modTreadle g w f).tourns = s.tourns := by
  unfold State.modTreadle; repeat (first | rfl | split)
@[simp] theorem State.modTreadle_deliveries (g w : Nat) (f : Treadle → Treadle) : (s.modTreadle g w f).deliveries = s.deliveries := by
  unfold State.modTreadle; repeat (first | rfl | split)
@[simp] theorem State.modTreadle_reqs (g w : Nat) (f : Treadle → Treadle) : (s.modTreadle g w f).reqs = s.reqs := by
  unfold State.modTreadle; repeat (first | rfl | split)
@[simp] theorem State.modTreadle_casts (g w : Nat) (f : Treadle → Treadle) : (s.modTreadle g w f).casts = s.casts := by
  unfold State.modTreadle; repeat (first | rfl | split)
@[simp] theorem State.modTreadle_done (g w : Nat) (f : Treadle → Treadle) : (s.modTreadle g w f).done = s.done := by
  unfold State.modTreadle; repeat (first | rfl | split)
@[simp] theorem State.modTreadle_mseq (g w : Nat) (f : Treadle → Treadle) : (s.modTreadle g w f).mseq = s.mseq := by
  unfold State.modTreadle; repeat (first | rfl | split)
@[simp] theorem State.modTreadle_msix (g w : Nat) (f : Treadle → Treadle) : (s.modTreadle g w f).msix = s.msix := by
  unfold State.modTreadle; repeat (first | rfl | split)
@[simp] theorem State.modTreadle_dfault (g w : Nat) (f : Treadle → Treadle) : (s.modTreadle g w f).dfault = s.dfault := by
  unfold State.modTreadle; repeat (first | rfl | split)
@[simp] theorem State.modTreadle_dstalls (g w : Nat) (f : Treadle → Treadle) : (s.modTreadle g w f).dstalls = s.dstalls := by
  unfold State.modTreadle; repeat (first | rfl | split)
@[simp] theorem State.modTreadle_storing (g w : Nat) (f : Treadle → Treadle) : (s.modTreadle g w f).storing = s.storing := by
  unfold State.modTreadle; repeat (first | rfl | split)

@[simp] theorem State.modPath_clk (g w t : Nat) (f : Path → Path) : (s.modPath g w t f).clk = s.clk := s.modWeft_clk _ _ _
@[simp] theorem State.modPath_sched (g w t : Nat) (f : Path → Path) : (s.modPath g w t f).sched = s.sched := s.modWeft_sched _ _ _
@[simp] theorem State.modPath_rr (g w t : Nat) (f : Path → Path) : (s.modPath g w t f).rr = s.rr := s.modWeft_rr _ _ _
@[simp] theorem State.modPath_inputs (g w t : Nat) (f : Path → Path) : (s.modPath g w t f).inputs = s.inputs := s.modWeft_inputs _ _ _
@[simp] theorem State.modPath_agenda (g w t : Nat) (f : Path → Path) : (s.modPath g w t f).agenda = s.agenda := s.modWeft_agenda _ _ _
@[simp] theorem State.modPath_issuer (g w t : Nat) (f : Path → Path) : (s.modPath g w t f).issuer = s.issuer := s.modWeft_issuer _ _ _
@[simp] theorem State.modPath_tick (g w t : Nat) (f : Path → Path) : (s.modPath g w t f).tick = s.tick := s.modWeft_tick _ _ _
@[simp] theorem State.modPath_uid (g w t : Nat) (f : Path → Path) : (s.modPath g w t f).uid = s.uid := s.modWeft_uid _ _ _
@[simp] theorem State.modPath_mem (g w t : Nat) (f : Path → Path) : (s.modPath g w t f).mem = s.mem := s.modWeft_mem _ _ _
@[simp] theorem State.modPath_poison (g w t : Nat) (f : Path → Path) : (s.modPath g w t f).poison = s.poison := s.modWeft_poison _ _ _
@[simp] theorem State.modPath_devs (g w t : Nat) (f : Path → Path) : (s.modPath g w t f).devs = s.devs := s.modWeft_devs _ _ _
@[simp] theorem State.modPath_ctxs (g w t : Nat) (f : Path → Path) : (s.modPath g w t f).ctxs = s.ctxs := s.modWeft_ctxs _ _ _
@[simp] theorem State.modPath_tlb (g w t : Nat) (f : Path → Path) : (s.modPath g w t f).tlb = s.tlb := s.modWeft_tlb _ _ _
@[simp] theorem State.modPath_lines (g w t : Nat) (f : Path → Path) : (s.modPath g w t f).lines = s.lines := s.modWeft_lines _ _ _
@[simp] theorem State.modPath_cores (g w t : Nat) (f : Path → Path) : (s.modPath g w t f).cores = s.cores := s.modWeft_cores _ _ _
@[simp] theorem State.modPath_clusters (g w t : Nat) (f : Path → Path) : (s.modPath g w t f).clusters = s.clusters := s.modWeft_clusters _ _ _
@[simp] theorem State.modPath_regions (g w t : Nat) (f : Path → Path) : (s.modPath g w t f).regions = s.regions := s.modWeft_regions _ _ _
@[simp] theorem State.modPath_tourns (g w t : Nat) (f : Path → Path) : (s.modPath g w t f).tourns = s.tourns := s.modWeft_tourns _ _ _
@[simp] theorem State.modPath_deliveries (g w t : Nat) (f : Path → Path) : (s.modPath g w t f).deliveries = s.deliveries := s.modWeft_deliveries _ _ _
@[simp] theorem State.modPath_reqs (g w t : Nat) (f : Path → Path) : (s.modPath g w t f).reqs = s.reqs := s.modWeft_reqs _ _ _
@[simp] theorem State.modPath_casts (g w t : Nat) (f : Path → Path) : (s.modPath g w t f).casts = s.casts := s.modWeft_casts _ _ _
@[simp] theorem State.modPath_done (g w t : Nat) (f : Path → Path) : (s.modPath g w t f).done = s.done := s.modWeft_done _ _ _
@[simp] theorem State.modPath_mseq (g w t : Nat) (f : Path → Path) : (s.modPath g w t f).mseq = s.mseq := s.modWeft_mseq _ _ _
@[simp] theorem State.modPath_msix (g w t : Nat) (f : Path → Path) : (s.modPath g w t f).msix = s.msix := s.modWeft_msix _ _ _
@[simp] theorem State.modPath_dfault (g w t : Nat) (f : Path → Path) : (s.modPath g w t f).dfault = s.dfault := s.modWeft_dfault _ _ _
@[simp] theorem State.modPath_dstalls (g w t : Nat) (f : Path → Path) : (s.modPath g w t f).dstalls = s.dstalls := s.modWeft_dstalls _ _ _
@[simp] theorem State.modPath_storing (g w t : Nat) (f : Path → Path) : (s.modPath g w t f).storing = s.storing := s.modWeft_storing _ _ _

end Sys2Proof.Machine
end

