-- ==== Sys2Proof/Laws/Weft.lean ====
section
/-! SUPPORT. Sys2Proof/Laws/Weft.lean: reads of groups, wefts, paths and registers after a change of one of them. -/

namespace Sys2Proof.Machine

/-! ## Lists -/

theorem find?_modIf {α : Type} (p : α → Bool) (f : α → α) (hf : ∀ x, p x = true → p (f x) = true) (xs : List α) :
    (modIf p f xs).find? p = (xs.find? p).map f := by
  induction xs with
  | nil => rfl
  | cons x xs ih =>
    by_cases hx : p x = true
    · simp [modIf, hx, hf x hx]
    · simp [modIf, hx, ih]

theorem find?_modIf_other {α : Type} (p q : α → Bool) (f : α → α) (hf : ∀ x, p x = true → q (f x) = false) (hq : ∀ x, p x = true → q x = false)
    (xs : List α) : (modIf p f xs).find? q = xs.find? q := by
  induction xs with
  | nil => rfl
  | cons x xs ih =>
    by_cases hx : p x = true
    · simp [modIf, hx, hf x hx, hq x hx, ih]
    · simp only [modIf, hx, List.find?_cons, ih]; rfl

theorem modIf_modIf {α : Type} (p : α → Bool) (f g : α → α) (hf : ∀ x, p x = true → p (f x) = true) (xs : List α) :
    modIf p g (modIf p f xs) = modIf p (fun x => g (f x)) xs := by
  induction xs with
  | nil => rfl
  | cons x xs ih =>
    by_cases hx : p x = true
    · simp [modIf, hx, hf x hx, ih]
    · simp [modIf, hx, ih]

theorem filter_modIf {α : Type} (p : α → Bool) (f : α → α) (hf : ∀ x, p x = true → p (f x) = true) (xs : List α) :
    ((modIf p f xs).filter fun x => !p x) = xs.filter fun x => !p x := by
  induction xs with
  | nil => rfl
  | cons x xs ih =>
    by_cases hx : p x = true
    · simp [modIf, hx, hf x hx, ih]
    · simp [modIf, hx, ih]

/-! ## Groups -/

theorem State.group?_modGroup (s : State) (g : Nat) (f : Group → Group) (hf : ∀ G, (f G).uid = G.uid) :
    (s.modGroup g f).group? g = (s.group? g).map f :=
  find?_modIf _ f (fun x hx => by simpa [hf x] using hx) s.groups

theorem State.group?_modGroup_other (s : State) {g h : Nat} (f : Group → Group) (hf : ∀ G, (f G).uid = G.uid) (hg : h ≠ g) :
    (s.modGroup g f).group? h = s.group? h := by
  refine find?_modIf_other _ _ f (fun x hx => ?_) (fun x hx => ?_) s.groups
  · simp only [hf, beq_iff_eq, beq_eq_false_iff_ne, ne_eq] at hx ⊢; omega
  · simp only [beq_iff_eq, beq_eq_false_iff_ne, ne_eq] at hx ⊢; omega

theorem State.group?_uid {s : State} {g : Nat} {G : Group} (h : s.group? g = some G) : G.uid = g := by
  have := List.find?_some h
  simpa using this

theorem State.party?_modParty (s : State) (u : Nat) (f : Party → Party) (hf : ∀ P, (f P).uid = P.uid) :
    (s.modParty u f).party? u = (s.party? u).map f :=
  find?_modIf _ f (fun x hx => by simpa [hf x] using hx) s.units

@[simp] theorem State.group?_modParty (s : State) (u : Nat) (f : Party → Party) (g : Nat) : (s.modParty u f).group? g = s.group? g := rfl
@[simp] theorem State.party?_modGroup (s : State) (g : Nat) (f : Group → Group) (u : Nat) : (s.modGroup g f).party? u = s.party? u := rfl

/-- A weft depends on the groups and the units alone. -/
theorem State.weft?_congr {s t : State} (hg : t.groups = s.groups) (hu : t.units = s.units) (g w : Nat) : t.weft? g w = s.weft? g w := by
  simp only [State.weft?, State.group?, State.party?, hg, hu]

theorem State.group?_congr {s t : State} (hg : t.groups = s.groups) (g : Nat) : t.group? g = s.group? g := by
  simp only [State.group?, hg]

/-! ## Wefts -/

/-- The weft that was changed reads as changed. -/
theorem State.weft?_modWeft (s : State) (g w : Nat) (f : Weft → Weft) (hf : ∀ x : Weft, x.wid = w → (f x).wid = w) :
    (s.modWeft g w f).weft? g w = (s.weft? g w).map f := by
  unfold State.modWeft
  by_cases h1 : (w == treadleWid) = true
  · rw [if_pos h1]
    simp only [State.weft?, h1, if_true]
    rw [State.group?_modGroup _ _ _ (by intro; rfl)]
    cases s.group? g <;> rfl
  · rw [if_neg h1]
    by_cases h2 : (w == clusterWid) = true
    · rw [if_pos h2]
      cases hG : s.group? g with
      | none => simp [State.weft?, hG]
      | some G =>
        cases hu : G.unit with
        | none => simp [State.weft?, hG, hu, h1, h2]
        | some u =>
          simp only [State.weft?, State.group?_modParty, hG, hu, h1, h2, if_true]
          rw [State.party?_modParty _ _ _ (by intro; rfl)]
          cases s.party? u <;> simp
    · rw [if_neg h2]
      simp only [State.weft?, h1, h2]
      rw [State.group?_modGroup _ _ _ (by intro; rfl)]
      cases hG : s.group? g with
      | none => rfl
      | some G => exact find?_modIf _ f (fun x hx => by simpa using hf x (by simpa using hx)) G.wefts

/-- A group apart from its wefts is as before. -/
theorem State.group?_modWeft_shell (s : State) (g w : Nat) (f : Weft → Weft) (h : Nat) (k : Group → Group)
    (hk : ∀ G ws x, k { G with wefts := ws, trd := { G.trd with weft := x } } = k G) :
    ((s.modWeft g w f).group? h).map k = (s.group? h).map k := by
  have key (q : Group → Group) (hq : ∀ G, (q G).uid = G.uid) (hkq : ∀ G, k (q G) = k G) : ((s.modGroup g q).group? h).map k = (s.group? h).map k := by
    by_cases hh : h = g
    · subst hh
      rw [State.group?_modGroup _ _ _ hq]
      cases s.group? h <;> simp [hkq]
    · rw [State.group?_modGroup_other _ _ hq hh]
  unfold State.modWeft
  split
  · exact key _ (fun _ => rfl) (fun G => hk G G.wefts _)
  · split
    · split
      · rfl
      · split <;> rfl
    · exact key _ (fun _ => rfl) (fun G => hk G _ G.trd.weft)

/-- Every weft but the changed one, and a cluster treadle shared with the changed one, reads as before. -/
theorem State.weft?_modWeft_other (s : State) (g w : Nat) (f : Weft → Weft) (hf : ∀ x : Weft, x.wid = w → (f x).wid = w) {h v : Nat}
    (hv : v ≠ w ∨ (h ≠ g ∧ w ≠ clusterWid)) : (s.modWeft g w f).weft? h v = s.weft? h v := by
  unfold State.modWeft
  by_cases h1 : (w == treadleWid) = true
  · rw [if_pos h1]
    have h1' : w = treadleWid := by simpa using h1
    by_cases hh : h = g
    · have hvw : v ≠ treadleWid := h1' ▸ hv.elim id fun x => absurd hh x.1
      subst hh
      simp only [State.weft?]
      rw [State.group?_modGroup _ _ _ (by intro; rfl)]
      cases s.group? h with
      | none => rfl
      | some G => simp [hvw]
    · simp only [State.weft?]
      rw [State.group?_modGroup_other _ _ (by intro; rfl) hh]
      rfl
  · rw [if_neg h1]
    by_cases h2 : (w == clusterWid) = true
    · rw [if_pos h2]
      have h2' : w = clusterWid := by simpa using h2
      have hvw : v ≠ clusterWid := h2' ▸ hv.elim id fun x => absurd h2' x.2
      have key (q : State) (hq : q.groups = s.groups) : q.weft? h v = s.weft? h v := by
        simp only [State.weft?, State.group?, hq]
        simp [hvw]
      split
      · rfl
      · split
        · rfl
        · exact key _ rfl
    · rw [if_neg h2]
      by_cases hh : h = g
      · have hvw : v ≠ w := hv.elim id fun x => absurd hh x.1
        subst hh
        simp only [State.weft?]
        rw [State.group?_modGroup _ _ _ (by intro; rfl)]
        cases s.group? h with
        | none => rfl
        | some G =>
          simp only [Option.map_some]
          by_cases h3 : (v == treadleWid) = true
          · simp [h3]
          · by_cases h4 : (v == clusterWid) = true
            · simp only [h3, h4, State.party?_modGroup]; rfl
            · simp only [h3, h4]
              refine find?_modIf_other _ _ f (fun x hx => ?_) (fun x hx => ?_) G.wefts
              · simp only [beq_iff_eq, beq_eq_false_iff_ne, ne_eq] at hx ⊢; have := hf x hx; omega
              · simp only [beq_iff_eq, beq_eq_false_iff_ne, ne_eq] at hx ⊢; omega
      · simp only [State.weft?]
        rw [State.group?_modGroup_other _ _ (by intro; rfl) hh]
        rfl

theorem State.weft?_wid {s : State} {g w : Nat} {wf : Weft} (h : s.weft? g w = some wf) (hw : w < treadleWid) : wf.wid = w := by
  unfold State.weft? at h
  have h1 : (w == treadleWid) = false := by simp; omega
  have h2 : (w == clusterWid) = false := by simp [clusterWid]; simp [treadleWid] at hw; omega
  cases hG : s.group? g with
  | none => simp [hG] at h
  | some G =>
    simp only [hG, h1, h2, Bool.false_eq_true, if_false] at h
    have := List.find?_some h
    simpa using this

/-! ## Paths -/

theorem Weft.path?_mask {w : Weft} {t : Nat} {p : Path} (h : w.path? t = some p) : p.mask.getLsbD t = true :=
  List.find?_some (p := fun q : Path => q.mask.getLsbD t) h

/-- A path is found by one of the sixteen threads. -/
theorem Weft.path?_lt {w : Weft} {t : Nat} {p : Path} (h : w.path? t = some p) : t < 16 := by
  have := Weft.path?_mask h
  apply Classical.byContradiction
  intro hn
  rw [BitVec.getLsbD_of_ge _ _ (by omega)] at this
  cases this

theorem Weft.path?_modPath (w : Weft) (t : Nat) (f : Path → Path) (hf : ∀ p, (f p).mask = p.mask) :
    (w.modPath t f).path? t = (w.path? t).map f :=
  find?_modIf _ f (fun x hx => by simpa [hf x] using hx) w.paths

/-! ## Registers -/

theorem bitMask_getLsbD {t u : Nat} (hu : u < 16) : (bitMask t).getLsbD u = decide (u = t) := by
  simp only [bitMask, BitVec.getLsbD_ofNat, hu, decide_true, Bool.true_and]
  rw [Nat.testBit_two_pow]
  simp [eq_comm]

/-- A register reads as it was written (R149); every other register as before. -/
theorem Weft.reg_setReg (w : Weft) {k j : RegKey} (hk : k.ok = true) (hj : j.ok = true) (x : Word) :
    (w.setReg k x).reg j = if k = j then j.kept x else w.reg j := by
  cases k with
  | v n t =>
    cases j with
    | v m u =>
      simp only [RegKey.ok, decide_eq_true_eq] at hk hj
      have : (16 * m + u = 16 * n + t) = (n = m ∧ t = u) := by apply propext; omega
      simp [Weft.setReg, Weft.reg, Sparse.get_put, this, RegKey.kept]
    | _ => simp [Weft.setReg, Weft.reg]
  | s n =>
    cases j with
    | s m => simp [Weft.setReg, Weft.reg, Sparse.get_put, RegKey.kept, eq_comm]
    | _ => simp [Weft.setReg, Weft.reg]
  | p n t =>
    cases j with
    | p m u =>
      simp only [RegKey.ok, decide_eq_true_eq] at hk hj
      by_cases h7 : n = 7
      · subst h7
        by_cases hm : m = 7
        · subst hm; simp [Weft.setReg, Weft.reg, RegKey.kept]
        · simp [Weft.setReg, Weft.reg, Ne.symm hm]
      · by_cases hm : n = m
        · subst hm
          by_cases hu : t = u
          · subst hu
            by_cases hx : x = 0#32 <;> simp [Weft.setReg, Weft.reg, RegKey.kept, h7, hx, Sparse.get_put, bitMask_getLsbD hk, hk]
          · have hb : (bitMask t)[u] = false := by
              rw [← BitVec.getLsbD_eq_getElem, bitMask_getLsbD hj]; simp [Ne.symm hu]
            by_cases hx : x = 0#32 <;> simp [Weft.setReg, Weft.reg, h7, hx, hu, Sparse.get_put, hj, hb]
        · have hm' : ¬m = n := fun h => hm h.symm
          by_cases hx : x = 0#32 <;> simp [Weft.setReg, Weft.reg, h7, hx, hm, hm', Sparse.get_put]
    | _ => by_cases h7 : n = 7 <;> simp [Weft.setReg, Weft.reg, h7]
  | sp n =>
    cases j with
    | sp m => simp [Weft.reg, RegKey.kept]
    | _ => simp [Weft.setReg, Weft.reg]

theorem lastWrite_cons (x : RegKey × Word) (ws : List (RegKey × Word)) (k : RegKey) :
    lastWrite (x :: ws) k = (lastWrite ws k).or (if x.1 = k then some x.2 else none) := by
  unfold lastWrite
  rw [List.reverse_cons, List.find?_append]
  cases ws.reverse.find? (fun x => x.1 == k) with
  | some y => simp
  | none => by_cases h : x.1 = k <;> simp [h]

theorem lastWrite_none {ws : List (RegKey × Word)} {k : RegKey} (h : ∀ x ∈ ws, x.1 ≠ k) : lastWrite ws k = none := by
  induction ws with
  | nil => rfl
  | cons x ws ih => rw [lastWrite_cons, ih fun y hy => h y (by simp [hy])]; simp [h x (by simp)]

/-- The last write of each register stands. -/
theorem lastWrite_lastWrites (ws : List (RegKey × Word)) (k : RegKey) : lastWrite (lastWrites ws) k = lastWrite ws k := by
  induction ws with
  | nil => rfl
  | cons x ws ih =>
    rw [lastWrite_cons]
    unfold lastWrites
    split
    · rename_i h
      rw [ih]
      by_cases hx : x.1 = k
      · obtain ⟨y, hy, hyx⟩ := List.any_eq_true.mp h
        have : (lastWrite ws k).isSome := by
          unfold lastWrite
          rw [Option.isSome_map, List.find?_isSome]
          exact ⟨y, by simpa using hy, by simpa [← hx] using hyx⟩
        obtain ⟨v, hv⟩ := Option.isSome_iff_exists.mp this
        simp [hv]
      · simp [hx]
    · rw [lastWrite_cons, ih]

/-- Registers written one after another hold the last value written. -/
theorem Weft.reg_foldl_setReg (ws : List (RegKey × Word)) (hws : ∀ x ∈ ws, x.1.ok = true) (w : Weft) {k : RegKey} (hk : k.ok = true) :
    (ws.foldl (fun w x => w.setReg x.1 x.2) w).reg k = match lastWrite ws k with | some x => k.kept x | none => w.reg k := by
  induction ws generalizing w with
  | nil => rfl
  | cons x ws ih =>
    rw [List.foldl_cons, ih (fun y hy => hws y (by simp [hy])), lastWrite_cons]
    cases lastWrite ws k with
    | some v => simp
    | none =>
      rw [Weft.reg_setReg _ (hws x (by simp)) hk]
      by_cases h : x.1 = k <;> simp [h]

/-- Writing registers changes the three register files alone. -/
theorem Weft.foldl_setReg_rest (ws : List (RegKey × Word)) (w : Weft) :
    ws.foldl (fun w x => w.setReg x.1 x.2) w =
      { w with v := (ws.foldl (fun w x => w.setReg x.1 x.2) w).v, s := (ws.foldl (fun w x => w.setReg x.1 x.2) w).s,
               p := (ws.foldl (fun w x => w.setReg x.1 x.2) w).p } := by
  induction ws generalizing w with
  | nil => rfl
  | cons x ws ih =>
    rw [List.foldl_cons, ih]
    obtain ⟨k, x⟩ := x
    cases k with
    | p n t => by_cases h : (n == 7) = true <;> simp [Weft.setReg, h]
    | _ => rfl

end Sys2Proof.Machine
end

