-- ==== Sys2Proof/Laws/Issue.lean ====
section
/-! SUPPORT. Sys2Proof/Laws/Issue.lean: what issue, the writes of registers and the ends of an issue can do, said once. -/

namespace Sys2Proof.Machine

/-! ## The issuer -/

/-- What the issuer of a state is. -/
theorem State.ctxAt_spec {s : State} {r : PathRef} {c : Ctx} (h : s.ctxAt r = some c) :
    s.group? r.g = some c.G ∧ s.weft? r.g r.w = some c.wf ∧ (c.late = none → c.wf.path? r.t = some c.p) ∧ c.r = r ∧ c.hold = c.p.hold ∧
      (c.hold = none → c.late = none) := by
  unfold State.ctxAt at h
  split at h
  · rename_i G wf hG hw
    split at h
    · rename_i p hp
      cases h
      exact ⟨hG, hw, fun _ => hp, rfl, rfl, fun _ => rfl⟩
    · obtain ⟨l, -, rfl⟩ := Option.map_eq_some_iff.mp h
      refine ⟨hG, hw, ?_, rfl, rfl, ?_⟩ <;> (intro h; cases h)
  · cases h

theorem State.issuing_spec {s : State} {f : Fields} {c : Ctx} (h : s.issuing f = some c) :
    s.issuer = some c.r ∧ s.group? c.r.g = some c.G ∧ s.weft? c.r.g c.r.w = some c.wf ∧ (c.late = none → c.wf.path? c.r.t = some c.p) ∧
      c.hold = c.p.hold ∧ (c.hold = none → c.late = none) := by
  unfold State.issuing State.ctx? at h
  cases hi : s.issuer with
  | none => simp [hi] at h
  | some r =>
    simp only [hi] at h
    cases hc : s.ctxAt r with
    | none => simp [hc] at h
    | some c0 =>
      simp only [hc, Option.map_some, Option.some.injEq] at h
      obtain ⟨hG, hw, hp, hr, hh, hl⟩ := State.ctxAt_spec hc
      subst h
      simp only [hr]
      exact ⟨trivial, hG, hw, hp, hh, hl⟩

/-- A word that issues runs its body. -/
theorem issue_next {s : State} {i : Form} {f : Fields} {c : Ctx} (h : s.Issues i f c) (body : Ctx → State → State) :
    issue i f body s = .next (body (s.issued i f c).1 (s.issued i f c).2) := by
  obtain ⟨h1, h2, h3, h4⟩ := h
  unfold State.issuing at h1
  unfold issue
  cases hc : s.ctx? with
  | none => simp [hc] at h1
  | some c0 =>
    simp only [hc, Option.map_some, Option.some.injEq] at h1
    subst h1
    simp only at h2
    simp only [h2] at h3 h4
    simp [h2, h3, h4]

/-- A held instruction runs its body again. -/
theorem issue_resume {s : State} {i : Form} {f : Fields} {c : Ctx} (h : s.Resumes f c) (body : Ctx → State → State) :
    issue i f body s = .next (body c s.ticked) := by
  obtain ⟨h1, h2, -⟩ := h
  unfold State.issuing at h1
  unfold issue
  cases hc : s.ctx? with
  | none => simp [hc] at h1
  | some c0 =>
    simp only [hc, Option.map_some, Option.some.injEq] at h1
    subst h1
    cases hx : c0.hold with
    | none => simp [hx] at h2
    | some x =>
      simp only [hx, Option.any_some, bne_iff_ne] at h2
      simp [hx, h2]

/-- A withdrawn instruction issues again as one that counts, unless its rival is parked (R379, R408). -/
theorem issue_withdrawn {s : State} {i : Form} {f : Fields} {c : Ctx} {h : Hold} (h1 : s.issuing f = some c) (h2 : c.hold = some h)
    (h3 : h.why = .withdrawn) (h4 : c.preTrap i f = none) (body : Ctx → State → State) :
    issue i f body s = .next (if s.parked c.G then s else body c (if c.isTreadle then s.ticked else s.ticked.countIssue (s.tournOf c.G))) := by
  unfold State.issuing at h1
  unfold issue
  cases hc : s.ctx? with
  | none => simp [hc] at h1
  | some c0 =>
    simp only [hc, Option.map_some, Option.some.injEq] at h1
    subst h1
    simp only at h2
    simp only [h2] at h4
    simp only [h2, h3, bne_self_eq_false, Bool.false_eq_true, if_false, h4]
    split <;> rfl

/-- A word that traps before it issues does nothing else. -/
theorem issue_trap {s : State} {i : Form} {f : Fields} {c : Ctx} {t : TrapInfo} (h1 : s.issuing f = some c) (h2 : c.hold = none)
    (h3 : s.ready i f c = true) (h4 : c.preTrap i f = some t) (body : Ctx → State → State) :
    issue i f body s = .next (s.ticked.takeTrap c.r.g t) := by
  unfold State.issuing at h1
  unfold issue
  cases hc : s.ctx? with
  | none => simp [hc] at h1
  | some c0 =>
    simp only [hc, Option.map_some, Option.some.injEq] at h1
    subst h1
    simp only at h2
    simp only [h2] at h3 h4
    simp [h2, h3, h4]

/-! ## Frames -/

theorem Frame.refl (s : State) (c : Ctx) : Frame s s c := ⟨rfl, fun _ _ => rfl, fun _ => rfl, fun _ _ _ => rfl⟩

theorem Frame.trans {s t u : State} {c : Ctx} (h : Frame s t c) (k : Frame t u c) : Frame s u c where
  rest := by
    have := k.rest
    rw [h.rest] at this
    exact this
  cores d n := (k.cores d n).trans (h.cores d n)
  groups g := (k.groups g).trans (h.groups g)
  others g w hw := (k.others g w hw).trans (h.others g w hw)

/-- The frame speaks of the issuer by its name alone. -/
theorem Frame.congr {s t : State} {c d : Ctx} (h : Frame s t c) (hr : d.r = c.r) : Frame s t d where
  rest := h.rest
  cores := h.cores
  groups := h.groups
  others g w hw := h.others g w (hr ▸ hw)

theorem Frame.modWeft (s : State) (c : Ctx) (f : Weft → Weft) (hf : ∀ w : Weft, w.wid = c.r.w → (f w).wid = c.r.w) : Frame s (s.modWeft c.r.g c.r.w f) c where
  rest := by
    unfold State.modWeft
    split
    · rfl
    · split
      · split
        · rfl
        · split <;> rfl
      · rfl
  cores d n := by simp [State.core]
  groups g := State.group?_modWeft_shell s c.r.g c.r.w f g Group.shell fun _ _ _ => rfl
  others g w hw := State.weft?_modWeft_other s c.r.g c.r.w f hf hw

theorem Frame.modW (s : State) (c : Ctx) (f : Weft → Weft) (hf : ∀ w : Weft, (f w).wid = w.wid) : Frame s (s.modW c f) c :=
  Frame.modWeft s c f fun w hw => (hf w).trans hw

theorem Weft.modRef_wid (w : Weft) (t : Nat) (f : Path → Path) : (w.modRef t f).wid = w.wid := by unfold Weft.modRef; split <;> rfl

/-- A path of the weft is changed in its place. -/
theorem Weft.modRef_path (w : Weft) {t : Nat} (h : t < 16) (f : Path → Path) : w.modRef t f = w.modPath t f := if_pos h

theorem Frame.modP (s : State) (c : Ctx) (f : Path → Path) : Frame s (s.modP c f) c :=
  Frame.modWeft s c _ fun w hw => (w.modRef_wid _ f).trans hw

theorem Frame.later (s : State) (c : Ctx) (d : Nat) (i : Instr) : Frame s (s.later d i) c :=
  ⟨rfl, fun _ _ => rfl, fun _ => rfl, fun _ _ _ => rfl⟩

theorem Frame.completeAt (s : State) (c : Ctx) (d : Nat) : Frame s (s.completeAt c d) c := by
  unfold State.completeAt
  split
  · exact Frame.refl s c
  · exact Frame.later s c d _

theorem Frame.advance (s : State) (c : Ctx) : Frame s (s.advance c) c := Frame.modP s c _

theorem Frame.ticked (s : State) (c : Ctx) : Frame s s.ticked c := ⟨rfl, fun _ _ => rfl, fun _ => rfl, fun _ _ _ => rfl⟩

theorem Frame.fresh (s : State) (c : Ctx) : Frame s s.fresh.2 c := ⟨rfl, fun _ _ => rfl, fun _ => rfl, fun _ _ _ => rfl⟩

theorem Frame.modTourn (s : State) (c : Ctx) (n : Nat) (f : Tourn → Tourn) : Frame s (s.modTourn n f) c :=
  ⟨rfl, fun _ _ => rfl, fun _ => rfl, fun _ _ _ => rfl⟩

theorem find?_upsert {α : Type} (p : α → Bool) (new : α) (f : α → α) (hn : p (f new) = true) (hf : ∀ x, p x = true → p (f x) = true) (xs : List α) :
    (upsert p new f xs).find? p = some (f ((xs.find? p).getD new)) := by
  induction xs with
  | nil => simp [upsert, hn]
  | cons x xs ih =>
    by_cases hx : p x = true
    · simp [upsert, hx, hf x hx]
    · simp [upsert, hx, ih]

theorem find?_upsert_other {α : Type} (p q : α → Bool) (new : α) (f : α → α) (hn : q (f new) = false)
    (hf : ∀ x, p x = true → q (f x) = false) (hq : ∀ x, p x = true → q x = false) (xs : List α) :
    (upsert p new f xs).find? q = xs.find? q := by
  induction xs with
  | nil => simp [upsert, hn]
  | cons x xs ih =>
    by_cases hx : p x = true
    · simp [upsert, hx, hf x hx, hq x hx]
    · simp only [upsert, hx, List.find?_cons, Bool.false_eq_true, if_false, ih]

/-- The core that was changed reads as changed. -/
theorem State.core_modCore (s : State) (d n : Nat) (f : Core → Core) (hf : ∀ k, (f k).dev = k.dev ∧ (f k).n = k.n) :
    (s.modCore d n f).core d n = f (s.core d n) := by
  unfold State.core State.modCore
  simp only
  rw [find?_upsert]
  · rfl
  · simp [hf]
  · intro x hx; simpa [hf x] using hx

/-- Every other core reads as before. -/
theorem State.core_modCore_other (s : State) {d n e m : Nat} (f : Core → Core) (hf : ∀ k, (f k).dev = k.dev ∧ (f k).n = k.n) (h : ¬(e = d ∧ m = n)) :
    (s.modCore d n f).core e m = s.core e m := by
  unfold State.core State.modCore
  simp only
  rw [find?_upsert_other]
  · simp only [hf]
    by_cases h1 : d = e
    · have : n ≠ m := fun h2 => h ⟨h1.symm, h2.symm⟩
      simp [this]
    · simp [h1]
  · intro x hx
    simp only [Bool.and_eq_true, beq_iff_eq] at hx
    simp only [hf, hx, Bool.and_eq_false_iff, beq_eq_false_iff_ne, ne_eq]
    by_cases h1 : d = e
    · exact .inr fun h2 => h ⟨h1.symm, h2.symm⟩
    · exact .inl h1
  · intro x hx
    simp only [Bool.and_eq_true, beq_iff_eq] at hx
    simp only [hx, Bool.and_eq_false_iff, beq_eq_false_iff_ne, ne_eq]
    by_cases h1 : d = e
    · exact .inr fun h2 => h ⟨h1.symm, h2.symm⟩
    · exact .inl h1

theorem Frame.modLane (s : State) (c : Ctx) (d n l : Nat) (f : Lane → Lane) : Frame s (s.modCore d n fun k => k.modLane l f) c where
  rest := rfl
  cores e m := by
    by_cases h : e = d ∧ m = n
    · obtain ⟨rfl, rfl⟩ := h
      rw [State.core_modCore _ _ _ _ (by intro; exact ⟨rfl, rfl⟩)]
      rfl
    · rw [State.core_modCore_other _ _ (by intro; exact ⟨rfl, rfl⟩) h]
  groups _ := rfl
  others _ _ _ := rfl

/-! ## Issue -/

/-- Reading a register needs the register files alone. -/
theorem Weft.reg_congr {w x : Weft} (hv : w.v = x.v) (hs : w.s = x.s) (hp : w.p = x.p) (k : RegKey) : w.reg k = x.reg k := by
  cases k <;> simp [Weft.reg, hv, hs, hp]

/-- What the issue of a word leaves: the issuer and its weft with the units raised (R123 to R129), everything else as it was. -/
structure Raised (s : State) (c : Ctx) (d : Ctx) (t : State) : Prop where
  same : d.r = c.r ∧ d.sel = c.sel ∧ d.G = c.G ∧ d.R = c.R ∧ d.hold = c.hold
  weft : t.weft? c.r.g c.r.w = some d.wf
  path : d.wf.path? c.r.t = some d.p
  pc : d.p.mask = c.p.mask ∧ d.p.pc = c.p.pc ∧ d.p.hold = c.p.hold
  paths : (d.wf.paths.filter fun q => !q.mask.getLsbD c.r.t) = c.wf.paths.filter fun q => !q.mask.getLsbD c.r.t
  reg : ∀ k, d.wf.reg k = c.wf.reg k
  rest : d.wf = { c.wf with flags := d.wf.flags, ld := d.wf.ld, st := d.wf.st, cp := d.wf.cp, tl := d.wf.tl, outs := d.wf.outs,
                            young := d.wf.young, acq := d.wf.acq, own := d.wf.own, paths := d.wf.paths }
  out : c.isTreadle = false → ∃ o ∈ d.wf.outs, o.n = d.out ∧ o.writes = []
  frame : Frame s t c

theorem Frame.countIssue (s : State) (c : Ctx) (x : Option (Tourn × Rival)) : Frame s (s.countIssue x) c := by
  cases x with
  | none => exact Frame.refl s c
  | some x => exact Frame.modTourn s c _ _

theorem State.countIssue_weft? (s : State) (x : Option (Tourn × Rival)) (g w : Nat) : (s.countIssue x).weft? g w = s.weft? g w := by
  cases x <;> rfl

/-- Issue, said once. -/
theorem State.raise_raised {s : State} {c : Ctx} (i : Form) (f : Fields) (hw : s.weft? c.r.g c.r.w = some c.wf)
    (hp : c.wf.path? c.r.t = some c.p) : Raised s c (s.raise i f c).1 (s.raise i f c).2 := by
  unfold State.raise
  split
  · exact ⟨⟨rfl, rfl, rfl, rfl, rfl⟩, hw, hp, ⟨rfl, rfl, rfl⟩, rfl, fun _ => rfl, rfl, fun h => by simp_all, Frame.refl s c⟩
  · rename_i ht
    have hm := Weft.path?_mask hp
    have hwid := State.weft?_wid hw (by simpa [Ctx.isTreadle] using ht)
    have hf : ∀ x : Weft, x.wid = c.r.w → (c.raisedWeft s.clk s.uid i f (c.raisedPath s.clk (formPasses i f c.sel) i f)).wid = c.r.w := fun _ _ => hwid
    refine ⟨⟨rfl, rfl, rfl, rfl, rfl⟩, ?_, ?_, ⟨rfl, rfl, rfl⟩, ?_, fun k => rfl, rfl, fun _ => ⟨_, List.mem_append_right _ (List.mem_singleton_self _), rfl, rfl⟩, ?_⟩
    · refine (State.countIssue_weft? _ _ _ _).trans ((State.weft?_modWeft s.fresh.2 c.r.g c.r.w _ hf).trans ?_)
      rw [State.weft?_congr (State.fresh_groups s) (State.fresh_units s), hw]
      rfl
    · exact (find?_modIf (fun q : Path => q.mask.getLsbD c.r.t) (fun _ => c.raisedPath s.clk (formPasses i f c.sel) i f) (fun _ _ => hm)
        c.wf.paths).trans (by rw [show c.wf.paths.find? _ = some c.p from hp]; rfl)
    · exact filter_modIf (fun q : Path => q.mask.getLsbD c.r.t) (fun _ => c.raisedPath s.clk (formPasses i f c.sel) i f) (fun _ _ => hm) c.wf.paths
    · exact (Frame.fresh s c).trans ((Frame.modWeft _ c _ hf).trans ((Frame.modLane _ c _ _ _ _).trans (Frame.countIssue _ c _)))

/-! ## The ends of an issue -/

theorem Weft.foldl_setReg_wid (ws : List (RegKey × Word)) (w : Weft) : (ws.foldl (fun w x => w.setReg x.1 x.2) w).wid = w.wid := by
  rw [Weft.foldl_setReg_rest]

theorem mem_lastWrites {ws : List (RegKey × Word)} {x : RegKey × Word} (h : x ∈ lastWrites ws) : x ∈ ws := by
  induction ws with
  | nil => exact h
  | cons y ws ih =>
    unfold lastWrites at h
    split at h
    · exact List.mem_cons_of_mem _ (ih h)
    · rcases List.mem_cons.mp h with rfl | h
      · exact List.mem_cons_self
      · exact List.mem_cons_of_mem _ (ih h)

/-- The first of the last writes of a register is its last write. -/
theorem find?_lastWrites (ws : List (RegKey × Word)) (k : RegKey) :
    ((lastWrites ws).find? fun x => x.1 == k).map (fun x => x.2) = lastWrite ws k := by
  induction ws with
  | nil => rfl
  | cons x ws ih =>
    rw [lastWrite_cons]
    unfold lastWrites
    split
    · rename_i h
      rw [ih]
      by_cases hx : x.1 = k
      · obtain ⟨y, hy, hyx⟩ := List.any_eq_true.mp h
        have : (lastWrite ws k).isSome := by
          unfold lastWrite
          rw [Option.isSome_map, List.find?_isSome]
          exact ⟨y, by simpa using hy, by simpa [← hx] using hyx⟩
        obtain ⟨v, hv⟩ := Option.isSome_iff_exists.mp this
        simp [hv]
      · simp [hx]
    · rename_i h
      by_cases hx : x.1 = k
      · have h' : ∀ y ∈ ws, y.1 ≠ k := fun y hy e => h (List.any_eq_true.mpr ⟨y, hy, by simp [e, hx]⟩)
        simp [hx, lastWrite_none h']
      · have hx' : (x.1 == k) = false := by simpa using hx
        rw [List.find?_cons_of_neg (by simpa using hx), ih]
        simp [hx]

/-- Fixed-latency results stand in the registers (R125). -/
theorem State.writeNow_weft? {s : State} {c : Ctx} {w : Weft} (hw : s.weft? c.r.g c.r.w = some w) (ws : List (RegKey × Word))
    (hws : ∀ x ∈ ws, x.1.ok = true) :
    ∃ x, (s.writeNow c ws).weft? c.r.g c.r.w = some x ∧ x.paths = w.paths ∧
      (∀ k, k.ok = true → x.reg k = match lastWrite ws k with | some v => k.kept v | none => w.reg k) ∧
      x = { w with v := x.v, s := x.s, p := x.p, outs := x.outs, young := x.young } := by
  have hw' : ∀ x ∈ lastWrites ws, x.1.ok = true := fun x hx => hws x (mem_lastWrites hx)
  let w1 := if c.isTreadle then w else w.contest c.out ((lastWrites ws).map fun x => x.1)
  have h1 : w1 = { w with outs := w1.outs } := by
    show (if _ then _ else _) = _
    by_cases h : c.isTreadle = true <;> simp only [w1, h, if_true] <;> rfl
  let w2 := (lastWrites ws).foldl (fun w x => w.setReg x.1 x.2) w1
  have h2 : w2 = { w1 with v := w2.v, s := w2.s, p := w2.p } := Weft.foldl_setReg_rest _ _
  refine ⟨_, (State.weft?_modWeft s c.r.g c.r.w _ ?_).trans (by rw [hw]; rfl), ?_, ?_, ?_⟩
  · intro x hx
    refine (Weft.foldl_setReg_wid _ _).trans ?_
    by_cases h : c.isTreadle = true <;> simp only [h, if_true] <;> exact hx
  · show w2.paths = w.paths
    rw [h2, h1]
  · intro k hk
    refine (Weft.reg_congr (x := w2) rfl rfl rfl k).trans ?_
    rw [show w2.reg k = _ from Weft.reg_foldl_setReg _ hw' w1 hk, lastWrite_lastWrites]
    cases lastWrite ws k with
    | some v => rfl
    | none => exact Weft.reg_congr (by rw [h1]) (by rw [h1]) (by rw [h1]) k
  · show ({ w2 with young := _ } : Weft) = { w with v := w2.v, s := w2.s, p := w2.p, outs := w2.outs, young := _ }
    rw [h2, h1]

/-- Variable-latency results stand in the outstanding record; a treadle's in its registers (R125, R236). -/
theorem State.writeLate_weft? {s : State} {c : Ctx} {w : Weft} (hw : s.weft? c.r.g c.r.w = some w) (ws : List (RegKey × Word))
    (hws : ∀ x ∈ ws, x.1.ok = true) (ho : c.isTreadle = false → ∃ o ∈ w.outs, o.n = c.out ∧ o.writes = []) :
    ∃ x, (s.writeLate c ws).weft? c.r.g c.r.w = some x ∧ x.paths = w.paths ∧
      (c.isTreadle = true → ∀ k, k.ok = true → x.reg k = match lastWrite ws k with | some v => k.kept v | none => w.reg k) ∧
      (c.isTreadle = false → (∀ k, x.reg k = w.reg k) ∧
        ∃ o ∈ x.outs, o.n = c.out ∧ ∀ k, (o.writes.find? fun y => y.key == k).map (fun y => y.val) = lastWrite ws k) ∧
      x = { w with v := x.v, s := x.s, p := x.p, outs := x.outs, young := x.young } := by
  unfold State.writeLate
  split
  · rename_i ht
    refine ⟨_, (State.weft?_modWeft s c.r.g c.r.w _ ?_).trans (by rw [hw]; rfl), ?_, ?_, ?_, ?_⟩
    · intro x hx; exact (Weft.foldl_setReg_wid _ _).trans hx
    · show (ws.foldl (fun w x => w.setReg x.1 x.2) w).paths = _
      rw [Weft.foldl_setReg_rest]
    · intro _ k hk; exact Weft.reg_foldl_setReg ws hws w hk
    · intro h; simp [ht] at h
    · let y := ws.foldl (fun w x => w.setReg x.1 x.2) w
      have hy : y = { w with v := y.v, s := y.s, p := y.p } := Weft.foldl_setReg_rest ws w
      show y = { w with v := y.v, s := y.s, p := y.p, outs := y.outs, young := y.young }
      rw [hy]
  · rename_i ht
    have ht : c.isTreadle = false := by simpa using ht
    refine ⟨_, (State.weft?_modWeft s c.r.g c.r.w _ ?_).trans (by rw [hw]; rfl), ?_, ?_, ?_, ?_⟩
    · intro x hx; exact hx
    · rfl
    · intro h; simp [ht] at h
    rotate_left
    · rfl
    · intro _
      obtain ⟨o, hom, hon, how⟩ := ho ht
      refine ⟨fun k => rfl, { o with writes := (lastWrites ws).map fun x => { key := x.1, val := x.2, contested := o.crossed.contains x.1 } }, ?_, hon, ?_⟩
      · refine List.mem_map.mpr ⟨o, List.mem_map.mpr ⟨o, hom, ?_⟩, ?_⟩
        · simp [hon]
        · simp [hon, how]
      · intro k
        rw [← find?_lastWrites ws k, List.find?_map, Option.map_map]
        rfl

/-- The path goes on. -/
theorem State.advance_weft? {s : State} {c : Ctx} {w : Weft} (hw : s.weft? c.r.g c.r.w = some w) :
    (s.advance c).weft? c.r.g c.r.w = some (w.modRef c.r.t fun p => { p with pc := p.pc + 1, hold := none }) :=
  (State.weft?_modWeft s c.r.g c.r.w _ fun w hx => (w.modRef_wid _ _).trans hx).trans (by rw [hw]; rfl)

theorem State.completeAt_weft? (s : State) (c : Ctx) (d g w : Nat) : (s.completeAt c d).weft? g w = s.weft? g w := by
  unfold State.completeAt
  split <;> rfl

/-- The frame of the writes. -/
theorem Frame.writeNow (s : State) (c : Ctx) (ws : List (RegKey × Word)) : Frame s (s.writeNow c ws) c := by
  refine Frame.modW s c _ fun x => (Weft.foldl_setReg_wid _ _).trans ?_
  by_cases h : c.isTreadle = true <;> simp only [h, if_true] <;> rfl

theorem Frame.writeLate (s : State) (c : Ctx) (ws : List (RegKey × Word)) : Frame s (s.writeLate c ws) c := by
  unfold State.writeLate
  split
  · exact Frame.modW s c _ fun x => Weft.foldl_setReg_wid _ _
  · exact Frame.modW s c _ fun x => rfl

@[simp] theorem State.writeLate_mem (s : State) (c : Ctx) (ws : List (RegKey × Word)) : (s.writeLate c ws).mem = s.mem := by
  unfold State.writeLate
  split <;> exact State.modWeft_mem ..

@[simp] theorem State.advance_mem (s : State) (c : Ctx) : (s.advance c).mem = s.mem := State.modWeft_mem ..

@[simp] theorem State.holdP_mem (s : State) (c : Ctx) (why : Why) (arg : Nat) (m : Mask) (va : DWord) : (s.holdP c why arg m va).mem = s.mem :=
  State.modWeft_mem ..

@[simp] theorem State.completeAt_mem (s : State) (c : Ctx) (n : Nat) : (s.completeAt c n).mem = s.mem := by
  unfold State.completeAt
  split <;> rfl

@[simp] theorem State.finishLate_mem (s : State) (c : Ctx) (ws : List (RegKey × Word)) : (s.finishLate c ws).mem = s.mem := by
  simp [State.finishLate]

/-- An instruction that ends its issue without a result: its path stands at the next instruction, held by nothing, and no register has changed. -/
theorem State.finishLate_goesOn {s : State} {c : Ctx} {w : Weft} {p : Path} (hw : s.weft? c.r.g c.r.w = some w) (hp : w.path? c.r.t = some p) :
    ∃ x y, (s.finishLate c []).weft? c.r.g c.r.w = some x ∧ x.path? c.r.t = some y ∧ y.pc = p.pc + 1 ∧ y.hold = none ∧ ∀ k, x.reg k = w.reg k := by
  have h : ∃ v, (s.writeLate c []).weft? c.r.g c.r.w = some v ∧ v.paths = w.paths ∧ ∀ k, v.reg k = w.reg k := by
    unfold State.writeLate
    split
    · exact ⟨w, (State.weft?_modWeft s c.r.g c.r.w (fun x => x) fun _ hx => hx).trans (by rw [hw]; rfl), rfl, fun _ => rfl⟩
    · refine ⟨_, (State.weft?_modWeft s c.r.g c.r.w _ ?_).trans (by rw [hw]; rfl), ?_, ?_⟩
      · intro _ hx; exact hx
      · rfl
      · intro _; rfl
  obtain ⟨v, hv, hvp, hvr⟩ := h
  have hm := Weft.modRef_path v (Weft.path?_lt hp) fun q => { q with pc := q.pc + 1, hold := none }
  refine ⟨_, { p with pc := p.pc + 1, hold := none }, (State.completeAt_weft? _ _ _ _ _).trans (State.advance_weft? hv), ?_, rfl, rfl, ?_⟩
  · rw [hm, Weft.path?_modPath _ _ _ (by intro; rfl), show v.path? c.r.t = some p by rw [← hp]; simp [Weft.path?, hvp]]
    rfl
  · intro k
    rw [hm]
    exact hvr k

/-- A path that is held: it stands where it stood, with what the hold keeps, and no register has changed. -/
theorem State.holdP_holds {s : State} {c : Ctx} {w : Weft} {p : Path} (hw : s.weft? c.r.g c.r.w = some w) (hp : w.path? c.r.t = some p) (why : Why)
    (arg : Nat) (m : Mask) (va : DWord) :
    ∃ x y, (s.holdP c why arg m va).weft? c.r.g c.r.w = some x ∧ x.path? c.r.t = some y ∧ y.pc = p.pc ∧ y.mask = p.mask ∧
      y.hold = some { why, arg, pmask := m, out := c.out, sel := c.sel, va } ∧ ∀ k, x.reg k = w.reg k := by
  let held (q : Path) : Path := { q with hold := some { why, arg, pmask := m, out := c.out, sel := c.sel, va } }
  have hm := Weft.modRef_path w (Weft.path?_lt hp) held
  refine ⟨w.modRef c.r.t held, held p, (State.weft?_modWeft s c.r.g c.r.w _ fun x hx => (x.modRef_wid _ _).trans hx).trans (by rw [hw]; rfl), ?_,
    rfl, rfl, rfl, ?_⟩
  · rw [hm, Weft.path?_modPath _ _ _ (by intro; rfl), hp]
    rfl
  · intro k
    rw [hm]
    rfl

/-- The ends of an issue, from the weft as its writes have left it. -/
theorem Ends.of {s t u : State} {c d : Ctx} (h : Raised s c d t) (i : Form) (ws : List (RegKey × Word)) {x : Weft} (n : Nat)
    (hx : u.weft? d.r.g d.r.w = some x) (hp : x.paths = d.wf.paths)
    (hr : x = { d.wf with v := x.v, s := x.s, p := x.p, outs := x.outs, young := x.young })
    (hnow : c.writesNow i = true → ∀ k, k.ok = true → x.reg k = match lastWrite ws k with | some v => k.kept v | none => c.wf.reg k)
    (hlate : c.writesNow i = false → (∀ k, x.reg k = c.wf.reg k) ∧
      ∃ o ∈ x.outs, o.n = d.out ∧ ∀ k, (o.writes.find? fun y => y.key == k).map (fun y => y.val) = lastWrite ws k) :
    ∃ w, ((u.advance d).completeAt d n).weft? c.r.g c.r.w = some w ∧ Ends i c ws d.out w := by
  have hcr := h.same.1
  refine ⟨x.modPath d.r.t fun p => { p with pc := p.pc + 1, hold := none }, ?_, ⟨fun hn k hk => ?_, fun hn => ?_, ?_, ?_, ?_⟩⟩
  · rw [State.completeAt_weft?, ← hcr]
    exact (State.advance_weft? hx).trans (congrArg some (x.modRef_path (by rw [hcr]; exact Weft.path?_lt h.path) _))
  · exact hnow hn k hk
  · exact hlate hn
  · rw [hcr, Weft.path?_modPath _ _ _ (by intro; rfl), show x.path? c.r.t = some d.p by rw [← h.path]; simp [Weft.path?, hp]]
    simp [h.pc.1, h.pc.2.1]
  · rw [hcr]
    refine (filter_modIf (fun q : Path => q.mask.getLsbD c.r.t) _ (by intro _ hq; exact hq) x.paths).trans ?_
    rw [hp, h.paths]
  · have hd := h.rest
    have hx' : x = { c.wf with v := x.v, s := x.s, p := x.p, flags := x.flags, ld := x.ld, st := x.st, cp := x.cp, tl := x.tl, outs := x.outs,
                               young := x.young, acq := x.acq, own := x.own, paths := x.paths } := by
      rw [hr, hd]
    exact congrArg (fun z : Weft => z.modPath d.r.t fun p => { p with pc := p.pc + 1, hold := none }) hx'

/-- An instruction that only computes has ended its issue (R125, R127). -/
theorem State.finish_ends {s t : State} {c d : Ctx} (h : Raised s c d t) (i : Form) (ws : List (RegKey × Word)) (hws : ∀ x ∈ ws, x.1.ok = true)
    (h0 : c.sel = 0 → ws = []) :
    ∃ w, (t.finish i d ws).weft? c.r.g c.r.w = some w ∧ Ends i c ws d.out w ∧ Frame s (t.finish i d ws) c := by
  obtain ⟨hr, hs, -, -, -⟩ := h.same
  have htr : d.isTreadle = c.isTreadle := by unfold Ctx.isTreadle; rw [hr]
  have hw : t.weft? d.r.g d.r.w = some d.wf := by rw [hr]; exact h.weft
  have hframe : ∀ u, Frame t u d → Frame s u c := fun u hu => h.frame.trans (hu.congr hr.symm)
  unfold State.finish
  by_cases h1 : (d.sel == 0) = true
  · rw [if_pos h1]
    have hsel : c.sel = 0 := by rw [← hs]; simpa using h1
    have hn : c.writesNow i = true := by simp [Ctx.writesNow, hsel]
    obtain ⟨w, hw', he⟩ := Ends.of h i ws (d.p.last + 6) hw rfl rfl (fun _ k _ => by rw [h0 hsel]; exact h.reg k) (fun hf => by simp [hn] at hf)
    exact ⟨w, hw', he, hframe _ ((Frame.advance t d).trans (Frame.completeAt _ d _))⟩
  · rw [if_neg h1]
    by_cases h2 : formFixed i = true
    · rw [if_pos h2]
      obtain ⟨x, hx, hp, hreg, hrest⟩ := State.writeNow_weft? hw ws hws
      obtain ⟨w, hw', he⟩ := Ends.of h i ws (d.p.last + 6) hx hp hrest (fun _ k hk => by rw [hreg k hk, h.reg k]) (fun hf => by simp [Ctx.writesNow, h2] at hf)
      exact ⟨w, hw', he, hframe _ (((Frame.writeNow t d ws).trans (Frame.advance _ d)).trans (Frame.completeAt _ d _))⟩
    · rw [if_neg h2]
      obtain ⟨x, hx, hp, hnow, hlate, hrest⟩ := State.writeLate_weft? hw ws hws (by rw [htr]; exact h.out)
      have hn : c.writesNow i = c.isTreadle := by
        rw [hs] at h1
        simp only [Ctx.writesNow, h2, h1, Bool.false_or, Bool.or_false]
      obtain ⟨w, hw', he⟩ := Ends.of h i ws t.clk hx hp hrest
        (fun hf k hk => by rw [hnow (htr.trans (hn.symm.trans hf)) k hk, h.reg k])
        (fun hf => by
          obtain ⟨ha, hb⟩ := hlate (htr.trans (hn.symm.trans hf))
          exact ⟨fun k => (ha k).trans (h.reg k), hb⟩)
      exact ⟨w, hw', he, hframe _ (((Frame.writeLate t d ws).trans (Frame.advance _ d)).trans (Frame.completeAt _ d _))⟩

/-- An instruction whose meaning ends its issue with writes computes them. -/
theorem Computes.of {s : State} {i : Form} {f : Fields} {c : Ctx} (h : s.Issues i f c) (ws : Ctx → State → List (RegKey × Word))
    (he : exec (i.mk f) s = issue i f (fun c s => s.finish i c (ws c s)) s)
    (hws : ∀ c s, (∀ x ∈ ws c s, x.1.ok = true) ∧ (c.sel = 0 → ws c s = [])) :
    Computes s i f c (ws (s.issued i f c).1 (s.issued i f c).2) := by
  obtain ⟨-, -, hw, hp, -, hl⟩ := State.issuing_spec h.1
  have hr : Raised s.ticked c (s.issued i f c).1 (s.issued i f c).2 := State.raise_raised i f hw (hp (hl h.2.1))
  obtain ⟨w, h1, h2, h3⟩ := State.finish_ends hr i _ (hws _ _).1 (fun h0 => (hws _ _).2 (hr.same.2.1.trans h0))
  exact ⟨_, w, he.trans (issue_next h _), h1, h2, (Frame.ticked s c).trans h3⟩

/-! ## The writes of blocks -/

theorem mem_threadsOf {m : Mask} {t : Nat} (h : t ∈ threadsOf m) : t < 16 ∧ m.getLsbD t = true := by
  simpa [threadsOf] using h

@[simp] theorem threadsOf_zero : threadsOf 0#16 = [] := by decide

theorem putKeys_ok {ks : List RegKey} (h : ∀ k ∈ ks, k.ok = true) (v : Nat) : ∀ x ∈ putKeys ks v, x.1.ok = true := by
  intro x hx
  obtain ⟨⟨k, n⟩, hk, rfl⟩ := List.mem_map.mp hx
  exact h k (List.fst_mem_of_mem_zipIdx hk)

theorem destKeys_ok (o : Operand) (w i j : Nat) {t : Nat} (ht : t < 16) : ∀ k ∈ destKeys o w t i j, k.ok = true := by
  intro k hk
  cases o <;> simp only [destKeys, List.mem_map, List.not_mem_nil, List.mem_singleton] at hk
  all_goals first
    | (obtain ⟨x, -, rfl⟩ := hk; simp [RegKey.ok, ht])
    | (subst hk; simp [RegKey.ok, ht])

theorem Ctx.blockWrites_ok (c : Ctx) (f : Fields) (w : Nat) (g : Nat → Nat → Nat → Nat) :
    (∀ x ∈ c.blockWrites f w g, x.1.ok = true) ∧ (c.sel = 0 → c.blockWrites f w g = []) := by
  refine ⟨fun x hx => ?_, fun h => by simp [Ctx.blockWrites, h]⟩
  obtain ⟨t, ht, hx⟩ := List.mem_flatMap.mp hx
  obtain ⟨⟨i, j⟩, -, hx⟩ := List.mem_flatMap.mp hx
  exact putKeys_ok (destKeys_ok f.d w i j (mem_threadsOf ht).1) _ x hx

theorem Ctx.laneWrites_ok (c : Ctx) (o : Operand) (g : Nat → Nat) :
    (∀ x ∈ c.laneWrites o g, x.1.ok = true) ∧ (c.sel = 0 → c.laneWrites o g = []) := by
  refine ⟨fun x hx => ?_, fun h => by simp [Ctx.laneWrites, h]⟩
  obtain ⟨t, ht, hx⟩ := List.mem_flatMap.mp hx
  exact putKeys_ok (destKeys_ok o 1 0 0 (mem_threadsOf ht).1) _ x hx

end Sys2Proof.Machine
end

