-- ==== Sys2Proof/Laws/Exec.lean ====
section
/-! SUPPORT. Sys2Proof/Laws/Exec.lean: what exec does with every instruction word and every step that is none. -/

namespace Sys2Proof.Machine

/-- Every instruction word is executed by `issue`. -/
theorem exec_mk (i : Form) (f : Fields) : ∃ body, ∀ s, exec (i.mk f) s = issue i f body s := by
  cases i <;> simp only [Form.mk, exec,
    execNop, execBra, execBrx, execCall, execCallx, execRet, execRejoin, execExit, execWait, execTrywait, execSleep, execYield, execBrk,
    execTrap, execLoop, execAdd, execSub, execAddc, execSubb, execMul, execMulhi, execMulw, execMad, execMadw, execDiv, execRem, execAbs,
    execNeg, execMin, execMax, execClamp, execSad, execDp4, execAnd, execOr, execXor, execNot, execLop3, execShl, execShr, execSar, execRot,
    execFsh, execBfx, execBfi, execPopc, execClz, execCtz, execBrev, execBperm, execLea, execIcmp, execFcmp, execFclass, execSel, execPand,
    execPor, execPxor, execPnot, execPmov, execPany, execFadd, execFsub, execFmul, execFma, execFmin, execFmax, execFabs, execFneg,
    execFcopysign, execFrnd, execFsat, execFdot2, execFscale, execCvt, execTenc, execTdec, execXcvt, execKcvt, execE8enc, execPack,
    execUnpack, execRcp, execDivFloat, execSqrt, execRsqrt, execEx2, execLg2, execSinpi, execCospi, execTanh, execCmul, execCfma,
    execTwosum, execTwoprod, execMov, execMovi, execMovs, execBcast, execShfl, execVote, execBallot, execMatchThreads, execBlkmov, execRdsr,
    execWrsr, execLd, execSt, execLds, execSts, execLdb, execLdsel, execPf, execCopClean, execCopFlush, execCopDemote, execCopZero,
    execBeamwait, execAtom, execAtomv, execRed, execRedv, execCas, execAccr, execAccflush, execAcctag, execLdf, execAdst, execAdld,
    execAdpeek, execAdforce, execUsecnt, execUseadj, execCmdw, execBwait, execBset, execBexp, execBstat, execCountb, execRelh, execShcancel,
    execMma, execMmap, execTzero, execTread, execTwrite, execTdrain, execTdadd, execTopen, execTfence, execTwait, execTlc, execTrun,
    execTstop, execBarv, execBarw, execBars, execGbar, execFence, execCbar, execLaunch, execPost, execRegacq, execRegacqTry, execRegrel,
    execSpgrow, execSpgrowTry, execScore, execTrnd, execJqstart, execJqdone, execJqstat, execIpin, execIunpin, execIpf, execMcast,
    execPermx, execTlbiAll, execTlbiCtx, execTlbiPage, execReplay, execReplayAll, execRdflt, execSvc, execEret, execCtxsv] <;>
    exact ⟨_, fun _ => rfl⟩

/-- An instruction that a word encodes is a form with its fields. -/
theorem word?_mk {i : Instr} {k : Form} {f : Fields} (h : i.word? = some (k, f)) : i = k.mk f := by
  cases i <;> simp [Instr.word?] at h <;> (obtain ⟨rfl, rfl⟩ := h; rfl)

/-- Every step that no word encodes has a next state. -/
theorem exec_event (i : Instr) (h : i.word? = none) (s : State) : ∃ t, exec i s = .next t := by
  cases i <;> first | exact ⟨_, rfl⟩ | simp [Instr.word?] at h

/-- A word that some path executes has a next state. -/
theorem issue_answers (i : Form) (f : Fields) (body : Ctx → State → State) (s : State) (h : s.ctx?.isSome = true) :
    ∃ t, issue i f body s = .next t := by
  unfold issue
  cases hc : s.ctx? with
  | none => simp [hc] at h
  | some c =>
    dsimp only
    repeat (first | exact ⟨_, rfl⟩ | split)

/-- Execution answers a next state wherever a word has an issuer. -/
theorem exec_answers (i : Instr) (s : State) (h : i.word?.isSome = true → s.ctx?.isSome = true) : ∃ t, exec i s = .next t := by
  cases hw : i.word? with
  | none => exact exec_event i hw s
  | some x =>
    obtain ⟨k, f⟩ := x
    rw [word?_mk hw]
    obtain ⟨body, hb⟩ := exec_mk k f
    rw [hb]
    exact issue_answers k f body s (h (by simp [hw]))

end Sys2Proof.Machine
end

