-- ==== Sys2Proof/Laws/Memory.lean ====
section
/-! SUPPORT. Sys2Proof/Laws/Memory.lean: every operation that changes memory keeps its canonical form, and what it leaves at an address. -/

namespace Sys2Proof.Machine

/-- Memory right after reset is in canonical form. -/
theorem State.wf_reset : Memory.wf State.reset.mem = true := rfl

/-- Storing bytes keeps the canonical form. -/
theorem State.wf_setBytes {s : State} (h : Memory.wf s.mem = true) (a : Nat) (bs : List Byte) : Memory.wf (s.setBytes a bs).mem = true :=
  Sparse.wf_setRange h a bs

/-- A byte after a store: the stored one inside, the old one outside. -/
theorem State.byte_setBytes {s : State} (h : Memory.wf s.mem = true) (a k : Nat) (bs : List Byte) :
    (s.setBytes a bs).byte k = if a ≤ k ∧ k < a + bs.length then bs.getD (k - a) 0 else s.byte k :=
  Sparse.get_setRange h a k bs

/-- Dropping bytes, as a placement, a grown window or a reset does, keeps the canonical form. -/
theorem Memory.wf_drop {m : List Host.Cell} (h : Memory.wf m = true) (p : Nat → Bool) : Memory.wf (Sparse.drop m p) = true := Sparse.wf_drop h p

/-- Bytes moved to other addresses, as the training of the fabric does, end in the canonical form. -/
theorem Memory.wf_foldl_set {α : Type} (f : α → Nat × Byte) (xs : List α) {m : List Host.Cell} (h : Memory.wf m = true) :
    Memory.wf (xs.foldl (fun m x => Sparse.set m (f x).1 (f x).2) m) = true := by
  induction xs generalizing m with
  | nil => exact h
  | cons x xs ih => exact ih (Sparse.wf_set h _ _)

/-- A step leaves memory in canonical form: the state between two moves has it. -/
theorem State.wf_tidy (s : State) : Memory.wf s.tidy.mem = true := Sparse.wf_canon _

end Sys2Proof.Machine
end

