-- ==== Sys2Proof/Laws/Threads.lean ====
section
/-! SUPPORT. Sys2Proof/Laws/Threads.lean: how `Does` and `DoesThreads` follow from the body of a meaning, and what the threads of a word can do. -/

namespace Sys2Proof.Machine

/-- Issue changes only the issuer's weft, path and record name. -/
theorem State.issued_ctx (s : State) (i : Form) (f : Fields) (c : Ctx) :
    (s.issued i f c).1.r = c.r ∧ (s.issued i f c).1.G = c.G ∧ (s.issued i f c).1.R = c.R ∧ (s.issued i f c).1.sel = c.sel ∧
      (s.issued i f c).1.hold = c.hold := by
  unfold State.issued State.raise
  split <;> simp

/-- What a word does, from the body of its meaning. -/
theorem Does.of {i : Form} {P : Fields → Ctx → State → Prop} {g : Fields → Ctx → State → State} {body : Fields → Ctx → State → State}
    (hx : ∀ f s, exec (i.mk f) s = issue i f (body f) s) (hb : ∀ f c s, c.sel ≠ 0 → c.hold = none → P f c s → body f c s = g f c s) : Does i P g := by
  intro s f c h hs q hp
  obtain ⟨-, -, -, h4, h5⟩ := s.issued_ctx i f c
  rw [hx, issue_next h, hb f q.1 q.2 (by rw [h4]; exact hs) (by rw [h5]; exact h.2.1) hp]

/-- Threads that are all performed end with their writes and the state they leave. -/
theorem runThreads_performs {one : State → Nat → Thr × State} {ts : List Nat} {ws : List (RegKey × Word)} {u : State} {r : Run}
    (h : performs one ts r.s = some (ws, u)) : ∃ m, runThreads one ts r = { r with s := u, done := m, ws := r.ws ++ ws } := by
  induction ts generalizing r ws with
  | nil =>
    simp only [performs, Option.some.injEq, Prod.mk.injEq] at h
    obtain ⟨rfl, rfl⟩ := h
    exact ⟨r.done, by simp [runThreads]⟩
  | cons t ts ih =>
    simp only [performs] at h
    split at h
    · rename_i ws1 s1 h1
      cases h2 : performs one ts s1 with
      | none => simp [h2] at h
      | some x =>
        simp only [h2, Option.map_some, Option.some.injEq, Prod.mk.injEq] at h
        obtain ⟨rfl, rfl⟩ := h
        obtain ⟨m, hm⟩ := ih (r := { r with s := s1, done := r.done ||| bitMask t, ws := r.ws ++ ws1 }) (ws := x.1) h2
        exact ⟨m, by simp only [runThreads, h1, hm, List.append_assoc]⟩
    · cases h

/-- A word whose threads are all performed ends its issue with their writes. -/
theorem runThreads_finish {one : State → Nat → Thr × State} {ts : List Nat} {s u : State} {m : Mask} {ws : List (RegKey × Word)} (c : Ctx)
    (h : performs one ts s = some (ws, u)) : (runThreads one ts { s, done := m }).finish c = u.finishLate c ws := by
  obtain ⟨k, hk⟩ := runThreads_performs (r := { s, done := m }) h
  rw [hk]
  rfl

/-- The threads of a word that is tried for the first time. -/
theorem Ctx.todo_fresh {c : Ctx} (h : c.hold = none) (f : Fields) : c.todo f = accessing f c.sel ∧ c.done = 0 := by
  have hd : c.done = 0 := by simp [Ctx.done, h]
  refine ⟨?_, hd⟩
  have hm : c.sel &&& 65535#16 = c.sel := BitVec.and_allOnes (x := c.sel)
  unfold Ctx.todo accessing
  simp [hd, hm]

/-- What a word that performs its threads does, from the body of its meaning. -/
theorem DoesThreads.of {i : Form} {ts : Fields → Mask → List Nat} {P : Fields → Ctx → State → Prop} {start : Fields → Ctx → State → State}
    {one : Fields → Ctx → State → Nat → Thr × State} {g : Ctx → List (RegKey × Word) → State → State} {body : Fields → Ctx → State → State}
    (hx : ∀ f s, exec (i.mk f) s = issue i f (body f) s)
    (hb : ∀ f c s, c.sel ≠ 0 → c.hold = none → P f c s → ∀ ws u, performs (one f c) (ts f c.sel) (start f c s) = some (ws, u) → body f c s = g c ws u) :
    DoesThreads i ts P start one g := by
  intro s f c h hs q hp ws u hw
  obtain ⟨-, -, -, h4, h5⟩ := s.issued_ctx i f c
  rw [hx, issue_next h, hb f q.1 q.2 (by rw [h4]; exact hs) (by rw [h5]; exact h.2.1) hp ws u (by rw [h4]; exact hw)]

end Sys2Proof.Machine
end

