-- ==== Sys2Proof/Tests/Slice0.lean ====
section
/-! SUPPORT. Sys2Proof/Tests/Slice0.lean: words written out from the encoding tables, the ill-formed terms that the checks refuse, states that meet
the hypotheses of the statements, and results of single instructions by hand calculation from the rules. -/

namespace Sys2Proof.Tests
open Sys2Proof Sys2Proof.Machine
set_option maxRecDepth 4000
set_option Elab.async false

/-! ## A word of every form (R31, R39, R42, R44, R49, R51 to R54) -/

/-- A word of OPC, MOD with XROWS and XCOLS, D, A and B, unguarded, waiting for nothing and raising nothing (R31). -/
def W (opc : BitVec 10) (modExt : BitVec 10) (d a b : BitVec 16) : InstrWord :=
  0#12 ++ 15#4 ++ 0#3 ++ 0#1 ++ 0#1 ++ 0#1 ++ 7#3 ++ opc ++ modExt ++ d ++ a ++ b ++ 0#3
/-- Group 0x0. -/
def words0 : List (InstrWord × Form × Fields) := [
  (W 0b0000_000000 0b000_000_00_00 0 0 0, .nop, {}),
  (W 0b0000_000001 0b000_000_00_00 0 0b100_0000000000101 0, .bra, { a := .imm 5 }),
  (W 0b0000_000010 0b000_000_00_00 0 0b001_0000000_000110 0, .brx, { a := .scalar 6 }),
  (W 0b0000_000011 0b000_000_00_00 0b001_0000000_001000 0b100_1111111111101 0, .call, { d := .scalar 8, a := .imm (-3) }),
  (W 0b0000_000100 0b000_000_00_00 0b000_00000_00001001 0b000_00000_00001010 0, .callx, { d := .vec 9, a := .vec 10 }),
  (W 0b0000_000101 0b000_000_00_00 0 0b000_00000_00001011 0, .ret, { a := .vec 11 }),
  (W 0b0000_000110 0b000_000_00_00 0 0b100_0000011111111 0, .rejoin, { a := .imm 255 }),
  (W 0b0000_000111 0b000_000_00_00 0 0 0, .exit, {}),
  (W 0b0000_001000 0b000_000_00_00 0 0b100_0111111111111 0b100_0000001000000, .wait, { a := .imm 4095, b := .imm 64 }),
  (W 0b0000_001001 0b001_110_00_00 0b010_0000000000_010 0b110_0000_1_00000110 0b001_0000000_000100, .trywait, { mod := 0b001_110, d := .pred 2, a := .mem true 6 0, b := .scalar 4 }),
  (W 0b0000_001010 0b000_000_00_00 0 0b001_0000000_000011 0, .sleep, { a := .scalar 3 }),
  (W 0b0000_001011 0b000_000_00_00 0 0 0, .yield, {}),
  (W 0b0000_001100 0b000_000_00_00 0 0b100_0000000000111 0, .brk, { a := .imm 7 }),
  (W 0b0000_001101 0b000_000_00_00 0 0b100_0000000001001 0, .trap, { a := .imm 9 }),
  (W 0b0000_001110 0b000_000_00_00 0b001_0000000_000001 0b100_1111111111110 0, .loop, { d := .scalar 1, a := .imm (-2) })]
theorem test_words_group_0 : words0.map (fun x => (decodeWord x.1).toOption) = words0.map (fun x => some (x.2.1.mk x.2.2)) := by decide +kernel

/-- Group 0x1. -/
def words1 : List (InstrWord × Form × Fields) := [
  (W 0b0001_000000 0b000_001_00_00 0b000_00000_00010000 0b000_00000_00000000 0b001_0000000_000100, .add, { mod := 0b000_001, d := .vec 16, a := .vec 0, b := .scalar 4 }),
  (W 0b0001_000001 0b001_100_00_00 0b001_0000000_000100 0x1234 0x5678, .sub, { mod := 0b001_100, d := .scalar 4, a := .bits 0x1234, b := .bits 0x5678 }),
  (W 0b0001_000010 0b001_000_00_10 0b000_00000_00100000 0b000_00000_00010000 0b000_00000_00000000, .addc, { mod := 0b001_000, xc := 2, d := .vec 32, a := .vec 16, b := .vec 0 }),
  (W 0b0001_000011 0b011_000_00_01 0b000_00000_00000010 0b000_00000_00000100 0b000_00000_00000110, .subb, { mod := 0b011_000, xc := 1, d := .vec 2, a := .vec 4, b := .vec 6 }),
  (W 0b0001_000100 0b010_001_00_00 0b001_0000000_000100 0b001_0000000_000110 0b100_0000000000001, .mul, { mod := 0b010_001, d := .scalar 4, a := .scalar 6, b := .imm 1 }),
  (W 0b0001_000101 0b001_000_00_00 0b000_00000_00000001 0b000_00000_00000010 0b000_00000_00000011, .mulhi, { mod := 0b001_000, d := .vec 1, a := .vec 2, b := .vec 3 }),
  (W 0b0001_000110 0b010_000_00_00 0b001_0000000_000100 0b001_0000000_000110 0b001_0000000_001000, .mulw, { mod := 0b010_000, d := .scalar 4, a := .scalar 6, b := .scalar 8 }),
  (W 0b0001_000111 0b100_001_00_00 0b000_00000_00000001 0b000_00000_00000010 0b001_0000000_000011, .mad, { mod := 0b100_001, d := .vec 1, a := .vec 2, b := .scalar 3 }),
  (W 0b0001_001000 0b011_001_00_01 0b000_00000_00000010 0b000_00000_00000100 0b000_00000_00000110, .madw, { mod := 0b011_001, xc := 1, d := .vec 2, a := .vec 4, b := .vec 6 }),
  (W 0b0001_001001 0b000_000_00_00 0b000_00000_00000001 0b000_00000_00000010 0b000_00000_00000011, .div, { d := .vec 1, a := .vec 2, b := .vec 3 }),
  (W 0b0001_001010 0b011_000_00_00 0b001_0000000_000010 0b001_0000000_000100 0b001_0000000_000110, .rem, { mod := 0b011_000, d := .scalar 2, a := .scalar 4, b := .scalar 6 }),
  (W 0b0001_001011 0b100_000_00_00 0b000_00000_00000001 0b000_00000_00000010 0, .abs, { mod := 0b100_000, d := .vec 1, a := .vec 2 }),
  (W 0b0001_001100 0b010_000_00_00 0b001_0000000_000010 0b001_0000000_000100 0, .neg, { mod := 0b010_000, d := .scalar 2, a := .scalar 4 }),
  (W 0b0001_001101 0b101_000_00_00 0b000_00000_00000001 0b000_00000_00000010 0b000_00000_00000011, .min, { mod := 0b101_000, d := .vec 1, a := .vec 2, b := .vec 3 }),
  (W 0b0001_001110 0b000_000_01_01 0b000_00000_00000001 0b000_00000_00000010 0b010_0000000000_011, .max, { xr := 1, xc := 1, d := .vec 1, a := .vec 2, b := .pred 3 }),
  (W 0b0001_001111 0b000_000_00_00 0b000_00000_00000001 0b000_00000_00000010 0b000_00000_00000011, .clamp, { d := .vec 1, a := .vec 2, b := .vec 3 }),
  (W 0b0001_010000 0b101_000_00_00 0b000_00000_00000001 0b000_00000_00000010 0b000_00000_00000011, .sad, { mod := 0b101_000, d := .vec 1, a := .vec 2, b := .vec 3 }),
  (W 0b0001_010001 0b001_001_00_00 0b000_00000_00000001 0b000_00000_00000010 0b000_00000_00000011, .dp4, { mod := 0b001_001, d := .vec 1, a := .vec 2, b := .vec 3 })]
theorem test_words_group_1 : words1.map (fun x => (decodeWord x.1).toOption) = words1.map (fun x => some (x.2.1.mk x.2.2)) := by decide +kernel

/-- Group 0x2. -/
def words2 : List (InstrWord × Form × Fields) := [
  (W 0b0010_000000 0b110_000_00_00 0b000_00000_00000001 0b000_00000_00000010 0b000_00000_00000011, .and, { mod := 0b110_000, d := .vec 1, a := .vec 2, b := .vec 3 }),
  (W 0b0010_000001 0b110_100_00_00 0b001_0000000_000101 0xffff 0x0001, .or, { mod := 0b110_100, d := .scalar 5, a := .bits 0xffff, b := .bits 0x0001 }),
  (W 0b0010_000010 0b111_000_00_00 0b001_0000000_000010 0b001_0000000_000100 0b001_0000000_000110, .xor, { mod := 0b111_000, d := .scalar 2, a := .scalar 4, b := .scalar 6 }),
  (W 0b0010_000011 0b110_000_00_00 0b000_00000_00000001 0b000_00000_00000010 0, .not, { mod := 0b110_000, d := .vec 1, a := .vec 2 }),
  (W 0b0010_000100 0b110_101_00_00 0b000_00000_00000001 0b000_00000_00000010 0b001_10011_00000101, .lop3, { mod := 0b110_101, d := .vec 1, a := .vec 2, b := .lutScalar 5 19 }),
  (W 0b0010_000101 0b110_001_00_00 0b000_00000_00000001 0b000_00000_00000010 0b100_0000000000011, .shl, { mod := 0b110_001, d := .vec 1, a := .vec 2, b := .imm 3 }),
  (W 0b0010_000110 0b110_000_00_00 0b000_00000_00000001 0b000_00000_00000010 0b100_0000000000011, .shr, { mod := 0b110_000, d := .vec 1, a := .vec 2, b := .imm 3 }),
  (W 0b0010_000111 0b111_000_00_00 0b001_0000000_000010 0b001_0000000_000100 0b100_0000000000011, .sar, { mod := 0b111_000, d := .scalar 2, a := .scalar 4, b := .imm 3 }),
  (W 0b0010_001000 0b110_001_00_00 0b000_00000_00000001 0b000_00000_00000010 0b001_0000000_000011, .rot, { mod := 0b110_001, d := .vec 1, a := .vec 2, b := .scalar 3 }),
  (W 0b0010_001001 0b110_000_00_00 0b000_00000_00000001 0b000_00000_00000010 0b000_00000_00000011, .fsh, { mod := 0b110_000, d := .vec 1, a := .vec 2, b := .vec 3 }),
  (W 0b0010_001010 0b001_000_00_00 0b000_00000_00000001 0b000_00000_00000010 0b000_00000_00000011, .bfx, { mod := 0b001_000, d := .vec 1, a := .vec 2, b := .vec 3 }),
  (W 0b0010_001011 0b110_000_00_00 0b000_00000_00000001 0b000_00000_00000010 0b000_00000_00000011, .bfi, { mod := 0b110_000, d := .vec 1, a := .vec 2, b := .vec 3 }),
  (W 0b0010_001100 0b110_000_00_00 0b000_00000_00000001 0b000_00000_00000010 0, .popc, { mod := 0b110_000, d := .vec 1, a := .vec 2 }),
  (W 0b0010_001101 0b111_000_00_00 0b001_0000000_000010 0b001_0000000_000100 0, .clz, { mod := 0b111_000, d := .scalar 2, a := .scalar 4 }),
  (W 0b0010_001110 0b110_000_00_00 0b000_00000_00000001 0b000_00000_00000010 0, .ctz, { mod := 0b110_000, d := .vec 1, a := .vec 2 }),
  (W 0b0010_001111 0b110_000_00_00 0b000_00000_00000001 0b000_00000_00000010 0, .brev, { mod := 0b110_000, d := .vec 1, a := .vec 2 }),
  (W 0b0010_010000 0b110_000_00_00 0b000_00000_00000001 0b000_00000_00000010 0b001_0000000_000011, .bperm, { mod := 0b110_000, d := .vec 1, a := .vec 2, b := .scalar 3 }),
  (W 0b0010_010001 0b010_011_00_00 0b001_0000000_000010 0b001_0000000_000100 0b001_0000000_000110, .lea, { mod := 0b010_011, d := .scalar 2, a := .scalar 4, b := .scalar 6 })]
theorem test_words_group_2 : words2.map (fun x => (decodeWord x.1).toOption) = words2.map (fun x => some (x.2.1.mk x.2.2)) := by decide +kernel

/-- Group 0x3. -/
def words3 : List (InstrWord × Form × Fields) := [
  (W 0b0011_000000 0b000_101_00_00 0b010_0000000000_001 0b000_00000_00000010 0b100_1111111111111, .icmp, { mod := 0b000_101, d := .pred 1, a := .vec 2, b := .imm (-1) }),
  (W 0b0011_000001 0b000_110_00_00 0b010_0000000000_001 0b000_00000_00000010 0b000_00000_00000011, .fcmp, { mod := 0b000_110, d := .pred 1, a := .vec 2, b := .vec 3 }),
  (W 0b0011_000010 0b000_000_00_00 0b010_0000000000_001 0b000_00000_00000010 0b100_0000000000101, .fclass, { d := .pred 1, a := .vec 2, b := .imm 5 }),
  (W 0b0011_000011 0b110_011_00_00 0b000_00000_00000001 0b000_00000_00000010 0b000_00000_00000011, .sel, { mod := 0b110_011, d := .vec 1, a := .vec 2, b := .vec 3 }),
  (W 0b0011_000100 0b000_000_00_00 0b010_0000000000_001 0b010_0000000000_010 0b010_0000000000_011, .pand, { d := .pred 1, a := .pred 2, b := .pred 3 }),
  (W 0b0011_000101 0b000_000_00_00 0b010_0000000000_001 0b010_0000000000_010 0b010_0000000000_011, .por, { d := .pred 1, a := .pred 2, b := .pred 3 }),
  (W 0b0011_000110 0b000_000_00_00 0b010_0000000000_001 0b010_0000000000_010 0b010_0000000000_011, .pxor, { d := .pred 1, a := .pred 2, b := .pred 3 }),
  (W 0b0011_000111 0b000_000_00_00 0b010_0000000000_001 0b010_0000000000_010 0, .pnot, { d := .pred 1, a := .pred 2 }),
  (W 0b0011_001000 0b000_000_00_00 0b000_00000_00000001 0b010_0000000000_010 0, .pmov, { d := .vec 1, a := .pred 2 }),
  (W 0b0011_001001 0b000_000_00_00 0b010_0000000000_001 0b100_0000011111111 0, .pany, { d := .pred 1, a := .imm 255 })]
theorem test_words_group_3 : words3.map (fun x => (decodeWord x.1).toOption) = words3.map (fun x => some (x.2.1.mk x.2.2)) := by decide +kernel

/-- Group 0x4. -/
def words4 : List (InstrWord × Form × Fields) := [
  (W 0b0100_000000 0b000_001_00_00 0b000_00000_00000001 0b000_00000_00000010 0b000_00000_00000011, .fadd, { mod := 0b000_001, d := .vec 1, a := .vec 2, b := .vec 3 }),
  (W 0b0100_000001 0b011_000_00_00 0b001_0000000_000010 0b001_0000000_000100 0b001_0000000_000110, .fsub, { mod := 0b011_000, d := .scalar 2, a := .scalar 4, b := .scalar 6 }),
  (W 0b0100_000010 0b010_110_00_00 0b000_00000_00000001 0b000_00000_00000010 0b000_00000_00000011, .fmul, { mod := 0b010_110, d := .vec 1, a := .vec 2, b := .vec 3 }),
  (W 0b0100_000011 0b000_000_01_11 0b000_00000_00100000 0b000_00000_00000000 0b001_0000000_000100, .fma, { xr := 1, xc := 3, d := .vec 32, a := .vec 0, b := .scalar 4 }),
  (W 0b0100_000100 0b001_000_00_00 0b000_00000_00000001 0b000_00000_00000010 0b000_00000_00000011, .fmin, { mod := 0b001_000, d := .vec 1, a := .vec 2, b := .vec 3 }),
  (W 0b0100_000101 0b010_100_00_00 0b000_00000_00000001 0b000_00000_00000010 0b000_00000_00000011, .fmax, { mod := 0b010_100, d := .vec 1, a := .vec 2, b := .vec 3 }),
  (W 0b0100_000110 0b000_000_00_00 0b000_00000_00000001 0b000_00000_00000010 0, .fabs, { d := .vec 1, a := .vec 2 }),
  (W 0b0100_000111 0b011_000_00_01 0b000_00000_00000010 0b000_00000_00000100 0, .fneg, { mod := 0b011_000, xc := 1, d := .vec 2, a := .vec 4 }),
  (W 0b0100_001000 0b000_000_00_00 0b000_00000_00000001 0b000_00000_00000010 0b000_00000_00000011, .fcopysign, { d := .vec 1, a := .vec 2, b := .vec 3 }),
  (W 0b0100_001001 0b000_010_00_00 0b000_00000_00000001 0b000_00000_00000010 0, .frnd, { mod := 0b000_010, d := .vec 1, a := .vec 2 }),
  (W 0b0100_001010 0b000_000_00_00 0b000_00000_00000001 0b000_00000_00000010 0, .fsat, { d := .vec 1, a := .vec 2 }),
  (W 0b0100_001011 0b001_011_00_00 0b000_00000_00000001 0b000_00000_00000010 0b000_00000_00000011, .fdot2, { mod := 0b001_011, d := .vec 1, a := .vec 2, b := .vec 3 }),
  (W 0b0100_001100 0b000_000_00_00 0b000_00000_00000001 0b000_00000_00000010 0b100_1111111111100, .fscale, { d := .vec 1, a := .vec 2, b := .imm (-4) })]
theorem test_words_group_4 : words4.map (fun x => (decodeWord x.1).toOption) = words4.map (fun x => some (x.2.1.mk x.2.2)) := by decide +kernel

/-- Group 0x5. -/
def words5 : List (InstrWord × Form × Fields) := [
  (W 0b0101_000000 0b100_001_00_00 0b000_00000_00000001 0b000_00000_00000010 0b000_00000_00000011, .cvt, { mod := 0b100_001, d := .vec 1, a := .vec 2, b := .vec 3 }),
  (W 0b0101_000001 0b001_000_00_00 0b000_00000_00000001 0b000_00000_00000010 0, .tenc, { mod := 0b001_000, d := .vec 1, a := .vec 2 }),
  (W 0b0101_000010 0b000_000_00_00 0b000_00000_00000001 0b000_00000_00000010 0b100_0000000000011, .tdec, { d := .vec 1, a := .vec 2, b := .imm 3 }),
  (W 0b0101_000011 0b110_000_00_10 0b000_00000_00000100 0b000_00000_00001000 0, .xcvt, { mod := 0b110_000, xc := 2, d := .vec 4, a := .vec 8 }),
  (W 0b0101_000100 0b111_000_00_10 0b000_00000_00000100 0b000_00000_00001000 0, .kcvt, { mod := 0b111_000, xc := 2, d := .vec 4, a := .vec 8 }),
  (W 0b0101_000101 0b110_010_00_00 0b000_00000_00000001 0b000_00000_00000010 0, .e8enc, { mod := 0b110_010, d := .vec 1, a := .vec 2 }),
  (W 0b0101_000110 0b100_000_00_00 0b000_00000_00000001 0b000_00000_00000010 0b000_00000_00000011, .pack, { mod := 0b100_000, d := .vec 1, a := .vec 2, b := .vec 3 }),
  (W 0b0101_000111 0b010_000_00_00 0b000_00000_00000001 0b000_00000_00000010 0b100_0000000000001, .unpack, { mod := 0b010_000, d := .vec 1, a := .vec 2, b := .imm 1 })]
theorem test_words_group_5 : words5.map (fun x => (decodeWord x.1).toOption) = words5.map (fun x => some (x.2.1.mk x.2.2)) := by decide +kernel

/-- Group 0x6. -/
def words6 : List (InstrWord × Form × Fields) := [
  (W 0b0110_000000 0b000_100_00_00 0b000_00000_00000001 0b000_00000_00000010 0, .rcp, { mod := 0b000_100, d := .vec 1, a := .vec 2 }),
  (W 0b0110_000001 0b000_001_00_00 0b000_00000_00000001 0b000_00000_00000010 0b000_00000_00000011, .divFloat, { mod := 0b000_001, d := .vec 1, a := .vec 2, b := .vec 3 }),
  (W 0b0110_000010 0b001_000_00_00 0b000_00000_00000001 0b000_00000_00000010 0, .sqrt, { mod := 0b001_000, d := .vec 1, a := .vec 2 }),
  (W 0b0110_000011 0b000_000_00_00 0b000_00000_00000001 0b000_00000_00000010 0, .rsqrt, { d := .vec 1, a := .vec 2 }),
  (W 0b0110_000100 0b000_000_00_00 0b000_00000_00000001 0b000_00000_00000010 0, .ex2, { d := .vec 1, a := .vec 2 }),
  (W 0b0110_000101 0b000_000_00_00 0b000_00000_00000001 0b000_00000_00000010 0, .lg2, { d := .vec 1, a := .vec 2 }),
  (W 0b0110_000110 0b000_000_00_00 0b000_00000_00000001 0b000_00000_00000010 0, .sinpi, { d := .vec 1, a := .vec 2 }),
  (W 0b0110_000111 0b000_000_00_00 0b000_00000_00000001 0b000_00000_00000010 0, .cospi, { d := .vec 1, a := .vec 2 }),
  (W 0b0110_001000 0b010_000_00_00 0b000_00000_00000001 0b000_00000_00000010 0, .tanh, { mod := 0b010_000, d := .vec 1, a := .vec 2 }),
  (W 0b0110_001001 0b011_000_00_00 0b001_0000000_000010 0b001_0000000_000100 0b001_0000000_000110, .cmul, { mod := 0b011_000, d := .scalar 2, a := .scalar 4, b := .scalar 6 }),
  (W 0b0110_001010 0b011_000_00_01 0b000_00000_00000010 0b000_00000_00000100 0b000_00000_00000110, .cfma, { mod := 0b011_000, xc := 1, d := .vec 2, a := .vec 4, b := .vec 6 }),
  (W 0b0110_001011 0b000_000_00_01 0b000_00000_00000010 0b000_00000_00000100 0b000_00000_00000110, .twosum, { xc := 1, d := .vec 2, a := .vec 4, b := .vec 6 }),
  (W 0b0110_001100 0b000_000_00_00 0b001_0000000_000010 0b001_0000000_000100 0b001_0000000_000110, .twoprod, { d := .scalar 2, a := .scalar 4, b := .scalar 6 })]
theorem test_words_group_6 : words6.map (fun x => (decodeWord x.1).toOption) = words6.map (fun x => some (x.2.1.mk x.2.2)) := by decide +kernel

/-- Group 0x7. -/
def words7 : List (InstrWord × Form × Fields) := [
  (W 0b0111_000000 0b110_000_00_00 0b000_00000_00000001 0b011_000_0000000000 0, .mov, { mod := 0b110_000, d := .vec 1, a := .special 0 }),
  (W 0b0111_000001 0b110_000_00_00 0b000_00000_00000001 0x1234 0x5678, .movi, { mod := 0b110_000, d := .vec 1, a := .bits 0x1234, b := .bits 0x5678 }),
  (W 0b0111_000010 0b110_000_00_00 0b001_0000000_000001 0b000_00000_00000010 0b100_0000000000011, .movs, { mod := 0b110_000, d := .scalar 1, a := .vec 2, b := .imm 3 }),
  (W 0b0111_000011 0b110_000_00_00 0b000_00000_00000001 0b000_00000_00000010 0b001_0000000_000011, .bcast, { mod := 0b110_000, d := .vec 1, a := .vec 2, b := .scalar 3 }),
  (W 0b0111_000100 0b110_111_00_00 0b000_00000_00000001 0b000_00000_00000010 0b000_00000_00000011, .shfl, { mod := 0b110_111, d := .vec 1, a := .vec 2, b := .vec 3 }),
  (W 0b0111_000101 0b110_001_00_00 0b010_0000000000_001 0b010_0000000000_010 0b100_0000000000011, .vote, { mod := 0b110_001, d := .pred 1, a := .pred 2, b := .imm 3 }),
  (W 0b0111_000110 0b110_000_00_00 0b001_0000000_000001 0b010_0000000000_010 0, .ballot, { mod := 0b110_000, d := .scalar 1, a := .pred 2 }),
  (W 0b0111_000111 0b110_001_00_00 0b000_00000_00000001 0b000_00000_00000010 0, .matchThreads, { mod := 0b110_001, d := .vec 1, a := .vec 2 }),
  (W 0b0111_001000 0b110_000_10_10 0b000_00000_00000100 0b000_00000_01000100 0, .blkmov, { mod := 0b110_000, xr := 2, xc := 2, d := .vec 4, a := .vec 68 }),
  (W 0b0111_001001 0b111_000_00_00 0b001_0000000_001010 0b011_000_0000001001 0, .rdsr, { mod := 0b111_000, d := .scalar 10, a := .special 9 }),
  (W 0b0111_001010 0b110_000_00_00 0b011_000_0000010000 0b001_0000000_000010 0, .wrsr, { mod := 0b110_000, d := .special 16, a := .scalar 2 })]
theorem test_words_group_7 : words7.map (fun x => (decodeWord x.1).toOption) = words7.map (fun x => some (x.2.1.mk x.2.2)) := by decide +kernel

/-- Group 0x8. -/
def words8 : List (InstrWord × Form × Fields) := [
  (W 0b1000_000000 0b101_001_00_00 0b000_00000_00000100 0b110_0010_1_00000110 0b100_0000000001000, .ld, { mod := 0b101_001, d := .vec 4, a := .mem true 6 2, b := .imm 8 }),
  (W 0b1000_000001 0b111_000_00_00 0b110_0000_0_00000110 0b000_00000_00000101 0b100_1111111111111, .st, { mod := 0b111_000, d := .mem false 6 0, a := .vec 5, b := .imm (-1) }),
  (W 0b1000_000010 0b010_010_00_00 0b001_0000000_000100 0b110_0011_1_00000110 0b100_0000000010000, .lds, { mod := 0b010_010, d := .scalar 4, a := .mem true 6 3, b := .imm 16 }),
  (W 0b1000_000011 0b000_000_00_00 0b110_0001_1_00000110 0b001_0000000_000100 0b100_0000000000010, .sts, { d := .mem true 6 1, a := .scalar 4, b := .imm 2 }),
  (W 0b1000_000100 0b000_001_00_00 0b000_00000_00000001 0b110_0010_0_00000010 0b100_0000000000000, .ldb, { mod := 0b000_001, d := .vec 1, a := .mem false 2 2, b := .imm 0 }),
  (W 0b1000_000101 0b010_101_00_00 0b000_00000_00000001 0b110_0000_0_00000010 0b100_0000000000100, .ldsel, { mod := 0b010_101, d := .vec 1, a := .mem false 2 0, b := .imm 4 }),
  (W 0b1000_000110 0b000_000_00_00 0 0b110_0000_0_00000010 0b100_0000001000000, .pf, { a := .mem false 2 0, b := .imm 64 }),
  (W 0b1000_000111 0b000_000_00_00 0 0b110_0000_0_00000010 0b100_0000000000000, .copClean, { a := .mem false 2 0, b := .imm 0 }),
  (W 0b1000_000111 0b000_000_00_00 0 0b110_0001_0_00000010 0b100_0000000000000, .copFlush, { a := .mem false 2 1, b := .imm 0 }),
  (W 0b1000_000111 0b000_000_00_00 0 0b110_0010_0_00000010 0b100_0000000000000, .copDemote, { a := .mem false 2 2, b := .imm 0 }),
  (W 0b1000_000111 0b000_000_00_00 0 0b110_0011_1_00000010 0b100_0000010000000, .copZero, { a := .mem true 2 3, b := .imm 128 }),
  (W 0b1000_001000 0b000_000_00_00 0 0b001_0000000_000001 0b100_0000001100100, .beamwait, { a := .scalar 1, b := .imm 100 })]
theorem test_words_group_8 : words8.map (fun x => (decodeWord x.1).toOption) = words8.map (fun x => some (x.2.1.mk x.2.2)) := by decide +kernel

/-- Group 0x9. -/
def words9 : List (InstrWord × Form × Fields) := [
  (W 0b1001_000000 0b011_000_00_00 0b001_0000000_001000 0b110_1001_0_00000110 0b000_00000_00001001, .atom, { mod := 0b011_000, d := .scalar 8, a := .mem false 6 9, b := .vec 9 }),
  (W 0b1001_000001 0b010_101_00_11 0b000_00000_00010000 0b110_0010_1_00000110 0b001_0000000_001000, .atomv, { mod := 0b010_101, xc := 3, d := .vec 16, a := .mem true 6 2, b := .scalar 8 }),
  (W 0b1001_000010 0b110_001_00_00 0b110_0001_1_00000110 0b001_0000000_001000 0, .red, { mod := 0b110_001, d := .mem true 6 1, a := .scalar 8 }),
  (W 0b1001_000011 0b011_000_00_11 0b110_0011_0_00000110 0b000_00000_00001000 0, .redv, { mod := 0b011_000, xc := 3, d := .mem false 6 3, a := .vec 8 }),
  (W 0b1001_000100 0b101_001_00_01 0b000_00000_00000010 0b110_0000_0_00000100 0b000_00000_00000110, .cas, { mod := 0b101_001, xc := 1, d := .vec 2, a := .mem false 4 0, b := .vec 6 }),
  (W 0b1001_000101 0b011_000_00_00 0b110_1011_0_00000110 0b000_00000_00000001 0, .accr, { mod := 0b011_000, d := .mem false 6 11, a := .vec 1 }),
  (W 0b1001_000110 0b000_000_00_00 0b110_0000_1_00000110 0 0, .accflush, { d := .mem true 6 0 }),
  (W 0b1001_000111 0b110_001_00_00 0b110_0000_0_00000110 0b100_0000000001011 0, .acctag, { mod := 0b110_001, d := .mem false 6 0, a := .imm 11 })]
theorem test_words_group_9 : words9.map (fun x => (decodeWord x.1).toOption) = words9.map (fun x => some (x.2.1.mk x.2.2)) := by decide +kernel

/-- Group 0xA. -/
def wordsA : List (InstrWord × Form × Fields) := [
  (W 0b1010_000000 0b000_000_00_00 0b000_00000_00000011 0b110_0000_1_00000110 0b100_0000000000000, .ldf, { d := .vec 3, a := .mem true 6 0, b := .imm 0 }),
  (W 0b1010_000001 0b011_000_00_00 0b110_0000_1_00000110 0b001_0000000_000011 0, .adst, { mod := 0b011_000, d := .mem true 6 0, a := .scalar 3 }),
  (W 0b1010_000010 0b101_001_00_00 0b000_00000_00000011 0b110_0000_0_00000110 0b010_0000000000_111, .adld, { mod := 0b101_001, d := .vec 3, a := .mem false 6 0, b := .pred 7 }),
  (W 0b1010_000011 0b000_000_00_00 0b001_0000000_000011 0b110_0000_1_00000110 0b100_0000000001000, .adpeek, { d := .scalar 3, a := .mem true 6 0, b := .imm 8 }),
  (W 0b1010_000100 0b010_000_00_00 0b000_00000_00000011 0b110_0000_0_00000110 0, .usecnt, { mod := 0b010_000, d := .vec 3, a := .mem false 6 0 }),
  (W 0b1010_000101 0b011_000_00_00 0b110_0000_0_00000110 0b100_1111111111111 0, .useadj, { mod := 0b011_000, d := .mem false 6 0, a := .imm (-1) }),
  (W 0b1010_000110 0b011_000_00_00 0b000_00000_00000011 0b110_0000_0_00000110 0b010_0000000000_000, .adforce, { mod := 0b011_000, d := .vec 3, a := .mem false 6 0, b := .pred 0 })]
theorem test_words_group_A : wordsA.map (fun x => (decodeWord x.1).toOption) = wordsA.map (fun x => some (x.2.1.mk x.2.2)) := by decide +kernel

/-- Group 0xB. -/
def wordsB : List (InstrWord × Form × Fields) := [
  (W 0b1011_000000 0b000_000_00_00 0b001_0000000_000011 0b001_0000000_001000 0, .cmdw, { d := .scalar 3, a := .scalar 8 }),
  (W 0b1011_000001 0b000_010_00_00 0 0b100_0000000000011 0, .bwait, { mod := 0b000_010, a := .imm 3 }),
  (W 0b1011_000010 0b000_010_00_00 0 0b001_0000000_000011 0, .bset, { mod := 0b000_010, a := .scalar 3 }),
  (W 0b1011_000011 0b000_000_00_00 0 0b100_0000000111111 0b001_0000000_000100, .bexp, { a := .imm 63, b := .scalar 4 }),
  (W 0b1011_000100 0b000_000_00_00 0b000_00000_00000001 0b100_0000000000010 0, .bstat, { d := .vec 1, a := .imm 2 }),
  (W 0b1011_000101 0b000_000_00_00 0 0b000_00000_00000001 0b100_0000000000001, .countb, { a := .vec 1, b := .imm 1 }),
  (W 0b1011_000110 0b000_000_00_00 0 0b110_0000_1_00000100 0, .relh, { a := .mem true 4 0 }),
  (W 0b1011_000111 0b000_000_00_00 0 0b001_0000000_000001 0b100_0000000000100, .shcancel, { a := .scalar 1, b := .imm 4 })]
theorem test_words_group_B : wordsB.map (fun x => (decodeWord x.1).toOption) = wordsB.map (fun x => some (x.2.1.mk x.2.2)) := by decide +kernel

/-- Group 0xC. -/
def wordsC : List (InstrWord × Form × Fields) := [
  (W 0b1100_000000 0b000_000_00_00 0b101_00000000_00011 0b110_0000_1_00000100 0b110_0000_1_00000110, .mma, { d := .tile 3, a := .mem true 4 0, b := .mem true 6 0 }),
  (W 0b1100_000001 0b001_000_00_00 0b101_1_00_10_000_00101 0b110_0000_1_00000100 0b110_0000_1_00000110, .mmap, { mod := 0b001_000, d := .tileC 2 5, a := .mem true 4 0, b := .mem true 6 0 }),
  (W 0b1100_000010 0b110_000_00_00 0b101_00000000_00101 0b100_0000000000010 0, .tzero, { mod := 0b110_000, d := .tile 5, a := .imm 2 }),
  (W 0b1100_000011 0b110_000_00_00 0b000_00000_00000001 0b101_00000000_00010 0b000_00000_00000011, .tread, { mod := 0b110_000, d := .vec 1, a := .tile 2, b := .vec 3 }),
  (W 0b1100_000100 0b111_000_00_01 0b101_00000000_00010 0b000_00000_00000100 0b100_0000000001001, .twrite, { mod := 0b111_000, xc := 1, d := .tile 2, a := .vec 4, b := .imm 9 }),
  (W 0b1100_000101 0b100_011_00_00 0b110_0000_1_00000100 0b101_00000000_00010 0, .tdrain, { mod := 0b100_011, d := .mem true 4 0, a := .tile 2 }),
  (W 0b1100_000110 0b000_100_00_00 0b001_0000000_000011 0b101_00000000_00010 0b100_0000000000001, .tdadd, { mod := 0b000_100, d := .scalar 3, a := .tile 2, b := .imm 1 }),
  (W 0b1100_000111 0b000_000_00_00 0b101_00000000_00010 0b100_0000000001000 0, .topen, { d := .tile 2, a := .imm 8 }),
  (W 0b1100_001000 0b000_000_00_00 0 0b100_0000000001111 0, .tfence, { a := .imm 15 }),
  (W 0b1100_001001 0b000_001_00_00 0 0b001_0000000_000010 0, .twait, { mod := 0b000_001, a := .scalar 2 }),
  (W 0b1100_001010 0b000_011_00_00 0 0b100_0000000000101 0b001_0000000_000010, .tlc, { mod := 0b000_011, a := .imm 5, b := .scalar 2 }),
  (W 0b1100_001011 0b000_001_00_00 0 0b110_0000_1_00000100 0, .trun, { mod := 0b000_001, a := .mem true 4 0 }),
  (W 0b1100_001100 0b000_000_00_00 0 0 0, .tstop, {})]
theorem test_words_group_C : wordsC.map (fun x => (decodeWord x.1).toOption) = wordsC.map (fun x => some (x.2.1.mk x.2.2)) := by decide +kernel

/-- Group 0xD. -/
def wordsD : List (InstrWord × Form × Fields) := [
  (W 0b1101_000000 0b000_000_00_00 0b001_0000000_000011 0b100_0000000001111 0, .barv, { d := .scalar 3, a := .imm 15 }),
  (W 0b1101_000001 0b000_000_00_00 0 0b001_0000000_000010 0, .barw, { a := .scalar 2 }),
  (W 0b1101_000010 0b000_000_00_00 0 0b100_0000000000001 0b001_0000000_000010, .bars, { a := .imm 1, b := .scalar 2 }),
  (W 0b1101_000011 0b000_000_00_00 0 0 0, .gbar, {}),
  (W 0b1101_000100 0b101_000_00_00 0 0 0, .fence, { mod := 0b101_000 }),
  (W 0b1101_000101 0b000_000_00_00 0 0b100_0000000000011 0b100_0000000000001, .cbar, { a := .imm 3, b := .imm 1 })]
theorem test_words_group_D : wordsD.map (fun x => (decodeWord x.1).toOption) = wordsD.map (fun x => some (x.2.1.mk x.2.2)) := by decide +kernel

/-- Group 0xE. -/
def wordsE : List (InstrWord × Form × Fields) := [
  (W 0b1110_000000 0b000_000_00_00 0 0b110_0000_1_00000100 0, .launch, { a := .mem true 4 0 }),
  (W 0b1110_000001 0b000_000_01_01 0 0b110_0000_1_00000100 0b000_00000_00010000, .post, { xr := 1, xc := 1, a := .mem true 4 0, b := .vec 16 }),
  (W 0b1110_000010 0b000_000_00_00 0 0b100_0000000000011 0, .regacq, { a := .imm 3 }),
  (W 0b1110_000010 0b000_001_00_00 0b010_0000000000_001 0b001_0000000_000011 0, .regacqTry, { mod := 0b000_001, d := .pred 1, a := .scalar 3 }),
  (W 0b1110_000011 0b000_000_00_00 0 0b100_0000000000000 0, .regrel, { a := .imm 0 }),
  (W 0b1110_000100 0b000_000_00_00 0 0b001_0000000_000010 0, .spgrow, { a := .scalar 2 }),
  (W 0b1110_000100 0b000_001_00_00 0b010_0000000000_001 0b100_0000100000000 0, .spgrowTry, { mod := 0b000_001, d := .pred 1, a := .imm 256 }),
  (W 0b1110_000101 0b000_000_00_00 0 0b001_0000000_000100 0, .score, { a := .scalar 4 }),
  (W 0b1110_000110 0b000_000_00_00 0b001_0000000_000011 0 0, .trnd, { d := .scalar 3 }),
  (W 0b1110_000111 0b000_000_00_00 0b010_0000000000_001 0b110_0000_1_00000100 0, .jqstart, { d := .pred 1, a := .mem true 4 0 }),
  (W 0b1110_001000 0b000_000_00_00 0 0b000_00000_00000011 0, .jqdone, { a := .vec 3 }),
  (W 0b1110_001001 0b000_000_00_00 0b000_00000_00000001 0b000_00000_00000010 0b100_0000000000001, .jqstat, { d := .vec 1, a := .vec 2, b := .imm 1 }),
  (W 0b1110_001010 0b000_001_00_00 0b010_0000000000_001 0b001_0000000_000010 0b100_0000000000100, .ipin, { mod := 0b000_001, d := .pred 1, a := .scalar 2, b := .imm 4 }),
  (W 0b1110_001011 0b000_000_00_00 0 0b001_0000000_000010 0b100_0000000000100, .iunpin, { a := .scalar 2, b := .imm 4 }),
  (W 0b1110_001100 0b000_001_00_00 0 0b001_0000000_000010 0b001_0000000_000011, .ipf, { mod := 0b000_001, a := .scalar 2, b := .scalar 3 }),
  (W 0b1110_001101 0b011_000_00_00 0b110_0010_0_00000110 0b000_00000_00000001 0b001_0000000_000100, .mcast, { mod := 0b011_000, d := .mem false 6 2, a := .vec 1, b := .scalar 4 }),
  (W 0b1110_001110 0b000_000_00_00 0 0b001_0000000_010000 0, .permx, { a := .scalar 16 }),
  (W 0b1110_001111 0b000_000_00_00 0 0 0, .tlbiAll, {}),
  (W 0b1110_001111 0b000_001_00_00 0 0 0, .tlbiCtx, { mod := 0b000_001 }),
  (W 0b1110_001111 0b000_010_00_00 0 0b001_0000000_000100 0, .tlbiPage, { mod := 0b000_010, a := .scalar 4 }),
  (W 0b1110_010000 0b000_000_00_00 0 0b001_0000000_000100 0, .replay, { a := .scalar 4 }),
  (W 0b1110_010000 0b000_001_00_00 0 0 0, .replayAll, { mod := 0b000_001 }),
  (W 0b1110_010001 0b000_000_00_00 0b001_0000000_001000 0b010_0000000000_001 0, .rdflt, { d := .scalar 8, a := .pred 1 }),
  (W 0b1110_010010 0b000_000_00_00 0 0b100_0000000000111 0, .svc, { a := .imm 7 }),
  (W 0b1110_010011 0b000_000_00_00 0 0 0, .eret, {}),
  (W 0b1110_010100 0b000_000_00_00 0 0b110_0000_1_00000100 0b100_0000000000001, .ctxsv, { a := .mem true 4 0, b := .imm 1 })]
theorem test_words_group_E : wordsE.map (fun x => (decodeWord x.1).toOption) = wordsE.map (fun x => some (x.2.1.mk x.2.2)) := by decide +kernel


/-! ## The bench -/

/-- The word is issued with a selected thread, and `P` holds of the issuer and the state as issued. -/
def issues (s : State) (i : Form) (f : Fields) (P : Ctx → State → Bool := fun _ _ => true) : Bool :=
  match s.issuing f with
  | some c => c.hold.isNone && s.ready i f c && (c.preTrap i f).isNone && c.sel != 0 && P (s.issued i f c).1 (s.issued i f c).2
  | none => false
/-- What `issues` decides are the hypotheses of the statements about an issued word. -/
theorem issues_iff {s : State} {i : Form} {f : Fields} {P : Ctx → State → Bool} (h : issues s i f P = true) :
    ∃ c, s.Issues i f c ∧ c.sel ≠ 0 ∧ P (s.issued i f c).1 (s.issued i f c).2 = true := by
  unfold issues at h
  split at h
  · rename_i c hc
    simp only [Bool.and_eq_true, Option.isNone_iff_eq_none, bne_iff_ne, ne_eq] at h
    exact ⟨c, ⟨hc, h.1.1.1.1, h.1.1.1.2, h.1.1.2⟩, h.1.2, h.2⟩
  · cases h
/-- The bench: a weft in supervisor mode with threads 0 and 15 on one path. -/
def benchWeft : Weft :=
  { wid := 0, priv := true, held := 3, seg := 0x20000, paths := [{ mask := 0x8001, pc := 5 }], s := [(4, 0x1000), (6, 0x10000), (8, 3)] }
/-- Its group. -/
def benchGroup : Group :=
  { uid := 1, dev := 0, core := 0, ctx := 0, rid := 1, node := 0, ngroups := 1, grans := [0, 1], q := 3, ntiles := 8,
    bars := List.replicate 16 {}, bobs := List.replicate 64 {}, wefts := [benchWeft], tiles := (List.range 8).map fun n => { n } }
/-- Its region. -/
def benchRegion : Region := { rid := 1, dev := 0, rcb := 0x3000, ctx := 0, st := 1, seen := true, nodes := [{ idx := 0, st := 2, len := 1, wefts := 1, inFlight := 1 }] }
/-- The bench: one device with one group, whose weft issues, and one mapped block of 4 TiB. -/
def bench : State :=
  { devs := [{ id := 0, st := 6 }], issuer := some ⟨1, 0, 0⟩, uid := 2, groups := [benchGroup], regions := [benchRegion], tlb := [⟨0, 0, 0, 42, 0x19F, 0⟩] }


/-! Every word above issues on the bench. -/
theorem test_issue_group_0 : words0.all (fun x => issues bench x.2.1 x.2.2) = true := by decide +kernel
theorem test_issue_group_1 : words1.all (fun x => issues bench x.2.1 x.2.2) = true := by decide +kernel
theorem test_issue_group_2 : words2.all (fun x => issues bench x.2.1 x.2.2) = true := by decide +kernel
theorem test_issue_group_3 : words3.all (fun x => issues bench x.2.1 x.2.2) = true := by decide +kernel
theorem test_issue_group_4 : words4.all (fun x => issues bench x.2.1 x.2.2) = true := by decide +kernel
theorem test_issue_group_5 : words5.all (fun x => issues bench x.2.1 x.2.2) = true := by decide +kernel
theorem test_issue_group_6 : words6.all (fun x => issues bench x.2.1 x.2.2) = true := by decide +kernel
theorem test_issue_group_7 : words7.all (fun x => issues bench x.2.1 x.2.2) = true := by decide +kernel
theorem test_issue_group_8 : words8.all (fun x => issues bench x.2.1 x.2.2) = true := by decide +kernel
theorem test_issue_group_9 : words9.all (fun x => issues bench x.2.1 x.2.2) = true := by decide +kernel
theorem test_issue_group_A : wordsA.all (fun x => issues bench x.2.1 x.2.2) = true := by decide +kernel
theorem test_issue_group_B : wordsB.all (fun x => issues bench x.2.1 x.2.2) = true := by decide +kernel
theorem test_issue_group_C : wordsC.all (fun x => issues bench x.2.1 x.2.2) = true := by decide +kernel
theorem test_issue_group_D : wordsD.all (fun x => issues bench x.2.1 x.2.2) = true := by decide +kernel
theorem test_issue_group_E : wordsE.all (fun x => issues bench x.2.1 x.2.2) = true := by decide +kernel

/-! ## Witnesses: states and operands that meet the hypotheses of the statements -/

/-- The path of the bench is held. -/
def held (s : State) (why : Why) (arg : Nat) (pmask : Mask := 0) : State :=
  s.modPath 1 0 0 fun p => { p with hold := some { why, arg, pmask, sel := 0x8001, out := 0 } }
/-- A held path is tried again, where its condition holds. -/
def resumes (s : State) (f : Fields) (why : Why) (P : Ctx → State → Bool := fun _ _ => true) : Bool :=
  match s.issuing f with
  | some c => c.hold.isSome && c.heldAs why && c.sel != 0 && P c s
  | none => false
/-- The bench's path held as described. -/
def stopped (s : State) (h : Hold) : State := s.modPath 1 0 0 fun p => { p with hold := some { h with sel := 0x8001 } }
/-- The bench with its group, its weft, its context changed. -/
def withG (g : Group → Group) : State := bench.modGroup 1 g
/-- The bench with its weft changed. -/
def withW (g : Weft → Weft) : State := bench.modWeft 1 0 g
/-- The bench with its context changed. -/
def withC (g : Context → Context) : State := bench.modCtx 0 0 g

theorem test_inv_reset : Inv State.reset ∧ ∃ t, step State.reset = .next t := ⟨⟨rfl, rfl⟩, _, rfl⟩

/-- The word `add v16, v0, s4` placed where the first step fetches. -/
def placed : State := State.reset.withFetchWord 96 (W 0b0001_000000 0 0b000_00000_00010000 0 0b001_0000000_000100).toNat
/-- Its first step picks this path. -/
def placedPick : State × Option (PathRef × State) :=
  let s0 : State := { placed with sched := placed.sched.tail, rr := placed.rr + 1 }
  (s0, s0.pickLane 0 0 0)
theorem test_step_picks : placed.nextMove = .pick 0 0 0 := rfl
theorem test_step_runs :
    (match placedPick.2 with
     | some (r, s1) => (match s1.ctxAt r with
       | some c => (match s1.fetch c with
         | (.ok w, s2) => (decodeWord w).toOption == some (.add { d := .vec 16, a := .vec 0, b := .scalar 4 }) && (s2.ctxAt r).isSome
         | _ => false)
       | none => false)
     | none => false) = true := by decide +kernel

/-- The same with the path held at a `wait`, which the schedule lets go on, and with a word that is none. -/
def placedHeld : State :=
  { placed.modPath 1 0 0 (fun p => { p with hold := some { why := .wait, sel := 0xFFFF } }) with sched := [0] }
/-- A word that is no instruction. -/
def placedBad : State := State.reset.withFetchWord 96 7

theorem test_step_paths :
    (match placedHeld.nextMove with
     | .path r => (match placedHeld.ctxAt r with | some c => c.hold.isSome && !c.refetches && (match placedHeld.fetch c with | (.ok _, _) => true | _ => false) | none => false)
     | _ => false) = true := by decide +kernel
theorem test_step_illegal : placedBad.nextMove = .pick 0 0 0 ∧ (decodeWord 7).toOption = none ∧
    (match ({ placedBad with sched := placedBad.sched.tail, rr := placedBad.rr + 1 } : State).pickLane 0 0 0 with
     | some (r, s1) => (match s1.ctxAt r with | some c => (match s1.fetch c with | (.ok w, _) => w == 7 | _ => false) | none => false)
     | none => false) = true := ⟨rfl, rfl, by decide +kernel⟩

/-- A `trap` placed where the first step fetches, in a group whose second weft has gone past a load. -/
def placedEnd : State :=
  let l : Late := { n := 9, form := .lds, f := { d := .vec 4, a := .mem true 8 2 }, path := { mask := 1 }, hold := { why := .late, out := 9, sel := 1 } }
  { (State.reset.withFetchWord 96 (W 0b0000_001101 0 0 0b100_0000000001001 0).toNat).modGroup 1 fun G =>
    { G with grans := [0], wefts := G.wefts ++ [{ wid := 1, lane := 1, paths := [{ mask := 1, pc := 1 }], outs := [{ n := 9, ld := 1 }], ld := 1, late := [l] }] } with sched := [0] }
/-- What the execution of the `trap` alone leaves. -/
def placedFirst : Option State :=
  match ({ placedEnd with sched := [], rr := 1 } : State).pickLane 0 0 0 with
  | some (r, s1) => (match exec (.trap { a := .imm 9 }) { s1 with issuer := some r } with | .next t => some t | _ => none)
  | none => none
theorem test_step_ends : placedEnd.nextMove = .pick 0 0 0 ∧
    placedFirst.map (fun t => (t.groups.length, placedEnd.cutOff t)) = some (0, [⟨1, 1, 25⟩]) := by decide +kernel

/-- A path whose buffer holds a line; the page of its segment is not there in the second. -/
def buffered : State := bench.modPath 1 0 0 fun p => { p with line := some (0x20000, List.replicate 192 (some 1)) }
theorem test_fetch_buffer :
    (buffered.ctx?.map fun c => (c.p.line == some (c.codeLine.toNat, List.replicate 192 (some (1 : Byte))), c.hold.isNone,
      (buffered.checkWord c c.codeAddr 4).1, (({ buffered with tlb := [] } : State).checkWord c c.codeAddr 4).1))
      = some (true, true, none, some (.stall (0x20000 + 60) 2 1)) ∧
    ((held buffered .wait 0).ctx?.map fun c => c.hold.isSome) = some true := by decide +kernel
theorem test_memory_bytes : Memory.wf (bench.setBytes 0x100 [1, 0, 3]).mem = true ∧ (bench.setBytes 0x100 [1, 0, 3]).bytes 0x100 3 = [1, 0, 3] := by decide +kernel
theorem test_encode : (Form.add.mk { d := .vec 255, a := .pred 7, b := .imm (-4096) }).wf = true ∧
    encode (.add { d := .vec 255, a := .pred 7, b := .imm (-4096) }) = [0, 0x80, 0x3C, 0, 0xFA, 0x07, 0, 0, 0x88, 0x03, 0x0F, 0] := by decide +kernel

/-- Check 1 to 8 (R56), each refused, by word and, from check 4 on, as a term. -/
theorem test_check_words :
    [W 0 0 0 0 0 ||| 1, W 0b1111_000000 0 0 0 0, W 0b0000_001111 0 0 0 0, W 0b0000_000001 0 0 0x8005 0 ^^^ (1 <<< 80), W 0b0000_000000 0b000_001_00_00 0 0 0,
     W 0b0001_000000 0b000_000_00_01 0x2004 0x2005 0x2006, W 0b0001_000000 0 1 2 0xE000, W 0b0001_000000 0 1 2 3 ^^^ (1 <<< 76), W 0 0 0 0 0].map
      (fun w => match decodeWord w with | .error e => some e | .ok _ => none)
      = [some .nonzeroLow, some .reservedGroup, some .unassignedSlot, some .setfValue, some .modUndefined, some .extent, some .operandKind, some .uniform, none] := by decide +kernel
/-- One ill-formed term for each check that a term can fail: SETF, MOD, extent, operand kind, U; a MOD or SUB that names another row; an operand of another shape. -/
theorem test_ill_formed :
    [Instr.nop { setf := 12 }, .bra { a := .imm 5, setf := 0 }, .nop { mod := 8 }, .add { d := .scalar 4, a := .scalar 5, b := .scalar 6, xc := 1 },
     .add { d := .pred 0, a := .vec 2, b := .vec 3 }, .add { d := .vec 1, a := .vec 2, b := .vec 3, u := true }, .regacq { mod := 1, a := .imm 1 },
     .copZero { a := .mem true 2 0, b := .imm 0 }, .movi { mod := 0b110_000, d := .vec 0, a := .imm 1, b := .bits 0 }].map Instr.wf = List.replicate 9 false ∧
    [Instr.nop {}, .bra { a := .imm 5 }, .add { d := .scalar 4, a := .scalar 5, b := .scalar 6 }, .sleepExpiry ⟨1, 0, 0⟩].map Instr.wf = List.replicate 4 true := by decide +kernel

theorem test_predicate_forms : issues bench .pmov { d := .pred 1, a := .vec 2 } ∧ issues bench .rdsr { mod := 0b110_000, d := .vec 1, a := .special 0 } := by decide +kernel
/-- The types and the exceptional operands of the integer instructions (R151 to R157). -/
theorem test_division : intElem .div .i32 false (2 ^ 31) (2 ^ 32 - 1) 0 = 2 ^ 31 ∧ intElem .rem .n64 false 7 0 0 = 7 ∧ intElem .div .i32 false (2 ^ 32 - 7) 2 0 = 2 ^ 32 - 3 := by decide +kernel
theorem test_saturation : intElem .add .i32 true (2 ^ 31 - 1) 1 0 = 2 ^ 31 - 1 ∧ intElem .sub .n16x2 true 0x0005_0001 0x0002_0002 0 = 0x0003_0000 ∧
    intElem .mulw .i64 false (2 ^ 32 - 1) 3 0 = 2 ^ 64 - 3 ∧ intElem .sad .i16x2 false 0x0001_FFFF 0x0003_0001 10 = 14 := by decide +kernel
theorem test_carry : carryChain false 32 [(2 ^ 32 - 1, 1), (2 ^ 32 - 1, 0)] false = ([0, 0], true) ∧ carryChain true 32 [(0, 1)] false = ([2 ^ 32 - 1], true) := by decide +kernel
theorem test_logic : logicElem .lop3 .b32 0 0x96 0xC 0xA 0x6 = 0 ∧ logicElem .shl .b32 1 0 1 33 0 = 2 ∧ logicElem .clz .b32 0 0 0 0 0 = 32 ∧
    logicElem .bperm .b32 0 0 0x80402010 0x8123 0 = 0x00204080 := by decide +kernel
theorem test_compare : icmpTest true 32 2 (2 ^ 32 - 1) 0 = true ∧ icmpTest false 32 2 (2 ^ 32 - 1) 0 = false ∧ icmpTest true 64 5 0 0 = true := by decide +kernel

/-! ### Control -/

theorem test_branches : issues bench .bra { a := .imm 5 } ∧ issues bench .callx { d := .vec 9, a := .vec 10 } ∧
    issues bench .loop { d := .scalar 4, a := .imm (-1) } (fun c s => c.once s (.scalar 4) - 1 != 0) ∧
    issues bench .loop { d := .scalar 1, a := .imm (-1) } (fun c s => c.once s (.scalar 1) - 1 != 0) ∧
    issues (withW fun w => { w with s := [(4, 1)] }) .loop { d := .scalar 4, a := .imm (-1) } (fun c s => c.once s (.scalar 4) - 1 == 0) := by decide +kernel
/-- With DBGEN set `brk` traps; the bench has it clear. -/
theorem test_breaks : issues bench .brk { a := .imm 7 } (fun c s => !(s.ctx c.dev c.ctx).dbgen) ∧
    issues (withC fun C => { C with dbgen := true }) .brk { a := .imm 7 } (fun c s => (s.ctx c.dev c.ctx).dbgen && !c.isTreadle) := by decide +kernel
/-- A rejoin of the path's own threads; one that names a thread of another path; no path of the weft is held. -/
def twoPaths : State := withW fun w => { w with paths := [{ mask := 0x8001, pc := 5 }, { mask := 0x0002, pc := 9 }] }
theorem test_rejoins : issues twoPaths .rejoin { a := .imm 1 } (fun c s => (c.once s (.imm 1)).extractLsb' 0 16 &&& ~~~c.p.mask == 0) ∧
    issues twoPaths .rejoin { a := .imm 3 } (fun c s => (c.once s (.imm 3)).extractLsb' 0 16 &&& ~~~c.wf.exited &&& ~~~c.p.mask == 2 && c.wf.paths.all fun p => p.hold.isNone) := by decide +kernel
/-- The threads of a path and of the paths that wait at its PC. -/
def here (c : Ctx) : Mask := ((c.wf.waiting c.p.pc).filter fun p => !p.mask.getLsbD c.r.t).foldl (fun m p => m ||| p.mask) c.p.mask
/-- A path of thread 1 waits at the PC of the bench's path. -/
def meeting : State := withW fun w => { w with paths := [{ mask := 0x8001, pc := 5 }, { mask := 0x0002, pc := 5, hold := some { why := .rejoin, arg := 3, sel := 2 } }] }
theorem test_rejoins_meet : issues meeting .rejoin { a := .imm 3 } (fun c s => (c.once s (.imm 3)).extractLsb' 0 16 &&& ~~~c.wf.exited &&& ~~~here c == 0 && here c == 0x8003) ∧
    resumes (stopped meeting { why := .rejoin, arg := 3 }) { a := .imm 3 } .rejoin (fun c _ => BitVec.ofNat 16 c.arg &&& ~~~c.wf.exited &&& ~~~here c == 0) := by decide +kernel
theorem test_exits : ((bench.issuing { gp := 0 }).map fun c => (c.hold.isNone && bench.ready .exit { gp := 0 } c && (c.preTrap .exit { gp := 0 }).isNone, c.sel)) = some (true, 0) ∧
    issues bench .exit {} (fun c _ => !c.isTreadle && c.wf.exited ||| c.sel != 0xFFFF) ∧
    issues (withW fun w => { w with p := [(1, 1)] }) .exit { gp := 1 } (fun c _ => c.sel == 1 && c.p.mask == 0x8001) ∧
    issues (withW fun w => { w with exited := 0x7FFE }) .exit {} (fun c _ => !c.isTreadle && c.wf.exited ||| c.sel == 0xFFFF) := by decide +kernel
/-- A bench that waits for loads. -/
def counting : State := withW fun w => { w with ld := 63 }
theorem test_waits : issues (withW fun w => { w with ld := 63 }) .wait { a := .imm 4095, b := .imm 4095 } (fun c _ => c.wf.ld ≤ 63) ∧
    issues counting .wait { a := .imm 4094, b := .imm 4095 } (fun c _ => 62 < c.wf.ld) ∧
    resumes (held counting .wait 0) { a := .imm 4094, b := .imm 4095 } .wait (fun c _ => 62 < c.wf.ld) ∧ resumes (held bench .wait 0) { a := .imm 0, b := .imm 0 } .wait := by decide +kernel
theorem test_sleeps : issues bench .sleep { a := .scalar 8 } ∧
    resumes (held bench .sleep 0) { a := .scalar 8 } .sleep (fun c s => c.arg ≤ s.clk) ∧ resumes (held bench .sleep 1) { a := .scalar 8 } .sleep (fun c s => s.clk < c.arg) ∧
    ((held bench .sleep 1).ctxAt ⟨1, 0, 0⟩).map (fun c => c.heldAs .sleep && c.late.isNone && bench.clk < c.arg) = some true ∧
    ((held bench .sleep 0).ctxAt ⟨1, 0, 0⟩).map (fun c => c.heldAs .sleep && c.arg ≤ bench.clk) = some true := by decide +kernel
/-- A slot of the Beam's schedule is far enough away. -/
def farSlot (s : State) (c : Ctx) (k w : Nat) : Bool :=
  let slot := s.devClk c.dev / 2048 % 16
  slot != k && decide (w ≤ (k + 16 - slot) % 16 * 2048 - s.devClk c.dev % 2048)
/-- A window of cycles in s4. -/
def windowed (w : Word) : State := withW fun x => { x with s := [(4, w)] }
theorem test_beam_waits : issues bench .beamwait { a := .imm 64, b := .imm 0 } (fun c s => 63 < (c.once s (.imm 64)).toNat) ∧
    issues (windowed 30721) .beamwait { a := .imm 63, b := .scalar 4 } (fun c s => 30720 < (c.once s (.scalar 4)).toNat) ∧
    issues (windowed 30720) .beamwait { a := .imm 63, b := .scalar 4 } (fun c s => (c.once s (.scalar 4)).toNat ≤ 30720 && (c.once s (.imm 63)).toNat ≤ 63 && farSlot s c 15 30720) ∧
    issues (windowed 2049) .beamwait { a := .imm 17, b := .scalar 4 } (fun c s => (c.once s (.scalar 4)).toNat ≤ 30720 && !farSlot s c 1 2049) ∧
    resumes (held bench .beamwait (1 + 16 * 2048)) { a := .imm 17, b := .scalar 4 } .beamwait (fun c s => farSlot s c (c.arg % 16) (c.arg / 16)) ∧
    [(1 + 16 * 2048, true), (1 + 16 * 2049, false)].all (fun x => ((held bench .beamwait x.1).ctxAt ⟨1, 0, 0⟩).map (fun c =>
      c.heldAs .beamwait && c.late.isNone && farSlot bench c (c.arg % 16) (c.arg / 16) == x.2) == some true) = true := by decide +kernel
/-- What a `trywait` of barrier 15 or bobbin 63 watches: for the value x, to a deadline. -/
def watching (mode : Nat) (x : Word) (due : Nat) : Watch := { mode, code := 0, src := if mode == 0 then 15 else 63, val := x, due }
theorem test_trywaits :
    [(0, (0 : Word), 9, true), (0, 1, 9, false), (0, 1, 0, false), (1, 0, 9, true), (1, 1, 9, false), (1, 1, 0, false)].all (fun x =>
      let s := stopped bench { why := .trywait, arg := x.2.2.1, test := some (watching x.1 x.2.1 x.2.2.1) }
      resumes s { mod := BitVec.ofNat 6 x.1, d := .pred 2, a := .imm 15, b := .scalar 4 } .trywait (fun c s =>
        (match c.hold.bind fun h => h.test with
         | some w => w == watching x.1 x.2.1 x.2.2.1 && (match (s.ticked.observe c w).1 with | .ok (some v) => tryTest w.code v w.val == x.2.2.2 | _ => false)
         | none => false)) &&
      ((s.ctxAt ⟨1, 0, 0⟩).map fun c => c.heldAs .trywait && (c.arg ≤ s.clk) == (x.2.2.1 == 0)) == some true) = true ∧
    [(0, 15, true), (0, 15, false), (1, 63, true)].all (fun x =>
      let s := withW fun w => { w with s := [(4, if x.2.2 then 0 else 1), (5, 9)] }
      issues s .trywait { mod := BitVec.ofNat 6 x.1, d := .pred 2, a := .imm x.2.1, b := .scalar 4 } fun c s =>
        let w := c.watch s { mod := BitVec.ofNat 6 x.1, d := .pred 2, a := .imm x.2.1, b := .scalar 4 }
        (match (s.observe c w).1 with | .ok (some v) => tryTest w.code v w.val == x.2.2 && decide (s.clk < w.due) | _ => false)) = true := by decide +kernel
/-- An outstanding instruction with two writes, none of them contested. -/
def waiting : State := withW fun w => { w with ld := 1, flags := [(3, 1)], outs := [{ n := 7, setf := 3, ld := 1, writes := [⟨.v 4 15, 9, false⟩, ⟨.s 5, 2, false⟩] }] }
theorem test_completes : (waiting.weft? 1 0).map (fun w => (decide (w.wid < treadleWid), (w.outs.find? fun x => x.n == 7).map fun o => o.writes.all fun x => x.key.ok && !x.contested))
    = some (true, some true) := by decide +kernel
theorem test_complete_writes : (match exec (.instrComplete 1 0 7) waiting with
    | .next t => (t.weft? 1 0).map fun w => (w.reg (.v 4 15), w.reg (.s 5), w.ld, Sparse.get w.flags 3)
    | _ => none) = some (9, 2, 0, 0) := by decide +kernel
/-- A treadle of the bench runs. -/
def treadling : State :=
  { (withG fun G => { G with trd := { running := true, ring := [(0, 32), (1, 32), (2, 32), (3, 32)], weft := { wid := 32, paths := [{ mask := 1 }], s := [(4, 2), (8, 3)] } } }) with issuer := some ⟨1, 32, 0⟩ }
theorem test_issue_kinds : issues bench .ld { d := .vec 4, a := .mem true 6 2, b := .imm 0, setf := 3 } (fun c _ => !c.isTreadle) ∧
    issues treadling .tlc { a := .imm 0, b := .imm 1 } (fun c _ => c.isTreadle) := by decide +kernel
/-- A whole weft in user mode, and in supervisor mode. -/
def whole (priv : Bool) : State := withW fun w => { w with priv, paths := [{ mask := 0xFFFF, pc := 5 }], epc := 7, eseg := 0x40000 }
theorem test_supervisor : issues (whole false) .svc { a := .imm 7 } (fun c _ => !c.wf.priv && !c.isTreadle && c.p.mask ||| c.wf.exited == 0xFFFF) ∧
    issues (whole true) .eret {} (fun c _ => !c.isTreadle && c.p.mask ||| c.wf.exited == 0xFFFF) := by decide +kernel
theorem test_svc_enters : (match exec (.svc { a := .imm 7 }) (whole false) with
    | .next t => (t.weft? 1 0).map fun w => (w.priv, w.epc, w.eseg, w.ecode, w.paths.map fun p => p.pc)
    | _ => none) = some (true, 6, 0x20000, 7, [7]) := by decide +kernel
theorem test_eret_returns : (match exec (.eret {}) (whole true) with
    | .next t => (t.weft? 1 0).map fun w => (w.priv, w.seg, w.paths.map fun p => p.pc)
    | _ => none) = some (false, 0x40000, [7]) := by decide +kernel

/-- A region of each POLICY; the group has been relaunched twice, and three times. -/
def policed (policy relaunched : Nat) : State :=
  { (withG fun G => { G with relaunched }) with regions := [{ benchRegion with policy, idem := true }] }
theorem test_trap_policies :
    [policed 0 0, policed 2 2, policed 2 3].map (fun s => (s.group? 1).bind fun G => (s.region? G.rid).map fun R => (R.policy, R.idem && !s.modeBit R.dev R.ctx 4 && G.relaunched < 3))
      = [some (0, true), some (2, true), some (2, false)] := by decide +kernel
theorem test_traps_end : [policed 0 0, policed 2 2].all (fun s => (s.takeTrap 1 { cls := .operand, reason := 12 }).dfault.isNone && (s.region? 1).any fun R => R.seen) = true := by decide +kernel
theorem test_trap_contained : let t := (policed 0 0).takeTrap 1 { cls := .operand, reason := 12 }
    (t.group? 1 = none) ∧ (t.region? 1).map (fun R => (R.nfault, R.nodes.map fun N => (N.failed, N.st))) = some (1, [(true, 2)]) := by decide +kernel
theorem test_trap_relaunched : let t := (policed 2 2).takeTrap 1 { cls := .operand, reason := 12 }
    (t.group? 1 = none) ∧ (t.region? 1).map (fun R => R.queue.map fun W => (W.node, W.gid, W.tries)) = some [(0, 0, 3)] := by decide +kernel

/-! ### Memory -/

/-- The bench with all addresses mapped as they are: pages of F32 elements with a twin and with ACCRUE, their twin pages, their count pages; the
region counts, and has the Beam.  Counts stand at 1, so that they can be lowered. -/
def paged : State :=
  { bench with tlb := [⟨0, 0, 0, 29, 0x0E00_0000_0000_079F, 0x8000⟩, ⟨0, 0, 0x1_0000_0000, 29, 0x0E00_0001_0000_059F, 0x8008⟩, ⟨0, 0, 0x2_0000_0000, 29, 0x0000_0002_0000_019F, 0x8010⟩],
               ctxs := [{ dev := 0, id := 0, twinoff := 0x1_0000_0000, usebase := 0x2_0000_0000, adjhi := 0xFFFF_FFFF }],
               regions := [{ benchRegion with counting := true, beam := true }] }
/-- A memory word whose threads are all performed. -/
def performed (s : State) (i : Form) (f : Fields) (one : Ctx → State → Nat → Thr × State) : Bool :=
  issues s i f fun c s => (performs (one c) (accessing f c.sel) (s.orderNow c f (if i == .sts then min 1 (relLevel f) else relLevel f))).isSome
/-- Every memory word, its fields, and what one thread of it does. -/
def memoryCases : List (Form × Fields × (Fields → Ctx → State → Nat → Thr × State)) :=
  let m (sub : BitVec 4) : Operand := .mem true 6 sub
  [(.ld, { mod := 1, d := .vec 4, a := m 2, b := .imm 0 }, fun f c s t => s.loadThread c f 4 1 t), (.st, { mod := 1, a := .vec 4, d := m 2, b := .imm 0 }, fun f c s t => s.storeThread c f 4 1 t),
   (.lds, { d := .vec 4, a := .mem true 8 2, b := .imm 1 }, fun f c s t => s.ldsThread c f 4 1 t), (.sts, { a := .vec 4, d := .mem true 8 2, b := .imm 1 }, fun f c s t => s.stsThread c f 4 1 t),
   (.ldb, { d := .vec 4, a := m 2, b := .imm 0 }, fun f c s t => s.ldbThread c f 4 1 t), (.ldsel, { d := .vec 4, a := m 0, b := .imm 0 }, fun f c s t => s.ldselThread c f t),
   (.copZero, { a := m 3, b := .imm 0 }, fun f c s t => s.zeroThread c f t), (.atom, { d := .vec 4, a := m 2, b := .vec 5 }, fun f c s t => s.atomThread c f (opOf (m 2)) 4 1 t),
   (.atomv, { d := .vec 0, a := m 2, b := .scalar 8, xc := 3 }, fun f c s t => s.atomThread c f (opOf (m 2)) 32 8 t), (.red, { d := m 2, a := .vec 5 }, fun f c s t => s.redThread c f (opOf (m 2)) 4 1 t),
   (.redv, { d := m 2, a := .vec 0, xc := 3 }, fun f c s t => s.redThread c f (opOf (m 2)) 32 8 t), (.cas, { mod := 1, d := .vec 4, a := m 0, b := .vec 6, xc := 1 }, fun f c s t => s.casThread c f 4 t),
   (.accr, { d := m 2, a := .vec 5 }, fun f c s t => s.accrThread c f (opOf (m 2)) t), (.accflush, { d := m 0 }, fun f c s t => s.accflushThread c f t)]
/-- The same of the twin group, and `acctag` with max.f32. -/
def twinCases : List (Form × Fields × (Fields → Ctx → State → Nat → Thr × State)) :=
  let m : Operand := .mem true 6 0
  [(.acctag, { d := m, a := .imm 8 }, fun f c s t => s.acctagThread c f (memOpOf 8) t), (.ldf, { d := .vec 4, a := m, b := .imm 0 }, fun f c s t => s.ldfThread c f t),
   (.adst, { d := m, a := .vec 4 }, fun f c s t => s.adstThread c f t), (.adld, { d := .vec 4, a := m, b := .pred 7 }, fun f c s t => s.adldThread c f t),
   (.adforce, { d := .vec 4, a := m, b := .pred 7 }, fun f c s t => s.adforceThread c f t), (.adpeek, { d := .vec 4, a := m, b := .imm 0 }, fun f c s t => s.adpeekThread c f t),
   (.usecnt, { d := .vec 4, a := m }, fun f c s t => s.usecntThread c f t), (.useadj, { d := m, a := .imm 1 }, fun f c s t => s.useadjThread c f t)]
theorem test_memory_performed : memoryCases.all (fun x => performed paged x.1 x.2.1 (x.2.2 x.2.1)) = true := by decide +kernel
theorem test_twin_performed : twinCases.all (fun x => performed paged x.1 x.2.1 (x.2.2 x.2.1)) = true := by decide +kernel
theorem test_memory_stops : issues paged .acctag { d := .mem true 6 0, a := .imm 12 } (fun c s => 11 < (c.once s (.imm 12)).toNat) ∧
    issues paged .ld { d := .vec 4, a := .mem true 4 2, b := .imm 2 } (fun c s => (s.loadThread c { d := .vec 4, a := .mem true 4 2, b := .imm 2 } 4 1 0).1 == .stop (.trap .memoryAccess 2 0x1002 0)) ∧
    issues { paged with tlb := [] } .ld { mod := 1, d := .vec 4, a := .mem true 4 2, b := .imm 0 }
      (fun c s => (s.loadThread c { mod := 1, d := .vec 4, a := .mem true 4 2, b := .imm 0 } 4 1 0).1 == .stop (.stall 0x1000 0 1)) := by decide +kernel
/-- A bench whose path has gone past a word, which is tried again. -/
def behind (i : Form) (f : Fields) : State := { (bench.deferWord i f).getD bench with issuer := some ⟨1, 0, 18⟩ }
/-- A window load of a bench. -/
def windowLoad : Fields := { d := .vec 4, a := .mem true 8 2, b := .imm 1 }
theorem test_goes_past : memoryCases.all (fun x => formDefers x.1 && (paged.deferWord x.1 x.2.1).isSome) = true ∧
    ((behind .lds windowLoad).weft? 1 0).map (fun w => (w.late.map fun l => (l.n, l.path.pc, l.hold.why), w.paths.map fun p => p.pc)) = some ([(2, 5, .late)], [6]) ∧
    ((behind .lds windowLoad).issuing windowLoad).map (fun c => (c.late.isSome, c.done, c.sel, c.r.t)) = some (true, 0, 0x8001, 18) := by decide +kernel
/-- Where no register has changed meanwhile, an instruction that its path has gone past reads what it would have read. -/
theorem late_same {c : Ctx} {l : Late} (h : c.late = some l) (hv : l.v = c.wf.v) (hs : l.s = c.wf.s) (hp : l.p = c.wf.p) (hy : l.young = c.wf.young)
    (s : State) (k : RegKey) : c.reg s k = ({ c with late := none } : Ctx).reg s k := by
  have hr : ({ wid := 0, v := l.v, s := l.s, p := l.p } : Weft).reg k = c.wf.reg k := Weft.reg_congr hv hs hp k
  unfold Ctx.reg Ctx.held Ctx.young
  simp only [h, hy, hr, ite_self]
theorem lds_same {c d : Ctx} (h : ∀ s k, c.reg s k = d.reg s k) (hG : c.G = d.G) (hs : c.sel = d.sel) (s : State) (f : Fields) (z w t : Nat) :
    s.ldsThread c f z w t = s.ldsThread d f z w t := by
  unfold State.ldsThread Ctx.spadAt Ctx.addr Ctx.s Ctx.v Ctx.targets
  simp only [h, hG, hs]
theorem test_late_window : ∃ c l t rest x, (behind .lds windowLoad).issuing windowLoad = some c ∧ c.late = some l ∧ c.heldAs .late = true ∧ c.sel ≠ 0 ∧
    c.todo windowLoad = t :: rest ∧ rest ≠ [] ∧
    performs (fun s t => s.ldsThread c windowLoad 4 1 t) [t] ((behind .lds windowLoad).ticked.orderNow c windowLoad (relLevel windowLoad)) = some x := by
  have hm : ((behind .lds windowLoad).issuing windowLoad).map (fun c =>
      c.heldAs .late && c.sel == 0x8001 && c.late.any (fun l => l.v == c.wf.v && l.s == c.wf.s && l.p == c.wf.p && l.young == c.wf.young) &&
        c.todo windowLoad == [0, 15] &&
        (performs (fun s t => s.ldsThread { c with late := none } windowLoad 4 1 t) [0]
          ((behind .lds windowLoad).ticked.orderNow c windowLoad (relLevel windowLoad))).isSome) = some true := by
    decide +kernel
  obtain ⟨c, hc, hx⟩ := Option.map_eq_some_iff.mp hm
  simp only [Bool.and_eq_true, beq_iff_eq, Option.any_eq_true] at hx
  obtain ⟨⟨⟨⟨hh, hsel⟩, l, hl, ⟨⟨hv, hs⟩, hp⟩, hy⟩, ht⟩, hw⟩ := hx
  obtain ⟨x, hw⟩ := Option.isSome_iff_exists.mp hw
  refine ⟨c, l, 0, [15], x, hc, hl, hh, by rw [hsel]; decide, ht, by decide, ?_⟩
  have : (fun s t => s.ldsThread c windowLoad 4 1 t) = fun (s : State) t => s.ldsThread { c with late := none } windowLoad 4 1 t :=
    funext fun s => funext fun t => lds_same (late_same hl hv hs hp hy) rfl rfl s windowLoad 4 1 t
  rw [this]
  exact hw
/-- The attempt that checks a window load lets its path go on, whose weft still stands. -/
theorem test_goes_on : (match exec (.lds windowLoad) bench with
    | .next u => u.goesOn ⟨1, 0, 0⟩ && ((bench.ticked.adopt u).weft? 1 0).isSome
    | _ => false) = true := by decide +kernel
/-- What one access of four bytes at an address finds, through pages with the given bits. -/
def access (priv : Bool) (q : Query) (pte : DWord) (x : DWord) : Option (Option Stop) :=
  let s : State := { (withW fun w => { w with priv }) with tlb := if pte == 0 then [] else [⟨0, 0, 0, 42, pte, 0x8000⟩] }
  s.ctx?.map fun c => match (s.checkElems c q x 4).1 with | .error e => some e | .ok _ => none
/-- The checks of R205, in their order, each refused, and the access that passes them. -/
theorem test_access_checks :
    let q : Query := { read := true, write := true, align := 4, z := 4, n := 1, pair := fun f => f == 14 }
    [access false q 0x19F 0x0100_0000_0000_0000, access false q 0x19F 0x1002, access false q 0 0x1000, access false q 0x1BF 0x1000, access false q 0x19B 0x1000,
     access false q 0x197 0x1000, access false { q with accrue := true } 0x19F 0x1000, access false q 0x0D00_0000_0000_019F 0x1000, access false q 0x19F 0x0300_0000_0000,
     access true q 0x1BF 0x1000]
      = [some (some (.trap .memoryAccess 1 0x0100_0000_0000_0000 0)), some (some (.trap .memoryAccess 2 0x1002 0)), some (some (.stall 0x1000 0 1)), some (some (.trap .memoryAccess 6 0x1000 0)),
         some (some (.trap .memoryAccess 3 0x1000 0)), some (some (.trap .memoryAccess 4 0x1000 0)), some (some (.trap .memoryAccess 16 0x1000 0)), some (some (.trap .memoryAccess 7 0x1000 0)),
         some (some (.trap .memoryAccess 9 0x0300_0000_0000 0)), some none] := by decide +kernel
theorem test_core_reads : devOf 0x1000 = 0 ∧ mmioOff 0x1000 = none ∧ 0x1000 % 128 + 128 ≤ 128 ∧ (bench.line (lineOf 0x1000)).st ≠ .a ∧ (bench.line (lineOf 0x1000)).recs = [] ∧
    bench.reqs = [] ∧ (bench.core 0 0).queue = [] ∧ (bench.core 0 0).fenced = 0 := by decide +kernel
/-- The last element of a window of one granule, the first beyond it, a misaligned one. -/
theorem test_window_edges : (let s := withG fun G => { G with grans := [0] }
    s.ctx?.map (fun c => [4092, 4093, 4095, 4090].map fun k => (c.G.spadsz, (s.ldsThread c { d := .vec 4, a := .mem true 10 2, b := .imm (BitVec.ofNat 13 k) } 4 1 0).1,
        (s.stsThread c { a := .vec 4, d := .mem true 10 2, b := .imm (BitVec.ofNat 13 k) } 4 1 0).1))
      = some [(4096, .ok [(.v 4 0, 0)], .ok []), (4096, .stop (.trap .memoryAccess 10 4093 0), .stop (.trap .memoryAccess 10 4093 0)),
              (4096, .stop (.trap .memoryAccess 10 4095 0), .stop (.trap .memoryAccess 10 4095 0)), (4096, .stop (.trap .memoryAccess 2 4090 0), .stop (.trap .memoryAccess 2 4090 0))]) := by decide +kernel
/-- The last element of 16 bytes of that window, and a misaligned one; the HEAD word of a command ring, whose bytes a store leaves. -/
theorem test_window_wide : (let s := withG fun G => { G with grans := [0] }
    s.ctx?.map (fun c => [4080, 4072].map fun k => ((s.ldsThread c { d := .vec 4, a := .mem true 10 4, b := .imm (BitVec.ofNat 13 k) } 16 4 0).1,
        (s.stsThread c { a := .vec 4, d := .mem true 10 4, b := .imm (BitVec.ofNat 13 k) } 16 4 0).1))
      = some [(.ok [(.v 4 0, 0), (.v 5 0, 0), (.v 6 0, 0), (.v 7 0, 0)], .ok []), (.stop (.trap .memoryAccess 2 4072 0), .stop (.trap .memoryAccess 2 4072 0))]) ∧
    (let G : Group := { benchGroup with ringcfg := 0x1010_0000, ringUsed := true }
     ((List.range 0x110).filter fun b => G.headByte b).length) = 4 := by decide +kernel
/-- The state of the bench with its pages, in which an element of 4 or 8 bytes at 0x10000 is found for the atomics, with nothing pending. -/
theorem test_rmw_calm :
    let s : State := { bench with tlb := [⟨0, 0, 0, 42, 0x19F, 0x8000⟩] }
    let m (sub : BitVec 4) : Operand := .mem true 6 sub
    let calm (c : Ctx) (u : State) (r : Except Stop (List Elem)) : Bool := match r with
      | .ok [e] => devOf e.x.pa == c.dev && (mmioOff e.x.pa).isNone && Memory.wf u.mem && (u.line (lineOf e.x.pa)).st != .a && (u.line (lineOf e.x.pa)).recs.isEmpty && u.reqs.isEmpty &&
          (u.core c.dev c.core).queue.isEmpty && (u.core c.dev c.core).fenced == 0 && u.poison.isEmpty && !c.R.det
      | _ => false
    s.ctx?.map (fun c =>
      let f : Fields := { d := .vec 4, a := m 2, b := .vec 5 }
      let g : Fields := { mod := 1, d := .vec 4, a := m 0, b := .vec 6, xc := 1 }
      [(let r := s.checkAccess c (atomQuery f .addI32 4 1 false) (c.addr s f.a 0 0); calm c r.2 r.1),
       (let r := s.checkAccess c (casQuery g 4) (c.addr s g.a 0 0); calm c r.2 r.1),
       (let r := s.checkAccess c (casQuery g 8) (c.addr s g.a 0 0); calm c r.2 r.1),
       modOrder f.mod != 3 && modOrder g.mod != 3]) = some [true, true, true, true] := by decide +kernel
theorem test_beam_edges :
    let at_ (s : State) (x : Nat) : Option Thr := s.ctx?.map fun c => (s.ldbThread { c with wf := { c.wf with s := [(4, BitVec.ofNat 32 x)] } } { d := .vec 4, a := .mem true 4 2, b := .imm 0 } 4 1 0).1
    (at_ paged 0x7FFF_FFFC, at_ paged 0x8000_0000, at_ bench 0x1000, at_ paged 0x1002) =
      (some (.ok [(.v 4 0, 0)]), some (.stop (.trap .memoryAccess 11 0x8000_0000 0)), some (.stop (.trap .memoryAccess 12 0x1000 0)), some (.stop (.trap .memoryAccess 2 0x1002 0))) := by decide +kernel
theorem test_hints : [(Form.pf, 0), (.copClean, 0), (.copFlush, 1), (.copDemote, 2)].all (fun x => issues paged x.1 { a := .mem true 6 (BitVec.ofNat 4 x.2), b := .imm 0 }) = true ∧
    paged.lines = [] ∧ paged.reqs = [] ∧ paged.cores.all (fun k => k.queue.isEmpty) = true := by decide +kernel

/-- A page table: level 0 at 0x10000 with a table at 0x20000 for the first 4 TiB and nothing after it; level 1 with a leaf, a table at 0x30000, a leaf
with a reserved bit; level 2 with a leaf of an illegal format, a leaf, and a table where none may stand. -/
def tabled : State :=
  let put (s : State) (a : Nat) (e : Nat) : State := s.setBytes a (leBytes 8 e)
  let s := put (put (put (put (put (put (put { bench with tlb := [], ctxs := [{ dev := 0, id := 0, ptbase := 0x10000 }] } 0x10000 0x20001) 0x20000 0x2000_019F) 0x20008 0x30001) 0x20010 0x219F)
    0x30000 0x0100_0000_0000_019F) 0x30008 0x0005_019F) 0x30010 0x0006_0001
  s
theorem test_walk_ends : [(0x1234 : DWord), 0x2000_1234, 0x2001_1234, 0x2002_0000, 0x2003_0000, 0x4000_0000, 0x6000_0000, 0x0400_0000_0000].map
      (fun x => match (tabled.translate 0 0 x).1 with | .ok y => (y.pa, 0) | .error r => (0, r))
      = [(0x2000_1234, 0), (0, 3), (0x0005_1234, 0), (0, 2), (0, 1), (0, 2), (0, 1), (0, 1)] := by decide +kernel
theorem test_walk_touches : (tabled.setBytes 0x30008 (leBytes 8 0x0005_001F)).mem ≠ tabled.mem ∧
    (let s := tabled.setBytes 0x30008 (leBytes 8 0x0005_001F)
     ((s.touch 0 0 { pa := 0x50000, pte := 0x0005_001F, bits := 16, at_ := 0x30008 } true).2.entry 0x30008, (s.touch 0 0 { pa := 0x50000, pte := 0x0005_001F, bits := 16, at_ := 0x30008 } false).2.entry 0x30008,
      (s.touch 0 0 { pa := 0x60000, pte := 0x0006_001F, bits := 16, at_ := 0x30008 } true).1)) = (0x0005_019F, 0x0005_009F, false) := by decide +kernel

/-! ### Special registers, bobbins, commands -/

theorem test_special_writes : issues bench .wrsr { mod := 0b110_000, d := .special 0x01D, a := .scalar 4 } ∧
    issues (withW fun w => { w with s := [(4, 0x1010_0000)] }) .wrsr { mod := 0b110_000, d := .special 0x017, a := .scalar 4 } (fun c s => c.G.ringCheck (c.s s 4) == none) ∧
    issues (withW fun w => { w with s := [(4, 0x1FF0_1000)] }) .wrsr { mod := 0b110_000, d := .special 0x017, a := .scalar 4 } (fun c s => c.G.ringCheck (c.s s 4) == some 14) ∧
    issues (withG fun G => { G with ringcfg := 0x1010_0000 }) .wrsr { mod := 0b110_000, d := .special 0x017, a := .scalar 4 } (fun c s => c.G.ringCheck (c.s s 4) == some 15) := by decide +kernel
/-- What traps before a word issues. -/
def early (s : State) (i : Form) (f : Fields) : Option (Nat × Bool) :=
  (s.issuing f).bind fun c => if c.hold.isNone && s.ready i f c then (c.preTrap i f).map fun t => (t.reason, c.wf.priv) else none
theorem test_early_traps :
    [early treadling .fadd { d := .vec 1, a := .vec 2, b := .vec 3 }, early (withW fun w => { w with priv := false }) .tlbiAll {},
     early (withW fun w => { w with priv := false }) .mov { mod := 0b110_000, d := .scalar 1, a := .special 0x100 },
     early bench .wrsr { mod := 0b110_000, d := .special 0x103, a := .scalar 1 }, early (withW fun w => { w with held := 2 }) .mov { mod := 0b110_000, d := .vec 192, a := .vec 1 },
     early (withW fun w => { w with held := 2 }) .mov { mod := 0b110_000, d := .vec 191, a := .vec 1 }]
      = [some (4, false), some (9, false), some (9, false), some (9, true), some (1, true), none] := by decide +kernel
/-- Bobbin 63 of the bench in a state. -/
def bobbin (st : BobState) (holder : Option Nat := none) : State := withG fun G => { G with bobs := modAt (fun b => { b with st, holder, off := 16, remain := 7 }) 63 G.bobs }
/-- Bobbin 63 as it stands. -/
def bobSt (s : State) (c : Ctx) : Bobbin := (s.groupNow c).bobs.getD 63 {}
theorem test_bobbins : [Form.bwait, .bset, .bexp, .bstat].all (fun i => issues bench i { a := .imm 64, b := .scalar 4, d := .scalar 1 } fun c s => 63 < (c.once s (.imm 64)).toNat) = true ∧
    [Form.bwait, .bset].all (fun i => issues (bobbin .faulted) i { a := .imm 63 } fun c s => (bobSt s c).st == .faulted) = true ∧
    issues (bobbin .full) .bwait { mod := 2, a := .imm 63 } (fun c s => (bobSt s c).st == bobStateOf { mod := 2 }) ∧ issues (bobbin .filling) .bwait { mod := 2, a := .imm 63 } (fun c s => (bobSt s c).st != bobStateOf { mod := 2 }) ∧
    resumes (held (bobbin .full) .bwait 63) { mod := 2, a := .imm 63 } .bwait (fun c s => c.arg ≤ 63 && ((s.ticked.groupNow c).bobs.getD c.arg {}).st == bobStateOf { mod := 2 }) ∧
    issues (bobbin .free) .bset { mod := 2, a := .imm 63 } (fun c s => (bobSt s c).holder.isNone && (bobSt s c).st == .free) ∧
    issues (bobbin .draining (some 1)) .bset { mod := 2, a := .imm 63 } (fun c s => (bobSt s c).st == .draining) ∧
    issues (bobbin .full) .bstat { a := .imm 63, d := .scalar 1 } (fun c s => (bobSt s c).remain == 7) := by decide +kernel
theorem test_bobbin_expects :
    let with_ (n : Word) : State := (bobbin .full).modWeft 1 0 fun w => { w with s := [(4, 4096), (5, n)] }
    issues (with_ 4096) .bexp { a := .imm 63, b := .scalar 4 } (fun c s => (c.s s 4).toNat + (c.s s 5).toNat ≤ c.G.spadsz && (bobSt s c).holder.isNone) ∧
    issues (with_ 4097) .bexp { a := .imm 63, b := .scalar 4 } (fun c s => c.G.spadsz < (c.s s 4).toNat + (c.s s 5).toNat) := by decide +kernel
/-- A ring of four entries, on, with a TAIL above HEAD, and the entry in s8 to s15. -/
def ringed (tail : Word) (entry : Word := 0) : State :=
  let s := withG fun G => { G with ringcfg := 0x1010_0000, head := 5, wefts := G.wefts.map fun w => { w with s := [(8, entry)] } }
  match s.group? 1 with | some G => s.setSpad G G.ringOff (leBytes 4 tail.toNat ++ leBytes 4 5) | none => s
/-- The ring has room. -/
def room (c : Ctx) (s : State) : Bool := (s.ringTail (s.groupNow c) - s.ringHead (s.groupNow c)).toNat < (s.groupNow c).nent
theorem test_rings : [Form.cmdw, .permx].all (fun i =>
      issues bench i { a := .scalar 8 } (fun c s => !(s.groupNow c).ringcfg.getLsbD 28) || i == .permx) = true ∧
    issues (withW fun w => { w with s := [(8, 3)] }) .permx { a := .scalar 8 } (fun c s => (c.s s 8).toNat % 16 == 3 && !(s.groupNow c).ringcfg.getLsbD 28) ∧
    [Form.cmdw, .permx].all (fun i => issues (ringed 8 3) i { a := .scalar 8 } fun c s => (s.groupNow c).ringcfg.getLsbD 28 && room c s && (c.s s 8).toNat % 16 == 3) = true ∧
    [Form.cmdw, .permx].all (fun i => issues (ringed 9 3) i { a := .scalar 8 } fun c s => (s.groupNow c).ringcfg.getLsbD 28 && !room c s && (c.s s 8).toNat % 16 == 3) = true ∧
    issues (ringed 6 4) .permx { a := .scalar 8 } (fun c s => (c.s s 8).toNat % 16 != 3) ∧
    issues bench .shcancel { a := .imm 0, b := .imm 257 } (fun c s => 256 < (c.once s (.imm 257)).toNat) ∧ issues bench .shcancel { a := .imm 0, b := .imm 256 } (fun c s => (c.once s (.imm 256)).toNat ≤ 256) ∧
    resumes (held (withG fun G => { G with cmds := [{ seq := 7, bytes := [], cancel := true }, { seq := 3, bytes := [] }] }) .shcancel (3 + 2 ^ 32 * 4)) { a := .imm 3, b := .imm 4 } .shcancel
      (fun c s => (s.ticked.groupNow c).cmds.all fun x => !x.cancel || decide (c.arg / 2 ^ 32 ≤ (x.seq - BitVec.ofNat 32 (c.arg % 2 ^ 32)).toNat)) := by decide +kernel
theorem test_mcasts :
    let f : Fields := { mod := 1, d := .mem true 6 2, a := .vec 4, b := .scalar 4 }
    issues (withW fun w => { w with s := [(6, 0x10000), (4, 0x1000)] }) .mcast f (fun c s => (c.s s 4).extractLsb' 12 4 != 0) ∧
    issues (withW fun w => { w with s := [(6, 0x10000), (4, 0x0001_0000), (5, 3)] }) .mcast f (fun c s => (c.s s 4).extractLsb' 12 4 == 0 && (c.s s 4).extractLsb' 28 4 == 0 &&
      (performs (fun s t => s.castThread c f 4 1 (c.s s 4) (c.s s 5) t) (accessing f c.sel) ((s.openCast c).release c.dev c.core (relLevel f))).isSome) := by decide +kernel

/-! ### The matrix engine, treadles, barriers -/

/-- References of four k-blocks in s4 and s6, of k = 128. -/
def refs (a b : DWord) : State := withW fun w => { w with s := [(4, loWord a), (5, hiWord a), (6, loWord b), (7, hiWord b)] }
/-- A matrix word on tile 0. -/
def mm (i : Form) (f : Fields) : Fields := { f with d := .tile 0, a := .mem true 4 0, b := .mem true 6 0, mod := if i == .mmap then 0 else f.mod }
theorem test_matrix_checks :
    let ok (c : Ctx) (s : State) : Bool := refOk c.isCluster (c.refVal s (.mem true 4 0)) && refOk c.isCluster (c.refVal s (.mem true 6 0))
    let same (c : Ctx) (s : State) : Bool := refKn (c.refVal s (.mem true 4 0)) == refKn (c.refVal s (.mem true 6 0))
    let tiles (c : Ctx) (s : State) (n : Nat) : Option Nat := match c.tiles s (.tile 0) n with | .ok _ => none | .error e => some e
    [Form.mma, .mmap].all (fun i =>
      issues (refs (1 <<< 55) 0) i (mm i {}) (fun c s => !ok c s) && issues (refs (3 <<< 56) (2 <<< 56)) i (mm i {}) (fun c s => ok c s && !same c s) &&
      issues (refs ((3 <<< 56) + (7 <<< 52)) ((3 <<< 56) + (1 <<< 52))) i (mm i {}) (fun c s => ok c s && same c s && tiles c s 16 == some 2)) = true ∧
    issues (refs (3 <<< 56) (3 <<< 56)) .mma (mm .mma {}) (fun c s => ok c s && tiles c s 1 == none && !s.someTile c [0] fun x => x.tag != tagOf 0) ∧
    issues (refs (3 <<< 56) (3 <<< 56)) .mma (mm .mma { mod := 0b110_000 }) (fun c s => ok c s && tiles c s 1 == none && s.someTile c [0] fun x => x.tag != tagOf 6) ∧
    issues (refs (3 <<< 56) (3 <<< 56)) .mmap (mm .mmap {}) (fun c s => ok c s && tiles c s 1 == none) ∧
    issues (refs ((3 <<< 56) + (64 <<< 16)) (3 <<< 56)) .mmap (mm .mmap {}) (fun c s => ok c s && same c s && refCk (c.refVal s (.mem true 4 0)) % 128 != 0) := by decide +kernel
/-- The edges of tile counts; tile 0 of the bench is closed and is tagged X128. -/
theorem test_tile_counts :
    [0, 33].all (fun n => issues bench .tzero { d := .tile 0, a := .imm n } fun c s => (c.once s (.imm n)).toNat == 0 || 32 < (c.once s (.imm n)).toNat) = true ∧
    [0, 65].all (fun n => issues bench .topen { d := .tile 0, a := .imm n } fun c s => (c.once s (.imm n)).toNat == 0 || 64 < (c.once s (.imm n)).toNat) = true ∧
    issues (withG fun G => { G with ntiles := 32 }) .tzero { d := .tile 0, a := .imm 32 } (fun c s => match c.tiles s (.tile 0) 32 with | .ok _ => true | _ => false) ∧
    issues bench .topen { d := .tile 7, a := .imm 64 } (fun c s => (match c.tiles s (.tile 7) 1 with | .ok _ => true | _ => false) && !s.someTile c [7] fun x => x.open_.isSome) ∧
    issues (refs 0 0) .tdrain { mod := 0b110_000, d := .mem true 4 0, a := .tile 0 } (fun c s => refOk c.isCluster (c.refVal s (.mem true 4 0)) && !s.someTile c [0] fun x => !drainTag 6 false x.tag) ∧
    issues bench .tdadd { d := .scalar 8, a := .tile 0, b := .imm 63 } (fun c s => (c.once s (.scalar 8)).toNat < 2 ^ 21 && (c.once s (.imm 63)).toNat ≤ 63) ∧
    [Form.tread, .twrite].all (fun i => issues bench i { mod := 0b110_000, d := if i == .tread then .vec 1 else .tile 0, a := if i == .tread then .tile 0 else .vec 1, b := .imm 1023 } fun c s =>
      match (s.group? 1).bind fun G => G.tile? 0 with | some x => c.ordered x && cellTag { mod := 0b110_000 } x.tag | none => false) = true := by decide +kernel
/-- A cluster group of the bench's group alone, with a grid. -/
def party : State := { (withG fun G => { G with unit := some 9, grid := some 9 }) with units := [{ uid := 9, members := [1], cbars := List.replicate 4 {} }] }
theorem test_treadle_words :
    issues treadling .tfence { a := .imm 15 } (fun c s => c.isTreadle && !((c.trd s).batch 15).any s.opLive && !(c.trd s).unfenced.any s.opLive) ∧
    issues bench .twait { a := .imm 15 } (fun c s => (c.once s (.imm 15)).toNat ≤ 15) ∧ issues party .twait { mod := 1, a := .imm 15 } (fun c _ => c.G.unit.isSome) ∧
    [0, 1].all (fun m => resumes (held party .twait 15) { mod := BitVec.ofNat 6 m, a := .imm 15 } .twait (fun c s =>
      c.G.unit.isSome && c.arg ≤ 15 && !(((s.ticked.treadle? 1 (if m == 1 then clusterWid else treadleWid)).getD {}).batch c.arg).any s.ticked.opLive)) = true ∧
    issues treadling .tlc { mod := 3, a := .imm 31, b := .imm 32 } (fun c s => c.isTreadle && (c.once s (.imm 31)).toNat < (c.once s (.imm 32)).toNat) ∧
    [Form.tfence, .tlc].all (fun i => issues bench i { a := .imm 0, b := .imm 1 } fun c _ => !c.isTreadle) = true ∧
    issues (refs 0x1000 0) .trun { a := .mem true 4 0 } (fun c s => (c.refVal s (.mem true 4 0)).toNat % 4096 == 0 && !((s.treadle? 1 32).getD {}).running) ∧
    issues (party.modWeft 1 0 fun w => { w with s := [(4, 0x1000)] }) .trun { mod := 1, a := .mem true 4 0 } (fun c s => c.G.member == 0 && !((s.treadle? 1 33).getD {}).running) ∧
    issues bench .tstop {} (fun c s => !c.isTreadle && !((s.treadle? 1 32).getD {}).running) ∧ issues { treadling with issuer := some ⟨1, 0, 0⟩ } .tstop {} (fun c s => !c.isTreadle && ((s.treadle? 1 32).getD {}).running) ∧
    issues treadling .tstop {} (fun c s => c.isTreadle && (c.trd s).running) := by decide +kernel
theorem test_barriers : [Form.barv, .barw, .bars].all (fun i => issues bench i { d := if i == .barv then .scalar 1 else .none, a := .imm 16, b := .imm 1 } fun c s => 15 < (c.once s (.imm 16)).toNat) = true ∧
    issues bench .barv { d := .scalar 3, a := .imm 15 } ∧ issues bench .barw { a := .imm 15 } ∧ [0, 34].all (fun n => issues bench .bars { a := .imm 15, b := .imm n }) = true ∧
    [1, 33].all (fun n => issues bench .bars { a := .imm 15, b := .imm n }) = true ∧ issues party .cbar { a := .imm 3, b := .imm 1 } (fun c s => c.G.unit.bind s.party? == some { uid := 9, members := [1], cbars := List.replicate 4 {} }) ∧
    issues party .gbar {} (fun c s => (c.G.grid.bind s.party?).isSome) ∧ issues bench .cbar { a := .imm 3, b := .imm 1 } (fun c s => (c.G.unit.bind s.party?).isNone) ∧ issues bench .gbar {} (fun c s => (c.G.grid.bind s.party?).isNone) ∧
    issues bench .fence { mod := 0b100_000 } (fun _ _ => relLevel { mod := 0b100_000 } == 0) ∧ issues bench .fence { mod := 0b111_000 } (fun _ _ => relLevel { mod := 0b111_000 } != 0) := by decide +kernel
theorem test_barriers_end :
    resumes (stopped (withG fun G => { G with bars := modAt (fun b => { b with phase := 1 }) 15 G.bars }) { why := .barw, va := 15 }) { a := .imm 15 } .barw
      (fun c s => (c.hold.map fun h => h.va.toNat) == some 15 && ((s.ticked.groupNow c).bars.getD 15 {}).phase.toNat != c.arg) ∧
    (let s : State := { stopped party { why := .cbar, va := 3 } with units := [{ uid := 9, members := [1], cbars := List.replicate 4 { phase := 1 } }] }
     resumes s { a := .imm 3, b := .imm 1 } .cbar fun c s => ((c.G.unit.bind s.ticked.party?).map fun P => (P.cbars.getD 3 {}).phase.toNat != c.arg) == some true) ∧
    (let s : State := { stopped party { why := .gbar } with units := [{ uid := 9, members := [1], gbar := { phase := 1 } }] }
     resumes s {} .gbar fun c s => ((c.G.grid.bind s.ticked.party?).map fun P => P.gbar.phase.toNat != c.arg) == some true) := by decide +kernel
theorem test_barrier_phases :
    (({ expect := 2 } : Barrier).arriveWith (1, 0) [7] []).phase = 0 ∧ (({ expect := 1 } : Barrier).arriveWith (1, 0) [7] [(1, 3)]).phase = 1 ∧
    (({ expect := 1 } : Barrier).arriveWith (1, 0) [7] [(1, 3)]).past = [7] ∧ (({ expect := 2, here := [(1, 0)], arrived := 1 } : Barrier).arriveWith (1, 0) [7] []).arrived = 1 := by decide +kernel

/-! ### Allocation, work, the Jacquard, the supervisor -/

theorem test_allocation :
    let w1 := withW fun w => { w with held := 1 }
    [Form.regacq, .regacqTry].all (fun i => [0, 4].all fun n => issues bench i { mod := if i == .regacq then 0 else 1, d := if i == .regacq then .none else .pred 1, a := .imm n }) = true ∧
    issues bench .regrel { a := .imm 4 } (fun c s => 3 < (c.once s (.imm 4)).toNat) ∧
    issues bench .regacq { a := .imm 3 } (fun c s => (s.weftNow c.r).map (fun x => decide (3 ≤ x.2.held)) == some true) ∧ issues w1 .regacq { a := .imm 2 } (fun c s => (s.weftNow c.r).map (fun x => decide (x.2.held < 2)) == some true) ∧
    issues bench .regacqTry { mod := 1, d := .pred 1, a := .imm 1 } ∧ issues w1 .regacqTry { mod := 1, d := .pred 1, a := .imm 3 } ∧
    issues (withW fun w => { w with outs := [{ n := 9, writes := [⟨.v 64 0, 1, false⟩] }] }) .regrel { a := .imm 0 } (fun c s => (s.weftNow c.r).map (fun x => x.2.outs.any fun o => o.n == 9 && o.n != c.out) == some true) ∧
    issues bench .regrel { a := .imm 0 } (fun c s => (s.weftNow c.r).map (fun x => x.2.outs.all (fun o => o.writes.isEmpty) && x.2.late.isEmpty && x.2.paths.length == 1) == some true) ∧
    resumes (held bench .regrel 0) { a := .imm 3 } .regrel (fun c s => (s.ticked.weftNow c.r).map (fun x => x.2.outs.isEmpty && x.2.late.isEmpty && x.2.paths.length == 1) == some true) := by decide +kernel
theorem test_windows :
    let e : State := { bench with regions := [{ benchRegion with elastic := true, spad := 256 }] }
    let f (i : Form) (n : BitVec 13) : Fields := { mod := if i == .spgrow then 0 else 1, d := if i == .spgrow then .none else .pred 1, a := .imm n }
    [Form.spgrow, .spgrowTry].all (fun i => issues bench i (f i 1) (fun c _ => !c.R.elastic) && issues e i (f i 0) && issues e i (f i 257) &&
      issues e i (f i 2) (fun c s => c.R.elastic && 2 ≤ (s.groupNow c).grans.length) && issues e i (f i 3) (fun c s => (s.groupNow c).grans.length < 3) && issues e i (f i 256)) = true ∧
    [Form.ipf, .ipin, .iunpin].all (fun i =>
      let s := withW fun w => { w with s := [(4, 4097), (5, 4096)] }
      issues s i { d := if i == .ipin then .pred 1 else .none, a := .imm 0, b := .scalar 4 } && issues s i { d := if i == .ipin then .pred 1 else .none, a := .imm 0, b := .scalar 5 }) = true ∧
    issues bench .ipin { d := .pred 1, a := .imm 0, b := .imm 128 } (fun c s => (s.pinsAt c { a := .imm 0, b := .imm 128 }).length + (c.codeLines s { a := .imm 0, b := .imm 128 }).length ≤ 128) ∧
    issues bench .ipin { d := .pred 1, a := .imm 0, b := .imm 129 } (fun c s => 128 < (s.pinsAt c { a := .imm 0, b := .imm 129 }).length + (c.codeLines s { a := .imm 0, b := .imm 129 }).length) := by decide +kernel
/-- The bench in a region of three nodes: a waiting one, a BIN, a held one; s2:s3 names node 1, and so on. -/
def noded (at_ : Word) : State :=
  { (withW fun w => { w with s := [(2, at_)] }) with
    tlb := [⟨0, 0, 0, 42, 0x19F, 0x8000⟩]
    regions := [{ benchRegion with nodesAt := 0, nslots := 2, cslots := 0x1_8000, nnodes := 4, nodes := benchRegion.nodes ++ [{ idx := 1, pending := 1 }, { idx := 2, kind := 1, recsz := 1, st := 2 }, { idx := 3, held := true }] }] }
/-- The node that a word names. -/
def nodeSt (s : State) (c : Ctx) (f : Fields) : Option Node := (s.nodeInTree c.R.rid (c.nodeRef s f)).bind fun x => s.node? x.1 x.2
theorem test_work :
    let m : Fields := { a := .mem true 2 0 }
    let below : State := ({ noded 0x1000 with regions := [{ benchRegion with seen := true, nnodes := 1, nodesAt := 0, child := 0x5000 }] }).setBytes 0x5000
      (List.replicate 24 0 ++ leBytes 8 0x1000 ++ leBytes 8 1 ++ List.replicate 88 0)
    issues (noded 0x1000) .launch m (fun c s => (s.nodeInTree c.R.rid (c.nodeRef s m)).isNone && (s.unstarted c.R (c.nodeRef s m)).1.isNone) ∧
    [Form.launch, .relh].all (fun i => issues below i m (fun c s => (s.nodeInTree c.R.rid (c.nodeRef s m)).isNone && (s.unstarted c.R (c.nodeRef s m)).1.isSome)) = true ∧
    issues below .post m (fun c s => (s.nodeAt c.dev c.ctx (c.nodeRef s m)).isNone && (s.unstartedIn c.dev c.ctx (c.nodeRef s m)).1.isSome) ∧
    issues (noded 0x1000) .relh m (fun c s => (s.nodeInTree c.R.rid (c.nodeRef s m)).isNone && (s.unstarted c.R (c.nodeRef s m)).1.isNone) ∧ issues (noded 0x1000) .post m (fun c s => (s.nodeAt c.dev c.ctx (c.nodeRef s m)).isNone && (s.unstartedIn c.dev c.ctx (c.nodeRef s m)).1.isNone) ∧
    issues (noded 64) .launch m (fun c s => (nodeSt s c m).map (fun N => N.st == 0 && N.pending == 1) == some true && c.R.st == 1 && !c.R.killed) ∧
    issues (noded 0) .launch m (fun c s => (nodeSt s c m).map (fun N => N.st == 2) == some true) ∧
    issues (noded 64) .relh m (fun c s => (nodeSt s c m).map (fun N => N.held) == some false) ∧
    issues (noded 192) .relh m (fun c s => (nodeSt s c m).map (fun N => N.held && N.st == 0) == some true &&
      (match s.slotWord c 0 0 c.R.cslots with | (.ok (v, x), u) => v == 0 && !u.refused 0 0 x.pa && Memory.wf u.mem | _ => false)) ∧
    issues (noded 128) .post { m with b := .vec 16, xr := 1, xc := 2 } (fun c s => (nodeSt s c m).map (fun N => N.kind == 1 && N.recBytes == 32) == some true &&
      (performs (fun s t => s.postThread c { m with b := .vec 16, xr := 1, xc := 2 } 1 2 t) (accessing {} c.sel) (s.releaseAt c 2)).isSome) ∧
    issues (noded 128) .post { m with b := .vec 16 } (fun c s => (nodeSt s c m).map (fun N => N.kind == 1 && N.recBytes == 4) == some false) ∧
    issues (noded 0) .post m (fun c s => (nodeSt s c m).map (fun N => N.kind) == some 0) ∧
    issues (noded 0) .countb { a := .imm 1, b := .imm 3 } (fun c s => (performs (fun s t => s.countThread c { a := .imm 1, b := .imm 3 } t) (accessing {} c.sel) s).isSome) := by decide +kernel
/-- A rival group in the first round of a scope, and one that waits for its end. -/
def rival (st : Nat := 1) (round : Nat := 1) : State :=
  { (withG fun G => { G with rival := some 0 }) with tourns := [{ sid := 4, rid := 1, node := 0, addr := 0x4000, st, round, allow := 8, rivals := [{ idx := 0, st := 1, allow := 8 }, { idx := 1, node := 7, st := 1, allow := 8 }] }] }
theorem test_tournaments : [Form.score, .trnd].all (fun i => issues bench i { a := if i == .score then .imm 1 else .none } fun c s => (s.tournOf c.G).isNone) = true ∧
    issues (rival) .score { a := .imm 1 } (fun c s => (s.tournOf c.G).isSome) ∧ issues (rival) .trnd {} (fun c s => (s.tournOf c.G).map (fun x => x.1.st) == some 1) ∧
    issues (rival 2) .trnd {} (fun c s => (s.tournOf c.G).map (fun x => x.1.st) == some 2) ∧ 
    [(2, true), (1, false)].all (fun x => resumes (held (rival 1 x.1) .trnd 1) {} .trnd fun c s => (s.ticked.tournOf c.G).map (fun y => decide (c.arg < y.1.round)) == some x.2) = true := by decide +kernel
/-- A pattern of two stages and one element at 0x1_0000, evaluated by the BIN node at 128: FMAX, HMAX and TEND of 1.0, HMIN, FMIN and SAFETY too. -/
def patterned : State :=
  (noded 0x1_0000).setBytes 0x1_0000
    (leBytes 4 0x1002 ++ leBytes 4 1 ++ ([0, 0, 0x3F800000, 0x3F800000, 0x3F800000, 0x3F800000, 0x3F800000, 0x3F800000].flatMap (leBytes 4)) ++ leBytes 8 0x2_0000 ++
      leBytes 4 1024 ++ leBytes 4 128 ++ leBytes 8 128 ++ leBytes 8 0x3_0000)
theorem test_jacquard :
    issues { bench with clusters := [{ dev := 0, n := 0, jqLive := true }] } .jqstart { d := .pred 1, a := .mem true 4 0 } (fun c s => !(s.cluster c.dev c.jq).jqFree) ∧
    issues (noded 0x1_0001) .jqstart { d := .pred 1, a := .mem true 2 0 } (fun c s => (s.cluster c.dev c.jq).jqFree && ((s.releaseAt c 2).jqTry c.dev c.jq c.ctx (c.addr s (.mem true 2 0) 0 (lowThread c.sel))).1 == .failed .operand 25 0) ∧
    issues (noded 0x1_0000) .jqstart { d := .pred 1, a := .mem true 2 0 } (fun c s => ((s.releaseAt c 2).jqTry c.dev c.jq c.ctx (c.addr s (.mem true 2 0) 0 (lowThread c.sel))).1 == .failed .operand 25 0) ∧
    issues patterned .jqstart { d := .pred 1, a := .mem true 2 0 } (fun c s => (s.cluster c.dev c.jq).jqPause.isNone && ((s.releaseAt c 2).jqTry c.dev c.jq c.ctx (c.addr s (.mem true 2 0) 0 (lowThread c.sel))).1 == .ran) ∧
    resumes (held bench .jqstart 1) { d := .pred 1, a := .mem true 4 0 } .jqstart (fun c _ => c.arg == 1) ∧
    issues bench .jqdone { a := .imm 0 } (fun c s => (performs (fun s t => s.jqdoneThread c { a := .imm 0 } t) (accessing {} c.sel) (s.releaseAt c 2)).isSome) ∧
    issues bench .jqstat { d := .scalar 1, a := .imm 511, b := .imm 4 } (fun c s => (performs (fun s t => s.jqstatThread c { d := .scalar 1, a := .imm 511, b := .imm 4 } t) (accessing {} c.sel) s).isSome) := by decide +kernel
theorem test_supervisor_words : [Form.tlbiAll, .tlbiCtx, .tlbiPage, .replay, .replayAll].all (fun i => issues bench i { a := if i == .tlbiPage || i == .replay then .scalar 4 else .none }) = true ∧
    [Form.tlbiAll, .tlbiCtx, .tlbiPage].all (fun i =>
      let past (s : State) : State := s.modWeft 1 0 fun w => { w with late := [{ n := 9, path := { mask := 2 }, hold := { why := .late }, tlb := [⟨0, 0, 0, 42, 0x19F, 0⟩] }] }
      let f : Fields := { a := if i == .tlbiPage then .scalar 4 else .none }
      issues (past bench) i f (fun c s => s.groups.any fun G => G.dev == c.dev && G.wefts.any fun w => w.late.any fun l => l.hold.why == .late && l.tlb.any fun e => e.dev == c.dev && e.ctx == c.ctx) &&
      resumes (held bench .tlbi 0) f .tlbi (fun c s => (c.hold.map fun h => h.va.toNat % 2 ^ 55) == some 0 && s.ticked.groups.all fun G => G.wefts.all fun w => w.late.isEmpty)) = true ∧
    issues bench .rdflt { d := .scalar 8, a := .pred 1 } (fun c s => (s.ctx c.dev c.ctx).faults.isEmpty) ∧
    issues (withC fun C => { C with faults := [⟨9, 0, .weft, 1, 1, false⟩] }) .rdflt { d := .scalar 8, a := .pred 1 } (fun c s => ((s.ctx c.dev c.ctx).faults.find? fun e => !e.read).isSome) ∧
    [0, 1].all (fun b => issues (withW fun w => { w with s := [(4, 0x4000)] }) .ctxsv { a := .mem true 4 0, b := .imm b } fun c s =>
      (performs (fun s t => s.ctxsvOnce c { a := .mem true 4 0, b := .imm b } (b != 0) t) ((threadsOf c.sel).take 1) s).isSome) = true := by decide +kernel

/-! ### Steps that no word encodes -/

theorem test_core_events :
    ((held bench .adld 9).ctxAt ⟨1, 0, 0⟩).map (fun c => c.heldAs .adld) = some true ∧
    (let s : State := { held bench .regacq 3 with cores := [{ dev := 0, n := 0, regq := [⟨1, 0, 0⟩], stall := some 0 }], clk := 4096 }
     ((s.core 0 0).regq = [⟨1, 0, 0⟩] ∧ (s.weftNow ⟨1, 0, 0⟩).isSome = true ∧ (s.ctxAt ⟨1, 0, 0⟩).map (fun c => c.p.stuckIn false) = some true ∧
      (s.core 0 0).regq ++ (s.core 0 0).spq = [⟨1, 0, 0⟩] ∧ (s.core 0 0).stall = some 0)) ∧
    (let s : State := { held bench .spgrow 3 with cores := [{ dev := 0, n := 0, spq := [⟨1, 0, 0⟩], queue := [{ line := 0x1000 }] }] }
     ((s.core 0 0).spq = [⟨1, 0, 0⟩] ∧ (s.group? 1).isSome = true ∧ (s.core 0 0).queue = [{ line := 0x1000 }])) := by decide +kernel
/-- An operation of the bench's engine, at its turn; a delivery to its open tile. -/
def engaged (form : Form) (n : Nat := 5) : State :=
  { (withG fun G => { G with grid := some 9, tiles := G.tiles.map fun t => if t.n == 0 then { t with open_ := some (2, 5) } else t }) with
    cores := [{ dev := 0, n := 0, ops := [{ n := 4, g := 1, w := 0, form := .tzero, tiles := [3] }, { n, g := 1, w := 0, form, tiles := [if n == 5 then 0 else 3] }] }]
    deliveries := [{ n := 6, op := { n := 6, g := 1, w := 0, form := .tdadd, src := 1 }, tgid := 0, grid := (1, 0), tile := 0, nar := false, cells := [] }] }
theorem test_engine_turns : [Form.tzero, .mma, .tdrain, .tdadd].all (fun i => (((engaged i).core 0 0).ops.find? fun o => o.n == 5).map (fun o => opTurn ((engaged i).core 0 0).ops o) == some true) = true ∧
    (((engaged .mma 7).core 0 0).ops.find? fun o => o.n == 7).map (fun o => opTurn ((engaged .mma 7).core 0 0).ops o) = some false := by decide +kernel
theorem test_deliveries : let s := engaged .topen
    ((s.deliveries.find? fun e => e.n == 6).bind fun e => (s.target? e).bind fun H => (H.tile? e.tile).map fun x => (H.life, x.open_)) = some (.placed, some (2, 5)) ∧
    ((s.deliveries.find? fun e => e.n == 6).map fun e => s.deliveryDue { e with arrived := some 0, tile := 3 }) = some (some 65536) := by decide +kernel
/-- A draft of one row of 32-bit elements at 0x1_0000 with boxes of one element. -/
def draftBytes : List Byte := leBytes 8 0x1_0000 ++ leBytes 4 0x203 ++ leBytes 4 0 ++ leBytes 4 8 ++ List.replicate 108 0
/-- A group with one command, of a kind and a mode, on bobbin 63 in a state. -/
def commanded (kind mode : Nat) (st : BobState := .free) (more : Command → Command := id) : State :=
  let c : Command := { seq := 3, bytes := leBytes 4 (kind + 64 * mode + 256 * 63) ++ List.replicate 28 0, started := true, draft := draftBytes, draft2 := draftBytes }
  { (bobbin st).modGroup 1 (fun G => { G with ringcfg := 0x1010_0000, cmds := [more c], cpw := [(3, 0)] }) with tlb := [⟨0, 0, 0, 42, 0x19F, 0x8000⟩] }
/-- The command has begun and goes on, and `P` holds of its group and of it. -/
def commandRuns (s : State) (P : Group → Command → Bool := fun _ _ => true) : Bool :=
  match s.command? 1 3 with
  | some (G, c) => c.started && c.status.isNone && c.pause.isNone && G.life == .placed && !s.shootHeld G c && !s.ceases G c && P G c
  | none => false
theorem test_commands_run :
    [(0, 0), (0, 1), (0, 2), (1, 0), (1, 1), (2, 0), (2, 1), (4, 0), (5, 0), (3, 0)].all (fun x => commandRuns (commanded x.1 x.2) fun _ c => c.kind == x.1 && c.mode == x.2 && c.bob.isNone) = true ∧
    ((commanded 0 0 .free fun c => { c with cancel := true }).command? 1 3).map (fun x => (x.2.cancel, x.2.status)) = some (true, none) ∧
    ((commanded 0 0 .free fun c => { c with pause := some 1 }).command? 1 3).map (fun x => (x.2.pause, x.2.status)) = some (some 1, none) ∧
    ((commanded 0 0 .free fun c => { c with started := false }).command? 1 3).map (fun x => (x.2.started, x.2.status)) = some (false, none) ∧
    ((commanded 0 0 .free fun c => { c with status := some 0 }).command? 1 3).map (fun x => (x.1.copy, x.2.status)) = some (false, some 0) := by decide +kernel
/-- What makes a command cease where it stands: nothing under way, a kind that moves nothing, a PERMX without a partner, a line of its destination; and one that
waits at a 64 KiB boundary while a shootdown is pending. -/
theorem test_commands_stop :
    [(0, 0), (2, 1), (3, 0), (5, 0)].all (fun x =>
      let s := commanded x.1 x.2 .free fun c => { c with cancel := true, started := x.1 != 0 }
      match s.command? 1 3 with
      | some (G, c) => !s.shootHeld G c && s.ceases G c && (c.between || 5 ≤ c.kind || (c.kind == 3 && c.paired.isNone) || G.atLine c c.elem) && G.life == .placed && c.pause.isNone
      | none => false) = true ∧
    (let s := (commanded 2 1).modWeft 1 0 fun w => { w with paths := [{ mask := 0x8001, pc := 5, hold := some { why := .tlbi, arg := 1 } }] }
     (s.command? 1 3).map (fun x => (s.shootPending 0 0, s.shootHeld x.1 x.2, x.1.life == .placed))) = some (true, true, true) := by decide +kernel
/-- The element of a box is moved; bobbins FREE and not, FULL and not. -/
theorem test_command_elements :
    let d := draftOf draftBytes
    let ran (s : State) (one : Group → State → Command → Option Halt × Command × State) : Bool :=
      commandRuns s fun G c => (match runElems (one G) (s.mayMove G c (G.toLine c (d.count_ - c.elem) c.elem) c.elem) s c with | (none, c1, _) => d.count_ == c1.elem | _ => false)
    (d.z, d.count_) = (4, 1) ∧
    [(0, false), (1, false), (2, true)].all (fun x => ran (commanded x.1 0 .filling fun c => { c with bob := some 63 }) fun G s c => s.loadElem G c d 63 x.2 false) = true ∧
    [0, 1].all (fun k => ran (commanded k 1 .draining fun c => { c with bob := some 63 }) fun G s c => s.drainElem G c d 63) = true ∧
    ran (commanded 0 2) (fun G s c => s.copyElem G c d d false) = true ∧ ran (commanded 2 1) (fun G s c => s.fillElem G c d) = true ∧ ran (commanded 4 0) (fun G s c => s.beamElem G c d) = true ∧
    [.free, .full].all (fun st => commandRuns (commanded 1 0 st) fun G c => (G.bobs.getD c.boxBob {}).st == st) = true ∧
    (commanded 4 0).beamReaders 0 = false ∧ ({ commanded 4 0 with regions := [{ benchRegion with beam := true }] } : State).beamReaders 0 = true := by decide +kernel
/-- Two devices whose commands meet, of equal parameters or not. -/
def exchanging (other : Nat) : State :=
  let c (w : Nat) : Command := { seq := 3, bytes := leBytes 8 3 ++ leBytes 8 0x1_0000 ++ leBytes 8 w ++ leBytes 8 0, started := true }
  { bench with
    devs := [{ id := 0, st := 6 }, { id := 1, st := 6 }]
    tlb := [⟨0, 0, 0, 42, 0x19F, 0x8000⟩, ⟨1, 0, 0, 42, 0x1000_0000_019F, 0x8000⟩]
    groups := [{ benchGroup with ringcfg := 0x1010_0000, cmds := [c 0x201] }, { benchGroup with uid := 2, dev := 1, rid := 2, cmds := [c other] }] }
theorem test_exchange : [0x201, 0x202].map (fun o => let s := exchanging o
    (s.command? 1 3).bind fun x => (s.partner (0 ^^^ 2 ^ x.2.jbit) x.2).map fun y =>
      (!s.permStill x.1 y.1 x.2 y.2 && x.2.logn == y.2.logn && x.2.esize == y.2.esize && x.2.lbit == y.2.lbit, (s.permRun x.1 y.1 x.2 y.2 (min (s.mayMove x.1 x.2 (x.1.toLine x.2 1 0) 0) (s.mayMove y.1 y.2 (y.1.toLine y.2 1 0) 0)) 0).2.1)) = [some (true, 1), some (false, 1)] ∧
    ((commanded 3 0).command? 1 3).map (fun x => (((commanded 3 0).partner (0 ^^^ 2 ^ x.2.jbit) x.2).isNone, (commanded 3 0).hasDev (0 ^^^ 2 ^ x.2.jbit))) = some (true, false) := by decide +kernel
/-- The same commands, paired; one of them may be cancelled or paused, or its partner gone. -/
def pairedUp (other : Nat) (g : Command → Command := id) : State :=
  let s := exchanging other
  (s.modGroup 1 fun G => { G with cmds := G.cmds.map fun c => g { c with paired := some (2, 3) } }).modGroup 2 fun G => { G with cmds := G.cmds.map fun c => { c with paired := some (1, 3) } }
theorem test_pairs :
    let at_ (s : State) (P : Group → Command → Group → Command → Bool) : Bool := match s.command? 1 3, s.command? 2 3 with
      | some (G, c), some (H, e) => c.kind == 3 && c.paired == some (2, 3) && c.status.isNone && e.status.isNone && G.life == .placed && H.life == .placed && P G c H e
      | _, _ => false
    [0x201, 0x202].all (fun o => at_ (pairedUp o) fun G c H e => !(pairedUp o).permStill G H c e && !c.cancel && !e.cancel && (pairedUp o).joined G.dev H.dev &&
      (c.logn == e.logn && c.esize == e.esize && c.lbit == e.lbit) == (o == 0x201) && ((pairedUp o).permRun G H c e (min ((pairedUp o).mayMove G c (G.toLine c 1 0) 0) ((pairedUp o).mayMove H e (H.toLine e 1 0) 0)) 0).1.isNone) = true ∧
    at_ (pairedUp 0x201 fun c => { c with pause := some 1 }) (fun _ c _ _ => c.pause.isSome) = true ∧
    at_ (pairedUp 0x201 fun c => { c with cancel := true }) (fun G c H e => c.cancel && G.atLine c c.elem && H.atLine e e.elem && !(pairedUp 0x201 fun c => { c with cancel := true }).permStill G H c e) = true ∧
    at_ { pairedUp 0x201 with devs := [{ id := 0, st := 6 }, { id := 1, st := 6, links := [{ n := 0, up := false }] }] } (fun G _ H _ => !({ pairedUp 0x201 with devs := [{ id := 0, st := 6 }, { id := 1, st := 6, links := [{ n := 0, up := false }] }] } : State).joined G.dev H.dev) = true ∧
    (let s := (pairedUp 0x201).modGroup 2 fun G => { G with cmds := [] }
     (s.command? 1 3).isSome && (s.command? 2 3).isNone) = true := by decide +kernel
theorem test_copy_ends : ((withG fun G => { G with copy := true, cmds := [{ seq := 3, bytes := [], status := some 3 }] }).command? 1 3).map (fun x => (x.1.copy, x.1.cmds.length, x.1.ringDead, x.2.status))
    = some (true, 1, false, some 3) := by decide +kernel
theorem test_ring_reads : (((ringed 9).group? 1).map fun G => (G.life, G.watched, ((ringed 9).ringTail G - BitVec.ofNat 32 G.head).toNat, G.nent)) = some (.placed, true, 4, 4) ∧
    (((ringed 10).group? 1).map fun G => decide (G.nent < ((ringed 10).ringTail G - BitVec.ofNat 32 G.head).toNat)) = some true := by decide +kernel

/-- A device that starts regions, its root entry 1 naming an RCB at 0x4000 of context 0, with POST as given. -/
def posted (post : Nat) : State :=
  ({ bench with groups := [], regions := [], devs := [{ id := 0, st := 6, rten := true, root := [(2, 0x4000)] }], tlb := [⟨0, 0, 0, 42, 0x19F, 0x8000⟩] } : State).setBytes 0x4038 (leBytes 1 post)
theorem test_arms : [0, 1].all (fun p => (posted p).rootEntry 0 1 == some (0x4000, 0) && (match (posted p).dcheck 0 0 0x4000 128 false with
    | (.ok (), s1) => s1.vnum 0 0 (0x4000 + 0x38) 1 == p && s1.regions.all fun R => R.pause.isNone && !R.retry
    | _ => false)) = true := by decide +kernel
/-- A region that runs, with a node of a kind, a state and a length. -/
def launching (N : Node) : State := { bench with groups := [], regions := [{ benchRegion with nnodes := 1, nodes := [N] }] }
theorem test_launches : [0, 1, 2, 3, 4, 5].all (fun k => [0, 1].all fun len => match (launching { idx := 0, kind := k, st := 1, len }).region? 1 with
      | some R => !R.retry && R.st == 1 && !R.killed && (R.node? 0).map (fun N => (N.st, N.kind, N.len)) == some (1, k, len)
      | none => false) = true ∧
    ((({ launching { idx := 0 } with regions := [{ benchRegion with retry := true, nodes := [{ idx := 0 }] }] } : State).region? 1).map fun R => (R.retry, (R.node? 0).isSome)) = some (true, true) ∧
    (((launching { idx := 0 }).region? 1).map fun R => (R.retry, (R.node? 0).map fun N => N.st)) = some (false, some 0) ∧
    ((launching { idx := 0, expiry := some 0 }).node? 1 0).map (fun N => N.expiry) = some (some 0) ∧
    (let s := launching { idx := 0, st := 2, len := 1 }
     (s.node? 1 0).map (fun N => (N.kind, N.st, N.inFlight)) = some (0, 2, 0) ∧ s.gridPublished 1 0 = true ∧ (s.endNode 1 0 3).tourns = []) ∧
    (bench.node? 1 0).map (fun N => N.inFlight) = some 1 := by decide +kernel
/-- A group of region 2, of PRIO 1 and of one core, where a group of it runs already, waits for tiles on the bench's core; the bench's group has lower
priority and its region a save area of one slot. -/
def crowded (gtiles : Nat) : State :=
  ({ bench with
      tlb := [⟨0, 0, 0, 42, 0x19F, 0x8000⟩]
      groups := [benchGroup, { benchGroup with uid := 2, rid := 2, grans := [], wefts := [], ntiles := 0, q := 0 }]
      regions := [{ benchRegion with rid := 2, prio := 1, cores := 1, tiles := 64, nodes := [{ idx := 0, st := 2, len := 2, gtiles }], queue := [{ node := 0, gid := 1, age := 0 }] },
                  { benchRegion with save := 0x1_0000 }] } : State).setBytes 0x1_0000 (leBytes 4 1)
/-- The node of the waiting group. -/
def crowdedNode : Node := { idx := 0, st := 2, len := 2, gtiles := 25 }
/-- Its region. -/
def crowdedRegion : Region :=
  { benchRegion with rid := 2, prio := 1, cores := 1, tiles := 64, nodes := [{ idx := 0, st := 2, len := 2, gtiles := 25 }], queue := [{ node := 0, gid := 1, age := 0 }] }
/-- Only the core that its group runs on lies in the region's budget. -/
theorem crowded_others (c : Nat) (h : c ≠ 0) (N : Node) : (crowded 25).nodeFits crowdedRegion N c = false := by
  have hb : (crowded 25).budgetFits 2 0 c N.gspad N.gtiles N.gxblk = false := by
    have h1 : (crowded 25).ancestors 8 2 = [2] := by decide +kernel
    have h2 : (crowded 25).region? 2 = some crowdedRegion := by decide +kernel
    have h3 : (crowded 25).groups.filter (fun G => G.life != .saved && !G.copy && (crowded 25).inTree 2 8 G.rid)
        = [{ benchGroup with uid := 2, rid := 2, grans := [], wefts := [], ntiles := 0, q := 0 }] := by decide +kernel
    simp [State.budgetFits, h1, h2, h3, List.eraseDups_cons, crowdedRegion, benchGroup]
    intro h4; exfalso; revert h4; simp [Ne.symm h]; decide
  unfold State.nodeFits
  simp only [show crowdedRegion.rid = 2 from rfl, show crowdedRegion.dev = 0 from rfl, hb, Bool.and_false]
theorem crowded_full (c : Nat) : (crowded 25).nodeFits crowdedRegion crowdedNode c = false := by
  by_cases hc : c = 0
  · subst hc; decide +kernel
  · exact crowded_others c hc _
/-- The waiting group. -/
def crowdedHead : Waiting := { node := 0, gid := 1, age := 0 }
theorem test_no_core : (crowded 25).region? 2 = some crowdedRegion ∧ crowdedRegion.node? 0 = some crowdedNode ∧
    ∀ cores, (crowded 25).placeUnit crowdedRegion crowdedNode crowdedHead cores = none := by
  refine ⟨by decide +kernel, by decide +kernel, fun cores => ?_⟩
  have hf (l : List Nat) : l.filter (fun _ => false) = [] := by simp
  simp [State.placeUnit, Region.unitWaiting, State.placeAll, State.coreFor, State.chooseCore, State.chooseOn, crowded_full, hf, State.lighter, show crowdedRegion.dies = [0, 1, 2, 3] from by decide,
    show crowdedRegion.cosched = false from rfl, show crowdedNode.kind = 0 from rfl, show crowdedNode.cluster = 0 from rfl, show crowdedHead.chosen = none from rfl]
theorem test_no_saves : (crowded 25).afterSaves = crowded 25 := by decide +kernel
/-- Where a removal could make room. -/
theorem crowded_rooms : (crowded 25).rooms crowdedRegion crowdedHead =
    (List.range 256).map fun c => ([c], fun t => (t.placeUnit crowdedRegion crowdedNode crowdedHead [c]).isSome) := by
  have h : (crowdedRegion.dies.flatMap fun die => (List.range 64).map fun k => 64 * die + k) = List.range 256 := by decide +kernel
  rw [← h]
  have hn : crowdedRegion.node? crowdedHead.node = some crowdedNode := test_no_core.2.1
  simp [State.rooms, hn, List.map_flatMap, Function.comp_def, show crowdedRegion.cosched = false from rfl, show crowdedNode.kind = 0 from rfl,
    show crowdedNode.cluster = 0 from rfl, show crowdedHead.saved = none from rfl]
theorem crowded_victims (c : Nat) (h : c ≠ 0) :
    (crowded 25).victims crowdedRegion.prio 0 [c] (fun t => (t.placeUnit crowdedRegion crowdedNode crowdedHead [c]).isSome) 3 [] = none := by
  have h1 : ({ crowded 25 with groups := (crowded 25).groups.filter fun G => !([] : List Nat).contains G.uid } : State) = crowded 25 := by decide +kernel
  have h2 : (crowded 25).resident 0 c = [] := by
    have : (crowded 25).groups = [benchGroup, { benchGroup with uid := 2, rid := 2, grans := [], wefts := [], ntiles := 0, q := 0 }] := by decide +kernel
    simp [State.resident, this, benchGroup, Ne.symm h]
  rw [State.victims]
  simp only [h1, test_no_core.2.2]
  simp [h2]
theorem test_rooms : (∀ x ∈ (crowded 25).rooms crowdedRegion crowdedHead, x.2 (crowded 25).afterSaves = false) ∧
    ((crowded 25).rooms crowdedRegion crowdedHead).filterMap (fun x => (crowded 25).afterSaves.victims crowdedRegion.prio 0 x.1 x.2 ((crowded 25).afterSaves.groups.length + 1) []) = [[1]] ∧
    ((crowded 25).takeSlots [1]).isSome = true := by
  refine ⟨fun x hx => ?_, ?_, by decide +kernel⟩
  · rw [crowded_rooms] at hx
    obtain ⟨c, -, rfl⟩ := List.mem_map.1 hx
    simp [test_no_saves, test_no_core.2.2]
  · have h0 : (crowded 25).victims crowdedRegion.prio 0 [0] (fun t => (t.placeUnit crowdedRegion crowdedNode crowdedHead [0]).isSome) 3 [] = some [1] := by decide +kernel
    have h3 : (crowded 25).groups.length + 1 = 3 := by decide +kernel
    rw [crowded_rooms, test_no_saves, h3, List.filterMap_map, show (256 : Nat) = 255 + 1 from rfl, List.range_succ_eq_map]
    simp [h0, Function.comp_def, crowded_victims]
theorem test_places :
    let t := crowded 24
    ((crowded 25).heads 0 0).map (fun x => (x.1.rid, x.2.gid, x.2.saved.isNone)) = [(2, 1, true)] ∧ (crowded 25).placeHead crowdedRegion crowdedHead deviceCores = none ∧
    (t.region? 2).map (fun R => ((t.dev 0).st, t.nodeFits R { idx := 0, st := 2, len := 2, gtiles := 24 } 0)) = some (6, true) := by
  refine ⟨by decide +kernel, ?_, by decide +kernel⟩
  simp [State.placeHead, test_no_core.2.1, test_no_core.2.2, show crowdedHead.saved = none from rfl, show crowdedHead.node = 0 from rfl]
/-- A group that has exited with an open `topen` of its weft, which completes with the group's retirement (R425); one whose load is outstanding stays. -/
def openEnd (tl : Nat) : State :=
  (withG fun G => { G with wefts := [{ wid := 0, exited := 0xFFFF, outs := [{ n := 7, tl, setf := 2 }], tl, flags := [(2, 1)] }] }).modCore 0 0 fun k =>
    { k with ops := if tl == 1 then [{ n := 3, g := 1, w := 0, form := .topen, tiles := [0], out := 7 }] else [] }
theorem test_open_retires : [0, 1].map (fun n => ((openEnd n).group? 1).map (openEnd n).canRetire) = [some false, some true] := by decide +kernel
theorem test_retires : bench.group? 1 = some benchGroup ∧
    (let s := withG fun G => { G with slot := some 0, life := .saving }
     (s.group? 1).map (fun G => (G.life, G.slot, (s.region? G.rid).isSome)) = some (.saving, some 0, true) ∧ (s.core 0 0).ops = [] ∧ s.deliveries = []) ∧
    (let s : State := { withG (fun G => { G with life := .saved }) with regions := [{ benchRegion with queue := [{ node := 0, gid := 0, age := 0, saved := some 1 }] }] }
     ((s.region? 1).bind fun R => headOf R.queue).map (fun W => W.saved) = some (some 1) ∧ (s.group? 1).map (fun G => (s.unitOf G).contains 1) = some true) := by decide +kernel
theorem test_readyposts : (launching { idx := 0 }).nodeAt 0 0 0 = some (1, 0) ∧ ((launching { idx := 0 }).dev 0).st = 6 ∧
    ({ launching { idx := 0 } with devs := [{ id := 0, st := 6, mode := [(0, 2)] }] } : State).modeBit 0 0 1 = true ∧ (launching { idx := 0 }).modeBit 0 0 1 = false := by decide +kernel
theorem test_scopes : ((rival).runningRival 4 0).isSome = true ∧ (rival).runningRival 4 2 = none ∧ ((rival).tourn? 4).isSome = true ∧
    ([{ idx := 0, st := 1, score := some 3 }, { idx := 1, st := 3, score := some 3 }, { idx := 2, st := 1 }] : List Rival).foldr insertRival [] =
      [{ idx := 0, st := 1, score := some 3 }, { idx := 2, st := 1 }, { idx := 1, st := 3, score := some 3 }] := by decide +kernel
/-- A Jacquard that waits for its start with the pattern of `patterned`, with and without its page; one whose first sample awaits the host. -/
theorem test_jacquard_starts :
    let s : State := { patterned with clusters := [{ dev := 0, n := 0, jqWait := true, jqPat := 0x1_0000 }] }
    let u : State := { bench with clusters := [{ dev := 0, n := 0, jqLive := true, samples := [{ idx := 0, st := 1, phase := 4, elem := 1 }] }] }
    (s.cluster 0 0).jqWait = true ∧ (s.jqTry 0 0 0 0x1_0000).1 = .ran ∧ (({ s with tlb := [] } : State).jqTry 0 0 0 0x1_0000).1 = .paused 1 ∧
    (bench.cluster 0 0).jqWait = false ∧ (u.sample? 0 0 0).map (fun x => (x.2.phase, x.2.elem)) = some (4, 1) := by decide +kernel
/-- Two devices, joined by a route or not; the second admits the memory of device 0's context 0 or does not. -/
def domain (routed allowed : Bool) : State :=
  let D (k : Nat) : Device := { id := k, st := 6, rwbase := BitVec.ofNat 64 (k * 2 ^ 44 + 0x8000), links := if routed then [] else [{ n := 0, up := false }] }
  let s : State := { bench with devs := [D 0, D 1] }
  if allowed then s.setBytes (2 ^ 44 + 0x8000) [1] else s
/-- A request of device 0 to device 1. -/
def request : Msg := { src := 0, dst := 1, line := 2 ^ 44 }
theorem test_messages : (domain false true).reaches 0 1 = false ∧ (domain true true).reaches 0 1 = true ∧ (domain true true).remoteAllowed 0 (2 ^ 44) = true ∧ (domain true false).remoteAllowed 0 (2 ^ 44) = false ∧
    ((domain true true).done.any fun x => sameMsg x.1 request) = false ∧ (({ domain true true with done := [(request, [])] } : State).done.any fun x => sameMsg x.1 request) = true ∧
    ((domain true true).line (2 ^ 44)).st ≠ .a ∧
    (let L := ({ bench with lines := [{ addr := 2 ^ 44, st := .a, holders := [{ pos := 0 }], merging := some 0 }] } : State).line (2 ^ 44)
     L.st = .a ∧ L.merging.isSome = true ∧ ∀ h ∈ L.holders, h.pos = request.pos ∨ h.pos ∈ L.replies) := by decide +kernel
theorem test_links : bench.hasDev 0 = true ∧ (bench.link 0 3).up = true ∧ (bench.link 0 3).width = 0 ∧ (bench.link 0 3).waits = false ∧ bench.modeBit 0 0 3 = false ∧
    (({ domain true true with devs := [{ id := 0, mode := [(0, 8)], links := [{ n := 0, up := false }, { n := 1, waits := true, width := 2 }] }] } : State).modeBit 0 0 3 = true) ∧
    (({ bench with reqs := [{ msg := request, bad := 7, tries := 4 }] } : State).reqs.find? fun r => sameMsg r.msg request) = some { msg := request, bad := 7, tries := 4 } := by decide +kernel
/-- The check values of the two codes for the text 123456789 in their standards; a flit whose message has a bad tag, and one with a bad CRC. -/
theorem test_tags :
    let text : List Byte := [49, 50, 51, 52, 53, 54, 55, 56, 57]
    let flit (crc : Byte) : List Byte := List.replicate 247 0 ++ [1, 1, 0, 0, 0, crc, 23, 191, 35]
    crc64 text = 0x6C40_DF5F_0B49_7347 ∧ crc32 text = 0xCBF4_3926 ∧ flitOk (flit 36) = true ∧ flitOk (flit 37) = false ∧ flitSeq (flit 36) = 1 ∧
    (linkPeer 0 3).isSome = true ∧ headerOf ((flit 36).take 248) = ⟨0, 1, 0, 0, 0, 0, 0, 0⟩ ∧ tagOk ((flit 36).take 248) = false ∧
    (({ bench with reqs := [{ msg := {}, bad := 3 }] } : State).reqs.find? fun r => r.msg.src == 0 && r.msg.die == 0 && r.msg.dst == 0 && r.msg.mseq == 0) = some { msg := {}, bad := 3 } := by decide +kernel
/-- A device in each of its states, with DEVID of its own or another's; a draft slot that is to be written. -/
theorem test_hosts :
    let s (st devid : Nat) : State := { bench with devs := [{ id := 0, st, devid, named := st != 8, draftq := Sparse.setRange [] 0 (leBytes 4 0x8000_0000) }] }
    let u : State := { s 6 0 with ctxs := [{ dev := 0, id := 0, dtbase := 0x1000 }], tlb := [⟨0, 0, 0, 42, 0x19F, 0x8000⟩] }
    (List.range 9).all (fun st => (s st 0).hasDev 0 && ((s st 0).dev 0).st == st && ((s st 0).dev 0).devid == 0 && !(s st 5).hasDev 5) = true ∧
    (leNat (Sparse.range ((s 6 0).dev 0).draftq 0 4)).testBit 31 = true ∧ leNat (Sparse.range ((s 6 0).dev 0).draftq 128 4) = 0 ∧ (s 6 0).modeBit 0 0 2 = false ∧ zoneOf 0x1000 = .hbm ∧
    ((s 4 0).dev 0).named = true ∧ ((s 4 5).dev 0).devid = 5 ∧ (({ s 4 0 with devs := [{ id := 0, st := 4 }] } : State).dev 0).named = false ∧
    (u.tlbHit 0 0 0x1000).map (fun e =>
      let x := xlatOf 0x1000 e.bits e.pte e.at_
      (pteA e.pte && pteD e.pte && pteW x.pte && !u.unmapped x.pa && !u.refused 0 0 x.pa && (u.line (lineOf x.pa)).st != .a && (u.line (lineOf x.pa)).recs.isEmpty && Memory.wf u.mem, x.pa))
      = some (true, 0x1000) ∧
    (match u.access 0 0 0x1000 true (fun x => pteW x.pte) with | (.ok x, _) => pteW x.pte | _ => false) = true ∧
    (match ({ u with tlb := [] } : State).access 0 0 0x1000 true (fun x => pteW x.pte) with | (.error _, _) => true | _ => false) = true := by decide +kernel

/-! ## Results of single instructions, by hand calculation from the rules -/

/-- Registers of the bench's weft after an instruction: as written, or as its outstanding record holds them. -/
def after (s : State) (i : Instr) (ks : List RegKey) : Option (List Word) :=
  match exec i s with
  | .next t => (t.weft? 1 0).map fun w => ks.map fun k => ((w.outs.flatMap fun o => o.writes).find? fun x => x.key == k).elim (w.reg k) fun x => x.val
  | _ => none
/-- The paths of the bench's weft after an instruction. -/
def paths (s : State) (i : Instr) : Option (List (Mask × Word)) :=
  match exec i s with
  | .next t => (t.weft? 1 0).map fun w => w.paths.map fun p => (p.mask, p.pc)
  | _ => none
/-- A bench whose threads 0 and 15 hold different values in v2 and v3, and p2 true in thread 15. -/
def values (a0 a15 b0 b15 : Word) : State := withW fun w => { w with v := [(32, a0), (47, a15), (48, b0), (63, b15)], p := [(2, 0x8000)] }

/-- R151: the immediate is sign-extended; the scalar takes the last thread's value. -/
theorem test_add_scalar : after bench (.add { d := .scalar 5, a := .scalar 8, b := .imm (-4) }) [.s 5] = some [0xFFFF_FFFF] := by decide +kernel
theorem test_add_vector : after (values 1 0xFFFF_FFFF 2 1) (.add { d := .vec 2, a := .vec 2, b := .vec 3 }) [.v 2 0, .v 2 15, .v 3 0] = some [3, 0, 2] := by decide +kernel
theorem test_sub_reads_before : after (values 5 7 3 9) (.sub { d := .vec 3, a := .vec 2, b := .vec 3 }) [.v 3 0, .v 3 15] = some [2, 0xFFFF_FFFE] := by decide +kernel
theorem test_addc_carries : after (withW fun w => { w with s := [(4, 0xFFFF_FFFF), (6, 1)] }) (.addc { mod := 0b001_000, d := .scalar 5, a := .scalar 4, b := .scalar 6 }) [.s 5, .p 6 0] = some [0, 1] := by decide +kernel
theorem test_mad_accumulates : after (values 3 4 5 6) (.mad { d := .vec 2, a := .vec 2, b := .vec 3 }) [.v 2 0, .v 2 15] = some [18, 28] := by decide +kernel
theorem test_shr_wide : after bench (.shr { mod := 0b111_000, d := .scalar 10, a := .scalar 6, b := .imm 16 }) [.s 10, .s 11] = some [1, 0] := by decide +kernel
theorem test_icmp_signed : after (values 0xFFFF_FFFF 1 0 0) (.icmp { mod := 0b000_010, d := .pred 1, a := .vec 2, b := .imm 0 }) [.p 1 0, .p 1 15] = some [1, 0] := by decide +kernel
theorem test_sel_chooses : after (values 10 11 20 21) (.sel { mod := 0b110_010, d := .vec 1, a := .vec 2, b := .vec 3 }) [.v 1 0, .v 1 15] = some [20, 11] := by decide +kernel
/-- R62, R171: 1 + 2 = 3; 1.5 × 2 + 1.5 = 4.5; the reciprocal of 2. -/
theorem test_fadd : after (values 0x3F80_0000 0 0x4000_0000 0) (.fadd { d := .vec 1, a := .vec 2, b := .vec 3 }) [.v 1 0] = some [0x4040_0000] := by decide +kernel
theorem test_fma : after (values 0x3FC0_0000 0 0x4000_0000 0) (.fma { d := .vec 2, a := .vec 2, b := .vec 3 }) [.v 2 0] = some [0x4090_0000] := by decide +kernel
theorem test_rcp : after (values 0x4000_0000 0 0 0) (.rcp { d := .vec 1, a := .vec 2 }) [.v 1 0, .v 1 15] = some [0x3F00_0000, 0x7F80_0000] := by decide +kernel
theorem test_cvt : after (values 0xFFFF_FFFF 0 0 0) (.cvt { d := .vec 1, a := .vec 2 }) [.v 1 0] = some [0xBF80_0000] := by decide +kernel
/-- R184 to R187: the thread index; a shuffle from the lower neighbour by 15; the votes of thread 15. -/
theorem test_mov_tid : after bench (.mov { mod := 0b110_000, d := .vec 1, a := .special 0 }) [.v 1 0, .v 1 15] = some [0, 15] := by decide +kernel
theorem test_shfl_up : after (values 7 8 0 0) (.shfl { mod := 0b110_001, d := .vec 1, a := .vec 2, b := .imm 15 }) [.v 1 0, .v 1 15] = some [7, 7] := by decide +kernel
theorem test_ballot : after (values 0 0 0 0) (.ballot { mod := 0b110_000, d := .scalar 1, a := .pred 2 }) [.s 1] = some [0x8000] := by decide +kernel
theorem test_movi : after bench (.movi { mod := 0b111_000, d := .scalar 10, a := .bits 0x8000, b := .bits 1 }) [.s 10, .s 11] = some [0x8000_0001, 0xFFFF_FFFF] := by decide +kernel
/-- R34, R141: the threads that the guard selects branch, the others go on. -/
theorem test_bra_splits : (paths (values 0 0 0 0) (.bra { gp := 2, a := .imm (-2) })).map (fun ps => (ps.contains (0x0001, 6), ps.contains (0x8000, 3), ps.length)) = some (true, true, 2) := by decide +kernel
theorem test_call_links : after bench (.call { d := .scalar 9, a := .imm 5 }) [.s 9] = some [6] ∧ paths bench (.call { d := .scalar 9, a := .imm 5 }) = some [(0x8001, 10)] := by decide +kernel
theorem test_loop_counts : after bench (.loop { d := .scalar 8, a := .imm (-3) }) [.s 8] = some [2] ∧ paths bench (.loop { d := .scalar 8, a := .imm (-3) }) = some [(0x8001, 2)] := by decide +kernel
/-- R5, R205: a raw load of a 32-bit element, and a store that the core itself reads back. -/
theorem test_ld : after (paged.setBytes 0x1_0008 [0x78, 0x56, 0x34, 0x12]) (.ld { mod := 1, d := .scalar 5, a := .mem true 6 2, b := .imm 8 }) [.s 5] = some [0x1234_5678] := by decide +kernel
theorem test_st : (match exec (.st { mod := 1, d := .mem true 6 2, a := .scalar 8, b := .imm 4 }) paged with
    | .next t => some ((t.readBytes 0 0 0x1_0004 4).1, t.byte 0x1_0004)
    | _ => none) = some ([3, 0, 0, 0], 0) := by decide +kernel
theorem test_atom_adds : after ({ paged with tlb := [⟨0, 0, 0, 42, 0x19F, 0x8000⟩] }.setBytes 0x1_0000 [5, 0, 0, 0]) (.atom { d := .scalar 5, a := .mem true 6 0, b := .imm 2 }) [.s 5] = some [7] := by decide +kernel
theorem test_lds : after (match bench.group? 1 with | some G => bench.setSpad G 16 [1, 2, 3, 4, 5, 6, 7, 8] | none => bench) (.lds { d := .scalar 10, a := .mem true 2 3, b := .imm 16 }) [.s 10, .s 11]
    = some [0x0403_0201, 0x0807_0605] := by decide +kernel
/-- R147, R394: `trap` ends the group with USER_TRAP. -/
theorem test_trap : (match exec (.trap { a := .imm 9 }) bench with
    | .next t => some ((t.group? 1).isNone, (t.region? 1).map fun R => R.nfault)
    | _ => none) = some (true, some 1) := by decide +kernel
theorem test_barv : after (withG fun G => { G with bars := modAt (fun b => { b with phase := 4, expect := 2 }) 15 G.bars }) (.barv { d := .scalar 9, a := .imm 15 }) [.s 9] = some [4] := by decide +kernel
theorem test_exit_ends : (match exec (.exit {}) (withW fun w => { w with exited := 0x7FFE }) with
    | .next t => (t.weft? 1 0).map fun w => (w.exited, w.paths.length, w.held)
    | _ => none) = some (0xFFFF, 0, 0) := by decide +kernel

end Sys2Proof.Tests
end

section
/-! PROOFS. Where the path of an instruction that writes no register stands once its issue has ended or is held, and `wait` (R144). -/

namespace Sys2Proof.Machine

/-! ## Where the issuing path stands -/

/-- In `t`, the path that `c` names has its threads as in `c`, stands at `pc` and is held for the reason `why`, and the registers of its weft are those of `c`. -/
def State.Stands (t : State) (c : Ctx) (pc : Word) (why : Option Why) : Prop :=
  ∃ w p, t.weft? c.r.g c.r.w = some w ∧ w.path? c.r.t = some p ∧ p.mask = c.p.mask ∧ p.pc = pc ∧ p.hold.map (fun h => h.why) = why ∧
    ∀ k, w.reg k = c.wf.reg k

/-- An issuer that a state holds stands there as it says itself. -/
theorem State.stands_self {t : State} {c : Ctx} (hw : t.weft? c.r.g c.r.w = some c.wf) (hp : c.wf.path? c.r.t = some c.p) :
    t.Stands c c.p.pc (c.p.hold.map fun h => h.why) :=
  ⟨c.wf, c.p, hw, hp, rfl, rfl, rfl, fun _ => rfl⟩

/-- The issuer that an issue leaves and the one it found name the same path, threads and registers. -/
theorem Raised.stands_iff {s t u : State} {c d : Ctx} (h : Raised s c d t) {pc : Word} {why : Option Why} :
    u.Stands d pc why ↔ u.Stands c pc why := by
  simp only [State.Stands, h.same.1, h.pc.1, h.reg]

/-- What an issue leaves stands at the word that has issued. -/
theorem Raised.stands {s t : State} {c d : Ctx} (h : Raised s c d t) : t.Stands d d.p.pc (d.p.hold.map fun h => h.why) := by
  have hr : d.r = c.r := h.same.1
  exact State.stands_self (hr ▸ h.weft) (hr ▸ h.path)

theorem Raised.mem_eq {s t : State} {c d : Ctx} (h : Raised s c d t) : t.mem = s.mem := (congrArg State.mem h.frame.rest :)

section
variable {s : State} {c : Ctx} {pc : Word} {why : Option Why}

/-- A change of the weft that touches neither its paths nor its registers leaves the path where it stands. -/
theorem State.Stands.modW (h : s.Stands c pc why) {f : Weft → Weft} (hwid : ∀ w, (f w).wid = w.wid) (hpaths : ∀ w, (f w).paths = w.paths)
    (hreg : ∀ w k, (f w).reg k = w.reg k) : (s.modW c f).Stands c pc why := by
  obtain ⟨w, p, hw, hp, hmask, hpc, hwhy, hregs⟩ := h
  refine ⟨f w, p, ?_, ?_, hmask, hpc, hwhy, fun k => (hreg w k).trans (hregs k)⟩
  · exact (State.weft?_modWeft s c.r.g c.r.w f fun x hx => (hwid x).trans hx).trans (by rw [hw]; rfl)
  · rw [← hp, Weft.path?, Weft.path?, hpaths]

/-- A change of the path that keeps its threads leaves it where the change puts it. -/
theorem State.Stands.modP (h : s.Stands c pc why) {f : Path → Path} {pc' : Word} {why' : Option Why} (hmask : ∀ p, (f p).mask = p.mask)
    (hpc : ∀ p : Path, p.pc = pc → (f p).pc = pc') (hwhy : ∀ p, (f p).hold.map (fun h => h.why) = why') : (s.modP c f).Stands c pc' why' := by
  obtain ⟨w, p, hw, hp, hm, hp0, -, hregs⟩ := h
  have hpath : w.modRef c.r.t f = w.modPath c.r.t f := w.modRef_path (Weft.path?_lt hp) f
  refine ⟨w.modRef c.r.t f, f p, ?_, ?_, (hmask p).trans hm, hpc p hp0, hwhy p, ?_⟩
  · exact (State.weft?_modWeft s c.r.g c.r.w _ fun x hx => (x.modRef_wid _ _).trans hx).trans (by rw [hw]; rfl)
  · rw [hpath, Weft.path?_modPath w _ f hmask, hp]; rfl
  · rw [hpath]; exact hregs

theorem State.Stands.advance (h : s.Stands c pc why) : (s.advance c).Stands c (pc + 1) none :=
  h.modP (fun _ => rfl) (fun _ hp => congrArg (· + 1) hp) fun _ => rfl

theorem State.Stands.holdP (h : s.Stands c pc why) (reason : Why) (arg : Nat) (m : Mask) (va : DWord) :
    (s.holdP c reason arg m va).Stands c pc (some reason) :=
  h.modP (fun _ => rfl) (fun _ hp => hp) fun _ => rfl

theorem State.Stands.completeAt (h : s.Stands c pc why) (due : Nat) : (s.completeAt c due).Stands c pc why := by
  simpa only [State.Stands, State.completeAt_weft?] using h

/-- An end without results writes no register. -/
theorem State.Stands.writeLate_nil (h : s.Stands c pc why) : (s.writeLate c []).Stands c pc why := by
  unfold State.writeLate
  split
  · exact h.modW (fun _ => rfl) (fun _ => rfl) fun _ _ => rfl
  · exact h.modW (fun _ => rfl) (fun _ => rfl) fun _ _ => rfl

theorem State.Stands.finishLate_nil (h : s.Stands c pc why) : (s.finishLate c []).Stands c (pc + 1) none :=
  h.writeLate_nil.advance.completeAt s.clk

theorem State.Stands.finishIdle (h : s.Stands c pc why) : (s.finishIdle c).Stands c (pc + 1) none :=
  h.advance.completeAt (c.p.last + 6)

end

@[simp] theorem State.modW_mem (s : State) (c : Ctx) (f : Weft → Weft) : (s.modW c f).mem = s.mem := State.modWeft_mem ..

@[simp] theorem State.finishIdle_mem (s : State) (c : Ctx) : (s.finishIdle c).mem = s.mem := by
  simp [State.finishIdle]

/-! ## Counters at an issue -/

/-- A word that raises no units leaves the four counters as they were (R129). -/
theorem State.issued_counters {s : State} {i : Form} {f : Fields} {c : Ctx} (h : formUnits i c.sel = (0, 0, 0, 0)) :
    (s.issued i f c).1.wf.ld = c.wf.ld ∧ (s.issued i f c).1.wf.st = c.wf.st ∧ (s.issued i f c).1.wf.cp = c.wf.cp ∧
      (s.issued i f c).1.wf.tl = c.wf.tl := by
  unfold State.issued State.raise
  split
  · exact ⟨rfl, rfl, rfl, rfl⟩
  · simp [Ctx.raisedWeft, h]

/-! ## wait (R144) -/

theorem waitOk_iff (w : Weft) (f : Fields) :
    waitOk w f = true ↔ w.ld ≤ (waitLimits f.a).1 ∧ w.st ≤ (waitLimits f.a).2 ∧ w.cp ≤ (waitLimits f.b).1 ∧ w.tl ≤ (waitLimits f.b).2 := by
  simp [waitOk, and_assoc]

/-- The issue of a `wait` does not change what it waits for. -/
theorem waitOk_issued_wait (s : State) (f : Fields) (c : Ctx) : waitOk (s.issued .wait f c).1.wf f = waitOk c.wf f := by
  obtain ⟨hld, hst, hcp, htl⟩ := s.issued_counters (i := .wait) (f := f) (c := c) rfl
  simp only [waitOk, hld, hst, hcp, htl]

/-- A `wait` with a TL limit acquires the weft's own matrix operations that have completed (R246, R317). -/
def State.acquireOwn (s : State) (f : Fields) (c : Ctx) : State :=
  if (waitLimits f.b).2 < 63 then s.modW c fun w => { w with acq := w.acq ++ w.own.map (fun x => x.1), own := [] } else s

/-- What `wait` does once it is issued or tried again. -/
def waitBody (f : Fields) (c : Ctx) (s : State) : State :=
  if c.sel == 0 then s.finishIdle c
  else if waitOk c.wf f then (s.acquireOwn f c).finishLate c []
  else s.holdP c .wait 0 0

theorem exec_wait (f : Fields) (s : State) : exec (.wait f) s = issue .wait f (waitBody f) s := rfl

@[simp] theorem State.acquireOwn_mem (s : State) (f : Fields) (c : Ctx) : (s.acquireOwn f c).mem = s.mem := by
  unfold State.acquireOwn
  split
  · exact State.modW_mem ..
  · rfl

theorem State.Stands.acquireOwn {s : State} {c : Ctx} {pc : Word} {why : Option Why} (h : s.Stands c pc why) (f : Fields) :
    (s.acquireOwn f c).Stands c pc why := by
  unfold State.acquireOwn
  split
  · exact h.modW (fun _ => rfl) (fun _ => rfl) fun _ _ => rfl
  · exact h

@[simp] theorem waitBody_mem (f : Fields) (c : Ctx) (s : State) : (waitBody f c s).mem = s.mem := by
  unfold waitBody
  split
  · exact State.finishIdle_mem s c
  · split
    · rw [State.finishLate_mem, State.acquireOwn_mem]
    · exact State.holdP_mem ..

/-- `wait` goes on where no thread is selected or the counters are within its limits. -/
theorem waitBody_goesOn {f : Fields} {c : Ctx} {s : State} {pc : Word} {why : Option Why} (h : s.Stands c pc why)
    (hok : c.sel = 0 ∨ waitOk c.wf f = true) : (waitBody f c s).Stands c (pc + 1) none := by
  unfold waitBody
  split
  · exact h.finishIdle
  · next hsel =>
    rw [if_pos (hok.resolve_left (by simpa using hsel))]
    exact (h.acquireOwn f).finishLate_nil

/-- `wait` is held at its instruction otherwise. -/
theorem waitBody_held {f : Fields} {c : Ctx} {s : State} {pc : Word} {why : Option Why} (h : s.Stands c pc why)
    (hok : ¬(c.sel = 0 ∨ waitOk c.wf f = true)) : (waitBody f c s).Stands c pc (some .wait) := by
  obtain ⟨hsel, hlim⟩ := not_or.mp hok
  rw [waitBody, if_neg (by simpa using hsel), if_neg hlim]
  exact h.holdP .wait 0 0 0

/-- `wait` answers a state with the memory of `s`: its path has gone on if no thread is selected or the counters in `c` are within the limits, and is held
at it if not. -/
def State.WaitJudged (s : State) (f : Fields) (c : Ctx) : Prop :=
  ∃ t, exec (.wait f) s = .next t ∧ t.mem = s.mem ∧
    (c.sel = 0 ∨ waitOk c.wf f = true → t.Stands c (c.p.pc + 1) none) ∧
    (¬(c.sel = 0 ∨ waitOk c.wf f = true) → t.Stands c c.p.pc (some .wait))

/-- An issued `wait` runs its body on a path that stands at it. -/
theorem exec_wait_issues {s : State} {f : Fields} {c : Ctx} (h : s.Issues .wait f c) : s.WaitJudged f c := by
  obtain ⟨-, -, hw, hp, -, hl⟩ := State.issuing_spec h.1
  have hr : Raised s.ticked c (s.issued .wait f c).1 (s.issued .wait f c).2 := State.raise_raised .wait f hw (hp (hl h.2.1))
  have hs := hr.stands
  rw [hr.pc.2.1] at hs
  rw [State.WaitJudged, ← waitOk_issued_wait s f c, ← hr.same.2.1]
  exact ⟨_, (exec_wait f s).trans (issue_next h _), (waitBody_mem ..).trans hr.mem_eq,
    fun hok => hr.stands_iff.mp (waitBody_goesOn hs hok), fun hok => hr.stands_iff.mp (waitBody_held hs hok)⟩

/-- A `wait` that is tried again runs the same body on the counters as they stand now. -/
theorem exec_wait_resumes {s : State} {f : Fields} {c : Ctx} (h : s.Resumes f c) : s.WaitJudged f c := by
  obtain ⟨-, -, hw, hp, -, -⟩ := State.issuing_spec h.1
  have hs := State.stands_self (t := s.ticked) hw (hp h.2.2)
  exact ⟨_, (exec_wait f s).trans (issue_resume h _), waitBody_mem .., waitBody_goesOn hs, waitBody_held hs⟩

/-- Settles O28: the meaning of `wait` runs one body at its issue and when it is tried again, and that body asks whether the counters, which the issue of
a `wait` leaves alone, are within the limits. -/
theorem waitGoesOn : Obligations.WaitGoesOn := by
  intro s f c lim within ends
  have hlim : ∀ o, lim o 0 = (waitLimits o).1 ∧ lim o 1 = (waitLimits o).2 := by
    intro o
    cases o with
    | imm v => exact ⟨by simp [lim, waitLimits], by simp [lim, waitLimits]⟩
    | _ => exact ⟨rfl, rfl⟩
  have hwithin : waitOk c.wf f = true ↔ within := by
    simp only [waitOk_iff, within, hlim]
  refine ⟨fun h => ?_, fun h hsel _ => ?_⟩
  · obtain ⟨t, hx, hm, hgo, hheld⟩ := exec_wait_issues h
    rw [hwithin] at hgo hheld
    refine ⟨t, ?_⟩
    split
    · next hok => exact ⟨hx, hm, hgo hok⟩
    · next hok => exact ⟨hx, hm, hheld hok⟩
  · obtain ⟨t, hx, hm, hgo, hheld⟩ := exec_wait_resumes h
    rw [hwithin] at hgo hheld
    refine ⟨t, ?_⟩
    split
    · next hok => exact ⟨hx, hm, hgo (.inr hok)⟩
    · next hok => exact ⟨hx, hm, hheld (not_or.mpr ⟨hsel, hok⟩)⟩

end Sys2Proof.Machine
end

section
/-! PROOFS. The compares, `sel` and the predicate instructions (R164 to R167). -/

namespace Sys2Proof.Machine

/-- An instruction whose meaning ends its issue with a predicate result writes that predicate of each selected thread. -/
theorem Computes.predicate {s : State} {i : Form} {f : Fields} {c : Ctx} (h : s.Issues i f c) (g : Ctx → State → Nat → Bool)
    (he : exec (i.mk f) s = issue i f (fun c s => s.predBlock i f c (g c s)) s) :
    let q := s.issued i f c
    Computes s i f c (q.1.laneWrites f.d fun t => if g q.1 q.2 (if f.u then lowThread q.1.sel else t) then 1 else 0) := by
  simpa only [Bool.toNat, Bool.cond_eq_ite, Ctx.srcThread] using
    Computes.of h (fun c s => c.laneWrites f.d fun t => (g c s (c.srcThread f t)).toNat) he fun c _ => c.laneWrites_ok f.d _

/-- An instruction whose meaning ends its issue with the elements of its block writes that block. -/
theorem Computes.block {s : State} {i : Form} {f : Fields} {c : Ctx} (h : s.Issues i f c) (w : Nat) (g : Ctx → State → Nat → Nat → Nat → Nat)
    (he : exec (i.mk f) s = issue i f (fun c s => s.finish i c (c.blockWrites f w (g c s))) s) :
    let q := s.issued i f c
    Computes s i f c (q.1.blockWrites f w (g q.1 q.2)) :=
  Computes.of h (fun c s => c.blockWrites f w (g c s)) he fun c _ => c.blockWrites_ok f w _

/-- The 32-bit value of an operand is not zero where its number is not zero mod 2^32. -/
theorem Ctx.val_bne_zero (c : Ctx) (s : State) (o : Operand) (t : Nat) : (c.val s o t != 0) = (c.elem s .int 1 o t 0 0 % 2 ^ 32 != 0) := by
  rw [Bool.eq_iff_iff, bne_iff_ne, bne_iff_ne, Ctx.val, ne_eq, ne_eq, ← BitVec.toNat_inj, BitVec.toNat_ofNat]
  rfl

/-- `pmov` to a predicate (R167). -/
theorem exec_pmov_pred {f : Fields} {n : BitVec 3} (hd : f.d = .pred n) (s : State) :
    exec (.pmov f) s = issue .pmov f (fun c s => s.predBlock .pmov f c fun t => c.elem s .int 1 f.a t 0 0 % 2 ^ 32 != 0) s := by
  show execPmov f s = _
  simp only [execPmov, hd, Ctx.val_bne_zero]

/-- `pmov` to registers (R167). -/
theorem exec_pmov_block {f : Fields} (hd : ∀ n, f.d ≠ .pred n) (s : State) :
    exec (.pmov f) s = issue .pmov f (fun c s => s.finish .pmov c (c.blockWrites f 1 fun t _ _ => if c.predOf s f.a t then 1 else 0)) s := by
  show execPmov f s = _
  unfold execPmov
  split
  · next n hn => exact absurd hn (hd n)
  · simp only [Bool.toNat, Bool.cond_eq_ite]

/-- Settles O15: every one of these instructions ends its issue with a predicate of each selected thread or with a block. -/
theorem predicateComputes : Obligations.PredicateComputes := by
  refine ⟨fun s f c => ?_, fun s f c => ⟨fun h => ?_, fun hd h => ?_⟩⟩
  · intro writes x ty w
    have ends (i : Form) (g : Ctx → State → Nat → Bool)
        (he : exec (i.mk f) s = issue i f (fun c s => s.predBlock i f c (g c s)) s) : writes i g :=
      fun h => Computes.predicate h g he
    -- each line below is then matched with its instruction by name
    clear_value writes
    exact ⟨ends .icmp _ rfl, ends .fcmp _ rfl, ends .fclass _ rfl, ends .pand _ rfl, ends .por _ rfl, ends .pxor _ rfl, ends .pnot _ rfl,
      fun _ hd => ends .pmov _ (exec_pmov_pred hd s), ends .pany _ rfl⟩
  · intro q ty w x
    exact Computes.block h w (fun c s t r j =>
      if c.pd s (modLo f.mod) t then c.elem s (intWiden ty) w f.a t r j else c.elem s (intWiden ty) w f.b t r j) rfl
  · exact Computes.block h 1 (fun c s t _ _ => if c.predOf s f.a t then 1 else 0) (exec_pmov_block hd s)

end Sys2Proof.Machine
end

section
/-! PROOFS. The values of the integer instructions (R151 to R157): the number an element stands for, the element an exact value gives. -/

namespace Sys2Proof

/-! ## Elements and the numbers they stand for -/

/-- An element stands for its two's complement or its unsigned value (R148). -/
theorem intVal_toNat (sgn : Bool) {w : Nat} (x : BitVec w) : intVal sgn w x.toNat = if sgn then x.toInt else (x.toNat : Int) := by
  cases sgn
  · simp [intVal]
  · simp only [intVal, Bool.true_and, if_true, x.toInt_eq_msb_cond, x.msb_eq_getLsbD_last, BitVec.getLsbD]

theorem intVal_mod (sgn : Bool) (w x : Nat) :
    intVal sgn w (x % 2 ^ w) = if sgn then (BitVec.ofNat w x).toInt else ((BitVec.ofNat w x).toNat : Int) := by
  rw [← intVal_toNat, BitVec.toNat_ofNat]

theorem intVal_of_lt (sgn : Bool) {w x : Nat} (h : x < 2 ^ w) : intVal sgn w x = if sgn then (BitVec.ofNat w x).toInt else (x : Int) := by
  rw [← Nat.mod_eq_of_lt h, intVal_mod, BitVec.toNat_ofNat, Nat.mod_eq_of_lt h]

theorem intVal_eq_zero_iff (sgn : Bool) {w x : Nat} (h : x < 2 ^ w) : intVal sgn w x = 0 ↔ x = 0 := by
  refine ⟨fun h0 => ?_, fun h0 => by simp [intVal, h0]⟩
  unfold intVal at h0
  split at h0 <;> omega

/-- The element of an exact value (R151). -/
theorem intOut_eq (sgn sat : Bool) (w : Nat) (x : Int) : intOut sgn sat w x =
    ((if sat then max (if sgn then -2 ^ (w - 1) else 0) (min (if sgn then 2 ^ (w - 1) - 1 else 2 ^ w - 1) x) else x) % 2 ^ w).toNat := by
  simp only [intOut, Int.natCast_pow, Int.cast_ofNat_Int]

theorem intOut_cast (sgn : Bool) (w : Nat) (x : Int) : (intOut sgn false w x : Int) = x % 2 ^ w := by
  rw [intOut_eq, if_neg Bool.false_ne_true, Int.toNat_of_nonneg (Int.emod_nonneg x (Int.ne_of_gt (Int.pow_pos (by decide))))]

/-- The element `n` is written for the value `n`, and for the negative value that agrees with it mod 2^w. -/
theorem intOut_eq_of_lt (sgn : Bool) {w n : Nat} {x : Int} (hn : n < 2 ^ w) (hx : x = n ∨ x = n - 2 ^ w) : intOut sgn false w x = n := by
  have hlt : (n : Int) < 2 ^ w := by exact_mod_cast hn
  rw [← Int.ofNat_inj, intOut_cast]
  obtain rfl | rfl := hx
  · exact Int.emod_eq_of_lt (Int.natCast_nonneg n) hlt
  · rw [Int.sub_emod_right, Int.emod_eq_of_lt (Int.natCast_nonneg n) hlt]

/-- Writing the number that an element stands for writes the element. -/
theorem intOut_intVal (sgn : Bool) {w x : Nat} (h : x < 2 ^ w) : intOut sgn false w (intVal sgn w x) = x := by
  refine intOut_eq_of_lt sgn h ?_
  unfold intVal
  split
  · exact .inr (by push_cast; rfl)
  · exact .inl rfl

/-! ## One element or two -/

/-- What a function of elements makes of operands that fit the type: of each half of a packed type, of the whole otherwise (R148). -/
theorem onInts_eq (t : IntTy) (g : Nat → Nat → Nat → Nat) {a b d : Nat} (ha : t.packed = false → a < 2 ^ t.width)
    (hb : t.packed = false → b < 2 ^ t.width) (hd : t.packed = false → d < 2 ^ t.width) :
    onInts t g a b d =
      if t.packed then
        g (a % 2 ^ t.width) (b % 2 ^ t.width) (d % 2 ^ t.width) +
          2 ^ 16 * g (a / 2 ^ 16 % 2 ^ t.width) (b / 2 ^ 16 % 2 ^ t.width) (d / 2 ^ 16 % 2 ^ t.width)
      else g (a % 2 ^ t.width) (b % 2 ^ t.width) (d % 2 ^ t.width) := by
  cases hp : t.packed with
  | false => simp only [onInts, hp, Nat.mod_eq_of_lt, ha, hb, hd, Bool.false_eq_true, if_false]
  | true =>
    have hw : t.width = 16 := by simpa [IntTy.packed] using hp
    simp only [onInts, hp, hw, if_true, Nat.reducePow]

/-! ## The exact values (R153, R156, R157) -/

theorem intExact_abs (w : Nat) (a b d : Int) : intExact .abs w a b d = (a.natAbs : Int) := by
  simp only [intExact]
  split <;> omega

theorem intExact_mulhi (w : Nat) (a b d : Int) : intExact .mulhi w a b d = a * b / 2 ^ w := by
  simp only [intExact, Int.natCast_pow, Int.cast_ofNat_Int]

/-- Settles O19: the model's `intVal` and `intOut` are the statement's numbers and results, and `intExact` its exact values. -/
theorem integerValues : Obligations.IntegerValues := by
  refine ⟨fun t sat a b d _ => ?_, fun t sat a b d => ?_⟩
  · intro w m ha hb hd val lo hi out elem
    have hval : val = fun x => intVal t.signed w (x % 2 ^ w) := funext fun x => (intVal_mod t.signed w x).symm
    have hout : out = fun sat x => intOut t.signed sat w x := funext fun sat => funext fun x => (intOut_eq t.signed sat w x).symm
    have fits (x : Nat) (hx : x < 2 ^ m) (hp : t.packed = false) : x < 2 ^ t.width := by simpa [m, hp] using hx
    have agrees (i : Form) (sat : Bool) (g : Int → Int → Int → Int) (hg : ∀ x y z, intExact i w x y z = g x y z)
        (hi : intElem i t sat a b d = onInts t (fun a b d =>
          intOut t.signed sat w (intExact i w (intVal t.signed w a) (intVal t.signed w b) (intVal t.signed w d))) a b d) :
        intElem i t sat a b d = elem sat g := by
      rw [hi, onInts_eq t _ (fits a ha) (fits b hb) (fits d hd)]
      simp only [elem, hval, hout, hg, w]
    -- each line below is then matched with its exact value by name
    clear_value elem
    exact ⟨agrees .add sat _ (fun _ _ _ => rfl) rfl, agrees .sub sat _ (fun _ _ _ => rfl) rfl, agrees .mul sat _ (fun _ _ _ => rfl) rfl,
      agrees .mulhi false _ (intExact_mulhi w) rfl, agrees .mad sat _ (fun _ _ _ => rfl) rfl, agrees .abs sat _ (intExact_abs w) rfl,
      agrees .neg sat _ (fun _ _ _ => rfl) rfl, agrees .min sat _ (fun _ _ _ => rfl) rfl, agrees .max sat _ (fun _ _ _ => rfl) rfl,
      agrees .clamp sat _ (fun _ _ _ => rfl) rfl⟩
  · intro s val out
    have hval : val = fun w x => intVal s w (x % 2 ^ w) := funext fun w => funext fun x => (intVal_mod s w x).symm
    have hout : out = fun w sat x => intOut s sat w x :=
      funext fun w => funext fun sat => funext fun x => (intOut_eq s sat w x).symm
    simp only [hval, hout]
    refine ⟨fun _ _ _ hd => ⟨rfl, ?_⟩, fun ht ha hb _ => ⟨?_, ?_⟩, fun ht _ _ _ => ?_⟩
    · simp only [intElem, Nat.mod_eq_of_lt hd, s]
    · have hp : t.packed = false := (by decide : ∀ t ∈ [IntTy.i32, .n32], t.packed = false) t ht
      simp only [intElem, hp, Bool.false_eq_true, if_false, Nat.mod_eq_of_lt ha, Nat.mod_eq_of_lt hb, s]
    · simp only [intElem, dpByte, Nat.mul_zero, Nat.pow_zero, Nat.div_one, Nat.reduceMul, Nat.reducePow, s]
    · have hp : t.packed = true := (by decide : ∀ t ∈ [IntTy.i16x2, .n16x2], t.packed = true) t ht
      simp only [intElem, hp, if_true, Nat.reducePow, Int.add_assoc, s]

/-! ## Division (R155) -/

section
variable {t : IntTy} (sat : Bool) (a b d : Nat)

theorem intElem_div (hp : t.packed = false) : intElem .div t sat a b d =
    intOut t.signed false t.width (intDivRem false t.signed t.width (intVal t.signed t.width a) (intVal t.signed t.width b)) := by
  simp only [intElem, onInts, hp, Bool.false_eq_true, if_false, intElem1]

theorem intElem_rem (hp : t.packed = false) : intElem .rem t sat a b d =
    intOut t.signed false t.width (intDivRem true t.signed t.width (intVal t.signed t.width a) (intVal t.signed t.width b)) := by
  simp only [intElem, onInts, hp, Bool.false_eq_true, if_false, intElem1]

end

theorem intDivRem_of_ne_zero (isRem sgn : Bool) (w : Nat) (x : Int) {y : Int} (hy : y ≠ 0) :
    intDivRem isRem sgn w x y = if isRem then x.tmod y else x.tdiv y := by
  simp [intDivRem, hy]

/-- A quotient by zero is the largest number of the type, or the smallest one where a signed dividend is negative. -/
theorem intDivRem_zero (sgn : Bool) (w : Nat) (x : Int) : intDivRem false sgn w x 0 =
    if sgn = false then 2 ^ w - 1 else if 0 ≤ x then 2 ^ (w - 1) - 1 else -2 ^ (w - 1) := by
  simp only [intDivRem, Int.natCast_pow, Int.cast_ofNat_Int]
  cases sgn <;> rfl

theorem two_pow_pred_cast (n : Nat) : ((2 ^ n - 1 : Nat) : Int) = 2 ^ n - 1 := by
  rw [Int.ofNat_sub Nat.one_le_two_pow, Int.natCast_pow]
  rfl

theorem intOut_div_zero (sgn : Bool) {w : Nat} (hw : 0 < w) (x : Int) : intOut sgn false w (intDivRem false sgn w x 0) =
    if sgn = false then 2 ^ w - 1 else if 0 ≤ x then 2 ^ (w - 1) - 1 else 2 ^ (w - 1) := by
  obtain ⟨v, rfl⟩ : ∃ v, w = v + 1 := ⟨w - 1, by omega⟩
  have h2 : 2 ^ (v + 1) = 2 ^ v * 2 := Nat.pow_succ ..
  have hi : (2 ^ (v + 1) : Int) = 2 ^ v * 2 := Int.pow_succ ..
  have hv : 0 < 2 ^ v := Nat.two_pow_pos v
  rw [intDivRem_zero, Nat.add_sub_cancel]
  by_cases hs : sgn = false
  · rw [if_pos hs, if_pos hs]
    exact intOut_eq_of_lt _ (by omega) (.inl (two_pow_pred_cast _).symm)
  · rw [if_neg hs, if_neg hs]
    by_cases hx : 0 ≤ x
    · rw [if_pos hx, if_pos hx]
      exact intOut_eq_of_lt _ (by omega) (.inl (two_pow_pred_cast _).symm)
    · rw [if_neg hx, if_neg hx]
      exact intOut_eq_of_lt _ (by omega) (.inr (by rw [Int.natCast_pow, Int.cast_ofNat_Int]; omega))

/-- Settles O20: a quotient and a remainder by a number that is not zero are those of the integers that truncate, and each exceptional case is one element. -/
theorem divisionValues : Obligations.DivisionValues := by
  intro t sat a b d ht w ha hb x y
  obtain ⟨hp, hw⟩ : t.packed = false ∧ 0 < w := (by decide : ∀ t ∈ [IntTy.i32, .n32, .i64, .n64], t.packed = false ∧ 0 < t.width) t ht
  have hx : intVal t.signed w a = x := intVal_of_lt t.signed ha
  have hy : intVal t.signed w b = y := intVal_of_lt t.signed hb
  have hy0 : y = 0 ↔ b = 0 := hy ▸ intVal_eq_zero_iff t.signed hb
  simp only [intElem_div _ _ _ _ hp, intElem_rem _ _ _ _ hp]
  rw [show t.width = w from rfl, hx, hy]
  refine ⟨fun hb0 _ => ?_, fun hb0 => ⟨?_, ?_⟩, fun hs hxm hym => ?_⟩
  · have hyne : y ≠ 0 := fun h => hb0 (hy0.mp h)
    simp only [intDivRem_of_ne_zero _ _ _ _ hyne, intOut_cast, if_true, Bool.false_eq_true, if_false, ← Int.tmod_def, and_self]
  · rw [hy0.mpr hb0, ← hx]
    exact intOut_intVal t.signed ha
  · rw [hy0.mpr hb0]
    exact intOut_div_zero t.signed hw x
  · have hlt : 2 ^ (w - 1) < 2 ^ w := Nat.pow_lt_pow_right (by omega) (by omega)
    simp only [hxm, hym, intDivRem_of_ne_zero _ _ _ _ (show (-1 : Int) ≠ 0 by decide), if_true, Bool.false_eq_true, if_false]
    refine ⟨intOut_eq_of_lt _ hlt (.inl ?_), intOut_eq_of_lt _ (Nat.two_pow_pos w) (.inl ?_)⟩
    · rw [Int.tdiv_neg, Int.tdiv_one, Int.neg_neg, Int.natCast_pow, Int.cast_ofNat_Int]
    · rw [Int.tmod_neg, Int.tmod_one, Int.cast_ofNat_Int]

end Sys2Proof
end

section
/-! PROOFS. The values of the bitwise, count and reorder instructions, of `lea` and of the compares (R159, R162, R163, R165). -/

namespace Sys2Proof

/-! ## Numbers made from bits and counts of bits -/

theorem fromBits_lt (p : Nat → Bool) (w : Nat) : fromBits p w < 2 ^ w := by
  induction w with
  | zero => exact Nat.one_pos
  | succ w ih =>
    rw [fromBits, Nat.pow_succ]
    split <;> omega

theorem fromBits_testBit (p : Nat → Bool) (w k : Nat) : (fromBits p w).testBit k = (decide (k < w) && p k) := by
  induction w with
  | zero => simp [fromBits]
  | succ w ih =>
    have hlt := fromBits_lt p w
    obtain hk | rfl | hk := Nat.lt_trichotomy k w
    · rw [fromBits, Nat.add_comm]
      split
      · rw [Nat.testBit_two_pow_add_gt hk, ih]
        simp [hk, Nat.lt_succ_of_lt hk]
      · rw [Nat.zero_add, ih]
        simp [hk, Nat.lt_succ_of_lt hk]
    · rw [fromBits, Nat.add_comm]
      split
      · next hp => simp [Nat.testBit_two_pow_add_eq, Nat.testBit_lt_two_pow hlt, hp]
      · next hp => simp [Nat.testBit_lt_two_pow hlt, hp]
    · have hbig : fromBits p (w + 1) < 2 ^ k := Nat.lt_of_lt_of_le (fromBits_lt p (w + 1)) (Nat.pow_le_pow_right (by decide) hk)
      rw [Nat.testBit_lt_two_pow hbig, decide_eq_false (by omega), Bool.false_and]

theorem countBits_eq_length (p : Nat → Bool) (w : Nat) : countBits p w = ((List.range w).filter p).length := by
  induction w with
  | zero => rfl
  | succ w ih =>
    rw [countBits, ih, List.range_succ, List.filter_append, List.length_append]
    cases hp : p w <;> simp [hp]

/-- The count of a property that holds below `c` alone. -/
theorem countBits_of_lt_iff {p : Nat → Bool} {c : Nat} (h : ∀ k, p k = true ↔ k < c) (w : Nat) : countBits p w = min w c := by
  induction w with
  | zero => simp [countBits]
  | succ w ih =>
    rw [countBits, ih]
    simp only [h]
    split <;> omega

/-- A number is divisible by 2^n where its low `n` bits are 0. -/
theorem mod_two_pow_eq_zero_iff (a n : Nat) : a % 2 ^ n = 0 ↔ ∀ j, j < n → a.testBit j = false := by
  refine ⟨fun h j hj => ?_, fun h => Nat.eq_of_testBit_eq fun j => ?_⟩
  · have hbit : (a % 2 ^ n).testBit j = false := by rw [h, Nat.zero_testBit]
    simpa [Nat.testBit_mod_two_pow, hj] using hbit
  · rw [Nat.testBit_mod_two_pow, Nat.zero_testBit]
    by_cases hj : j < n <;> simp [hj, h j]

/-- A number that is not zero has a lowest set bit. -/
theorem exists_lowest_bit {a : Nat} (ha : a ≠ 0) : ∃ c, a.testBit c = true ∧ ∀ j, j < c → a.testBit j = false := by
  obtain ⟨i, hi⟩ := Nat.exists_testBit_of_ne_zero ha
  induction i using Nat.strongRecOn with
  | _ i ih =>
    by_cases h : ∃ j, j < i ∧ a.testBit j = true
    · obtain ⟨j, hj, hbit⟩ := h
      exact ih j hj hbit
    · exact ⟨i, hi, fun j hj => Bool.eq_false_iff.mpr fun hbit => h ⟨j, hj, hbit⟩⟩

/-! ## Bitwise instructions (R159) -/

section
variable (t : IntTy) (o lut : Nat) {a b d : Nat}

theorem logicElem_not_testBit (ha : a < 2 ^ t.width) {k : Nat} (hk : k < t.width) :
    (logicElem .not t o lut a b d).testBit k = !a.testBit k := by
  show (2 ^ t.width - 1 - a).testBit k = _
  rw [Nat.sub_sub, Nat.add_comm 1 a, Nat.testBit_two_pow_sub_succ ha, decide_eq_true hk, Bool.true_and]

theorem logicElem_lop3_testBit {k : Nat} (hk : k < t.width) : (logicElem .lop3 t o lut a b d).testBit k =
    lut.testBit (4 * (if d.testBit k then 1 else 0) + 2 * (if b.testBit k then 1 else 0) + (if a.testBit k then 1 else 0)) := by
  show (fromBits (lopBit lut a b d) t.width).testBit k = _
  rw [fromBits_testBit, decide_eq_true hk, Bool.true_and, lopBit]
  simp only [Bool.toNat, Bool.cond_eq_ite]

/-! ## Counts and reordering (R162) -/

/-- The lowest set bit of an element stands at the count of its `ctz`. -/
theorem logicElem_ctz {c : Nat} (ha : a < 2 ^ t.width) (hc : a.testBit c = true) (hlow : ∀ j, j < c → a.testBit j = false) :
    c < t.width ∧ logicElem .ctz t o lut a b d = c := by
  have ha0 : a ≠ 0 := by rintro rfl; simp at hc
  have hcw : c < t.width := (Nat.pow_lt_pow_iff_right (by decide)).mp (Nat.lt_of_le_of_lt (Nat.ge_two_pow_of_testBit hc) ha)
  have hzeros (k : Nat) : (a % 2 ^ (k + 1) == 0) = true ↔ k < c := by
    rw [beq_iff_eq, mod_two_pow_eq_zero_iff]
    refine ⟨fun h => Nat.lt_of_not_le fun hck => ?_, fun hk j hj => hlow j (by omega)⟩
    exact absurd hc (by simp [h c (by omega)])
  refine ⟨hcw, ?_⟩
  show (if a == 0 then t.width else countBits (fun k => a % 2 ^ (k + 1) == 0) t.width) = c
  rw [if_neg (by simpa using ha0), countBits_of_lt_iff hzeros, Nat.min_eq_right (Nat.le_of_lt hcw)]

/-- The highest set bit of an element stands at the place that its `clz` names. -/
theorem logicElem_clz (ha : a < 2 ^ t.width) (ha0 : a ≠ 0) :
    logicElem .clz t o lut a b d < t.width ∧ t.width - 1 - logicElem .clz t o lut a b d = a.log2 := by
  have hlog : a.log2 < t.width := (Nat.log2_lt ha0).mpr ha
  have hv : logicElem .clz t o lut a b d = t.width - 1 - a.log2 := if_neg (by simpa using ha0)
  omega

theorem testBit_of_log2_lt {k : Nat} (hk : a.log2 < k) : a.testBit k = false :=
  Nat.testBit_lt_two_pow (Nat.lt_of_lt_of_le Nat.lt_log2_self (Nat.pow_le_pow_right (by decide) hk))

theorem logicElem_brev_testBit {k : Nat} (hk : k < t.width) : (logicElem .brev t o lut a b d).testBit k = a.testBit (t.width - 1 - k) := by
  show (fromBits (fun k => a.testBit (t.width - 1 - k)) t.width).testBit k = _
  rw [fromBits_testBit, decide_eq_true hk, Bool.true_and]

theorem bpermByte_eq (a b i : Nat) :
    let s := b / 2 ^ (4 * i) % 16
    let byte := a / 2 ^ (8 * (s % 4)) % 256
    bpermByte a b i = if s / 4 = 0 then byte else if s / 4 = 2 then (if byte.testBit 7 then 0xFF else 0) else 0 := by
  intro s byte
  have hsign : byte.testBit 7 = true ↔ 128 ≤ byte := by
    have hlt : byte < 256 := Nat.mod_lt _ (by decide)
    rw [Nat.testBit_eq_decide_div_mod_eq, decide_eq_true_iff]
    omega
  simp only [hsign]
  show (match s / 4 with | 0 => byte | 2 => if 128 ≤ byte then 255 else 0 | _ => 0) = _
  split
  · next h => rw [if_pos h]
  · next h => rw [h]; rfl
  · next h0 h2 => rw [if_neg h0, if_neg h2]

theorem bpermByte_lt (a b i : Nat) : bpermByte a b i < 256 := by
  rw [bpermByte_eq]
  split
  · exact Nat.mod_lt _ (by decide)
  · split
    · split <;> decide
    · decide

theorem logicElem_bperm_byte {k : Nat} (hk : k < 4) : logicElem .bperm t o lut a b d / 2 ^ (8 * k) % 256 = bpermByte a b k := by
  show (bpermByte a b 0 + 2 ^ 8 * bpermByte a b 1 + 2 ^ 16 * bpermByte a b 2 + 2 ^ 24 * bpermByte a b 3) / 2 ^ (8 * k) % 256 = _
  have h0 := bpermByte_lt a b 0
  have h1 := bpermByte_lt a b 1
  have h2 := bpermByte_lt a b 2
  have h3 := bpermByte_lt a b 3
  obtain rfl | rfl | rfl | rfl : k = 0 ∨ k = 1 ∨ k = 2 ∨ k = 3 := by omega
  all_goals omega

end

/-! ## lea (R163) -/

/-- The index that `lea` reads. -/
def leaIndex (t : IntTy) (b : Nat) : Int :=
  match t with
  | .b64 => b
  | .i64 => intVal true 32 (b % 2 ^ 32)
  | _ => (b % 2 ^ 32 : Nat)

theorem logicElem_lea (t : IntTy) (lut a b d : Nat) : ∀ o ∈ [(0, 1), (1, 4), (2, 8), (3, 16)],
    logicElem .lea t o.1 lut a b d = ((a + leaIndex t b * (o.2 : Nat)) % (2 ^ 64 : Nat) : Int).toNat := by
  intro o ho
  simp only [List.mem_cons, List.not_mem_nil, or_false] at ho
  obtain rfl | rfl | rfl | rfl := ho <;> cases t <;> rfl

theorem leaIndex_extends {t : IntTy} (ht : t ∈ [IntTy.i64, .n64, .b64]) (b : BitVec 64) : BitVec.ofInt 64 (leaIndex t b.toNat) =
    if t = .b64 then b else if t = .i64 then (b.setWidth 32).signExtend 64 else (b.setWidth 32).setWidth 64 := by
  simp only [List.mem_cons, List.not_mem_nil, or_false] at ht
  obtain rfl | rfl | rfl := ht
  · show BitVec.ofInt 64 (intVal true 32 (b.toNat % 2 ^ 32)) = (b.setWidth 32).signExtend 64
    rw [← BitVec.toNat_setWidth, intVal_toNat, if_pos rfl, BitVec.signExtend]
  · show BitVec.ofInt 64 (b.toNat % 2 ^ 32 : Nat) = (b.setWidth 32).setWidth 64
    rw [← BitVec.toNat_setWidth, BitVec.ofInt_natCast, BitVec.ofNat_toNat]
  · show BitVec.ofInt 64 b.toNat = b
    rw [BitVec.ofInt_natCast, BitVec.ofNat_toNat, BitVec.setWidth_eq]

theorem toNat_add_ofInt_mul (a : BitVec 64) (e : Int) (k : Nat) :
    (a + BitVec.ofInt 64 e * BitVec.ofNat 64 k).toNat = ((a.toNat + e * k) % (2 ^ 64 : Nat) : Int).toNat := by
  rw [← BitVec.toNat_ofInt, BitVec.ofInt_add, BitVec.ofInt_mul, BitVec.ofInt_natCast, BitVec.ofInt_natCast, BitVec.ofNat_toNat, BitVec.setWidth_eq]

/-! ## icmp (R165) -/

section
variable (sgn : Bool) {w : Nat} (a b : BitVec w)

theorem intVal_eq_iff : intVal sgn w a.toNat = intVal sgn w b.toNat ↔ a = b := by
  simp only [intVal_toNat]
  cases sgn with
  | false => exact Int.ofNat_inj.trans BitVec.toNat_inj
  | true => exact BitVec.toInt_inj

theorem icmpTest_eq : icmpTest sgn w 0 a.toNat b.toNat = decide (a = b) := by
  rw [Bool.eq_iff_iff, decide_eq_true_iff, ← intVal_eq_iff sgn]
  exact beq_iff_eq

theorem icmpTest_ne : icmpTest sgn w 1 a.toNat b.toNat = decide (a ≠ b) := by
  rw [Bool.eq_iff_iff, decide_eq_true_iff, ne_eq, ← intVal_eq_iff sgn]
  exact bne_iff_ne

theorem icmpTest_lt : icmpTest sgn w 2 a.toNat b.toNat = if sgn then a.slt b else a.ult b := by
  cases sgn <;> simp [icmpTest, intVal_toNat, BitVec.slt, BitVec.ult]

theorem icmpTest_le : icmpTest sgn w 3 a.toNat b.toNat = if sgn then a.sle b else a.ule b := by
  cases sgn <;> simp [icmpTest, intVal_toNat, BitVec.sle, BitVec.ule]

/-- The other two orders compare the operands the other way round. -/
theorem icmpTest_gt (x y : Nat) : icmpTest sgn w 4 x y = icmpTest sgn w 2 y x := rfl

theorem icmpTest_ge (x y : Nat) : icmpTest sgn w 5 x y = icmpTest sgn w 3 y x := rfl

end

/-- Settles O22: bit by bit, and each count, `lea` and each condition by its own rule. -/
theorem logicValues : Obligations.LogicValues := by
  refine ⟨fun t o lut a b d _ => ?_, fun t o lut a b d _ => ?_, fun t lut d a b ht => ?_, fun w _ a b k => ?_⟩
  · intro w ha hb hd bits
    refine ⟨⟨Nat.and_lt_two_pow a hb, fun k _ => Nat.testBit_and a b k⟩, ⟨Nat.or_lt_two_pow ha hb, fun k _ => Nat.testBit_or a b k⟩,
      ⟨Nat.xor_lt_two_pow ha hb, fun k _ => ?_⟩, ⟨?_, fun k hk => logicElem_not_testBit t o lut ha hk⟩,
      ⟨fromBits_lt _ _, fun k hk => logicElem_lop3_testBit t o lut hk⟩⟩
    · exact (Nat.testBit_xor a b k).trans (by simp)
    · show 2 ^ t.width - 1 - a < 2 ^ t.width
      have := Nat.two_pow_pos t.width
      omega
  · intro w ha v
    refine ⟨countBits_eq_length _ _, fun h0 => ⟨if_pos (by simp [h0]), if_pos (by simp [h0])⟩, fun h0 => ?_,
      fun k hk => logicElem_brev_testBit t o lut hk, fun _ k hk => ?_⟩
    · obtain ⟨hclz, htop⟩ := logicElem_clz t o lut (b := b) (d := d) ha h0
      obtain ⟨c, hc, hlow⟩ := exists_lowest_bit h0
      obtain ⟨hcw, hctz⟩ := logicElem_ctz t o lut (b := b) (d := d) ha hc hlow
      refine ⟨hclz, ?_⟩
      rw [show w - 1 - v .clz = a.log2 from htop, show v .ctz = c from hctz]
      exact ⟨Nat.testBit_log2 h0, fun k => testBit_of_log2_lt, hcw, hc, hlow⟩
    · exact (logicElem_bperm_byte t o lut hk).trans (bpermByte_eq a b k)
  · intro ext o ho
    rw [logicElem_lea t lut a.toNat b.toNat d o ho, ← toNat_add_ofInt_mul, leaIndex_extends ht]
  · intro u s
    refine ⟨?_, ?_, ?_, ?_, ?_, ?_⟩ <;> rintro rfl
    · exact ⟨icmpTest_eq false a b, icmpTest_eq true a b⟩
    · exact ⟨icmpTest_ne false a b, icmpTest_ne true a b⟩
    · exact ⟨icmpTest_lt false a b, icmpTest_lt true a b⟩
    · exact ⟨icmpTest_le false a b, icmpTest_le true a b⟩
    · exact ⟨icmpTest_lt false b a, icmpTest_lt true b a⟩
    · exact ⟨icmpTest_le false b a, icmpTest_le true b a⟩

end Sys2Proof
end

section
/-! PROOFS. The values of the shifts (R160). -/

namespace Sys2Proof

/-! ## Rotations -/

/-- The two parts of a rotation do not overlap. -/
theorem rotl_eq_or {w a j : Nat} (ha : a < 2 ^ w) (hj : j ≤ w) : rotl w a j = a <<< j % 2 ^ w ||| a >>> (w - j) := by
  have hw : 2 ^ w = 2 ^ (w - j) * 2 ^ j := by rw [← Nat.pow_add, Nat.sub_add_cancel hj]
  have hlow : a / 2 ^ (w - j) < 2 ^ j := Nat.div_lt_of_lt_mul (hw ▸ ha)
  have hhigh : a * 2 ^ j % 2 ^ w = 2 ^ j * (a % 2 ^ (w - j)) := by rw [hw, Nat.mul_mod_mul_right, Nat.mul_comm]
  rw [rotl, Nat.shiftLeft_eq, Nat.shiftRight_eq_div_pow, hhigh, Nat.two_pow_add_eq_or_of_lt hlow]

/-- A rotation by the whole width is none. -/
theorem rotl_mod {w a j : Nat} (ha : a < 2 ^ w) (hj : j ≤ w) : rotl w a (j % w) = rotl w a j := by
  obtain hlt | rfl := Nat.lt_or_eq_of_le hj
  · rw [Nat.mod_eq_of_lt hlt]
  · simp [rotl, Nat.mod_eq_of_lt ha, Nat.div_eq_of_lt ha]

theorem rotl_toNat {w : Nat} (a : BitVec w) {k : Nat} (hk : k < w) : rotl w a.toNat k = (a.rotateLeft k).toNat := by
  rw [rotl_eq_or a.isLt (Nat.le_of_lt hk), BitVec.toNat_rotateLeft, Nat.mod_eq_of_lt hk]

theorem rotl_sub_toNat {w : Nat} (a : BitVec w) {k : Nat} (hk : k < w) : rotl w a.toNat ((w - k) % w) = (a.rotateRight k).toNat := by
  rw [rotl_mod a.isLt (Nat.sub_le w k), rotl_eq_or a.isLt (Nat.sub_le w k), BitVec.toNat_rotateRight, Nat.mod_eq_of_lt hk,
    Nat.sub_sub_self (Nat.le_of_lt hk), Nat.or_comm]

/-! ## The value of each shift, where its amount is below the width and where it is not -/

section
variable (t : IntTy) (o lut b d : Nat) (a x : BitVec t.width)

/-- The amount of a shift (R160). -/
def shiftAmount (w o b : Nat) : Nat := if o % 2 == 1 then b % 2 ^ 32 % w else b % 2 ^ 32

theorem logicElem_shl : logicElem .shl t o lut a.toNat b d = (a <<< shiftAmount t.width o b).toNat := by
  show (if shiftAmount t.width o b < t.width then a.toNat * 2 ^ shiftAmount t.width o b % 2 ^ t.width else 0) = _
  split
  · rw [BitVec.toNat_shiftLeft, Nat.shiftLeft_eq]
  · next h => rw [BitVec.shiftLeft_eq_zero (Nat.le_of_not_lt h), BitVec.toNat_zero]

theorem logicElem_shr : logicElem .shr t o lut a.toNat b d = (a >>> shiftAmount t.width o b).toNat := by
  show (if shiftAmount t.width o b < t.width then a.toNat / 2 ^ shiftAmount t.width o b else 0) = _
  split
  · rw [BitVec.toNat_ushiftRight, Nat.shiftRight_eq_div_pow]
  · next h => rw [BitVec.ushiftRight_eq_zero (Nat.le_of_not_lt h), BitVec.toNat_zero]

theorem logicElem_sar : logicElem .sar t o lut a.toNat b d = (a.sshiftRight (shiftAmount t.width o b)).toNat := by
  show (if shiftAmount t.width o b < t.width then
      intOut true false t.width (intVal true t.width a.toNat / (2 ^ shiftAmount t.width o b : Nat))
    else if a.toNat.testBit (t.width - 1) then 2 ^ t.width - 1 else 0) = _
  split
  · rw [intVal_toNat, if_pos rfl, ← Int.shiftRight_eq_div_pow, BitVec.sshiftRight, BitVec.toNat_ofInt, intOut_eq]
    norm_cast
  · next h =>
    have small {y : Nat} (hy : y < 2 ^ t.width) : y >>> shiftAmount t.width o b = 0 :=
      Nat.shiftRight_eq_zero _ _ (Nat.lt_of_lt_of_le hy (Nat.pow_le_pow_right (by decide) (Nat.le_of_not_lt h)))
    rw [BitVec.toNat_sshiftRight, small a.isLt, small (by have := Nat.two_pow_pos t.width; omega), Nat.sub_zero,
      BitVec.msb_eq_getLsbD_last, BitVec.getLsbD]

theorem logicElem_rot (hw : 0 < t.width) : logicElem .rot t o lut a.toNat b d =
    (if o % 2 == 1 then a.rotateRight (b % 2 ^ 32 % t.width) else a.rotateLeft (b % 2 ^ 32 % t.width)).toNat := by
  have hk : b % 2 ^ 32 % t.width < t.width := Nat.mod_lt _ hw
  simp only [logicElem]
  split
  · exact rotl_sub_toNat a hk
  · exact rotl_toNat a hk

theorem logicElem_fsh : logicElem .fsh t o lut a.toNat x.toNat d =
    (if o % 2 == 1 then ((a ++ x) >>> (d % 2 ^ 32 % t.width)).extractLsb' 0 t.width
      else ((a ++ x) <<< (d % 2 ^ 32 % t.width)).extractLsb' t.width t.width).toNat := by
  have hax : (a ++ x).toNat = a.toNat * 2 ^ t.width + x.toNat := by
    rw [BitVec.toNat_append, ← Nat.shiftLeft_add_eq_or_of_lt x.isLt, Nat.shiftLeft_eq]
  simp only [logicElem]
  split
  · rw [BitVec.extractLsb'_toNat, BitVec.toNat_ushiftRight, hax, Nat.shiftRight_zero, Nat.shiftRight_eq_div_pow]
  · rw [BitVec.extractLsb'_toNat, BitVec.toNat_shiftLeft, hax, Nat.shiftLeft_eq, Nat.shiftRight_eq_div_pow, Nat.pow_add,
      Nat.mod_mul_right_div_self, Nat.mod_mod]

end

/-- Settles O23: each shift by its own rule. -/
theorem shiftValues : Obligations.ShiftValues := by
  intro t o lut b d ht a x
  have hw : 0 < t.width := (by decide : ∀ t ∈ [IntTy.b32, .b64], 0 < t.width) t ht
  exact ⟨logicElem_shl t o lut b d a, logicElem_shr t o lut b d a, logicElem_sar t o lut b d a, logicElem_rot t o lut b d a hw,
    logicElem_fsh t o lut d a x⟩

end Sys2Proof
end

section
/-! PROOFS. The encoder and the decoder (R31 to R56). -/

namespace Sys2Proof

/-! ## The forms of one slot -/

/-- The forms that share a form's slot of the opcode map, in its order (R111, R211, R386, R402). -/
def Form.slotmates : Form → List Form
  | .regacq | .regacqTry => [.regacq, .regacqTry]
  | .spgrow | .spgrowTry => [.spgrow, .spgrowTry]
  | .replay | .replayAll => [.replay, .replayAll]
  | .tlbiAll | .tlbiCtx | .tlbiPage => [.tlbiAll, .tlbiCtx, .tlbiPage]
  | .copClean | .copFlush | .copDemote | .copZero => [.copClean, .copFlush, .copDemote, .copZero]
  | i => [i]

theorem Form.mem_all (i : Form) : i ∈ Form.all := by
  cases i <;> decide +kernel

theorem Form.filter_opc_all (i : Form) : Form.all.filter (fun j => j.opc == i.opc) = i.slotmates :=
  (by decide +kernel : ∀ i ∈ Form.all, Form.all.filter (fun j => j.opc == i.opc) = i.slotmates) i i.mem_all

theorem Form.group_lt (i : Form) : i.opc.extractLsb' 6 4 ≠ 15 :=
  (by decide +kernel : ∀ i ∈ Form.all, i.opc.extractLsb' 6 4 ≠ 15) i i.mem_all

theorem Form.find_slotmates {i : Form} {r : Raw} (h : i.picks r = true) : i.slotmates.find? (·.picks r) = some i := by
  unfold slotmates
  split <;> simp_all [picks]

theorem Form.ofRaw_of_picks {i : Form} {r : Raw} (ho : r.opc = i.opc) (hp : i.picks r = true) : Form.ofRaw r = some i := by
  rw [← Form.find_slotmates hp, ← Form.filter_opc_all, List.find?_filter, Form.ofRaw]
  congr 1
  funext j
  rw [ho, Bool.decide_and, Bool.decide_eq_true, Bool.decide_eq_true]

theorem Form.opc_picks_of_ofRaw {i : Form} {r : Raw} (h : Form.ofRaw r = some i) : i.opc = r.opc ∧ i.picks r = true := by
  have := List.find?_some h
  simpa using this

/-! ## Bit fields -/

/-- Neighbouring bit fields of a word stand together for the field of their bits. -/
theorem extract_append_extract {w : Nat} (x : BitVec w) {a b m n : Nat} (h : a = b + n) :
    x.extractLsb' a m ++ x.extractLsb' b n = x.extractLsb' b (m + n) := by
  subst h
  ext i hi
  simp only [BitVec.getElem_append, BitVec.getElem_extractLsb']
  split
  · rfl
  · congr 1; omega

theorem extract_all {w : Nat} (x : BitVec w) : x.extractLsb' 0 w = x := by
  simp

theorem extract_of_append_low {v w : Nat} (x : BitVec v) (y : BitVec w) {a n : Nat} (h : a + n ≤ w) : (x ++ y).extractLsb' a n = y.extractLsb' a n := by
  ext i hi
  simp only [BitVec.getElem_extractLsb', BitVec.getLsbD_append, if_pos (show a + i < w by omega)]

theorem extract_of_append_high {v w : Nat} (x : BitVec v) (y : BitVec w) {a n : Nat} (h : w ≤ a) : (x ++ y).extractLsb' a n = x.extractLsb' (a - w) n := by
  ext i hi
  simp only [BitVec.getElem_extractLsb', BitVec.getLsbD_append, if_neg (show ¬ a + i < w by omega)]
  congr 1; omega

theorem Raw.ofWord_toWord (r : Raw) : Raw.ofWord r.toWord = r := by
  cases r
  simp (disch := omega) only [Raw.ofWord, Raw.toWord, extract_of_append_low, extract_of_append_high, Nat.reduceSub, extract_all]

theorem Raw.toWord_ofWord (w : InstrWord) : (Raw.ofWord w).toWord = w := by
  simp (disch := omega) only [Raw.ofWord, Raw.toWord, extract_append_extract]
  exact extract_all w

/-! ## Operands -/

theorem extract_extract {w : Nat} (x : BitVec w) {a b m n : Nat} (h : b + n ≤ m) : (x.extractLsb' a m).extractLsb' b n = x.extractLsb' (a + b) n := by
  ext i hi
  simp only [BitVec.getElem_extractLsb', BitVec.getLsbD_extractLsb', decide_eq_true (show b + i < m by omega), Bool.true_and, Nat.add_assoc]

/-- Bits 15:13 of an operand field of a kind (R39). -/
def Kind.code : Kind → BitVec 3
  | .vec => 0#3 | .scalar => 1#3 | .pred => 2#3 | .special => 3#3 | .imm => 4#3 | .tile | .tileC => 5#3 | .memV | .memS => 6#3 | .illegal => 7#3

theorem extract_kind (x : BitVec 16) : x.extractLsb' 13 3 = (kindOf x).code := by
  have hlt := (x.extractLsb' 13 3).isLt
  apply BitVec.eq_of_toNat_eq
  unfold kindOf
  split
  case h_6 h => rw [h]; split <;> rfl
  case h_7 h => rw [h]; split <;> rfl
  case h_8 h0 h1 h2 h3 h4 h5 h6 => show _ = 7; simp only [imp_false] at *; omega
  all_goals next h => exact h

theorem extract_one (x : BitVec 16) (n : Nat) : x.extractLsb' n 1 = BitVec.ofBool (x.getLsbD n) := by
  ext i hi
  have : i = 0 := by omega
  subst this
  simp [BitVec.getElem_extractLsb']

theorem bit12_of_tile {x : BitVec 16} (h : kindOf x = .tile) : x.getLsbD 12 = false := by
  unfold kindOf at h
  split at h <;> (try split at h) <;> simp_all

theorem bit12_of_tileC {x : BitVec 16} (h : kindOf x = .tileC) : x.getLsbD 12 = true := by
  unfold kindOf at h
  split at h <;> (try split at h) <;> simp_all

theorem bit8_of_mem {x : BitVec 16} (h : kindOf x = .memV ∨ kindOf x = .memS) : x.getLsbD 8 = (kindOf x == .memS) := by
  unfold kindOf at *
  split at h <;> (try split at h) <;> simp_all

/-- A legal operand field is the field of the operand that it holds. -/
theorem field_operandOf {x : BitVec 16} (h : reservedOk x = true) : (operandOf x).field = x := by
  have top := extract_kind x
  have whole := extract_all x
  unfold reservedOk at h
  unfold operandOf
  cases hk : kindOf x <;> simp only [hk, Kind.code, beq_iff_eq, Bool.and_eq_true, BitVec.ofNat_eq_ofNat] at h top <;> simp only [Operand.field, ← top]
  case illegal => exact absurd h (by decide)
  case special => rw [← h.1]; simpa (disch := omega) only [extract_append_extract]
  case tileC => 
    have h12 : x.extractLsb' 12 1 = 1#1 := by rw [extract_one, bit12_of_tileC hk]; rfl
    rw [← h.1, ← h.2, ← h12]; simpa (disch := omega) only [extract_append_extract]
  case memV => 
    rw [show false = x.getLsbD 8 by rw [bit8_of_mem (.inl hk), hk]; rfl, ← extract_one]; simpa (disch := omega) only [extract_append_extract]
  case memS => 
    rw [show true = x.getLsbD 8 by rw [bit8_of_mem (.inr hk), hk]; rfl, ← extract_one]; simpa (disch := omega) only [extract_append_extract]
  case imm => simpa (disch := omega) only [extract_append_extract]
  case tile =>
    have h12 : x.extractLsb' 12 1 ++ x.extractLsb' 5 7 = 0#8 := by rw [extract_one, bit12_of_tile hk, h]; rfl
    rw [← h12]; simpa (disch := omega) only [extract_append_extract]
  all_goals rw [← h]; simpa (disch := omega) only [extract_append_extract]

/-- The constructors that hold an operand of R39. -/
def Operand.plain : Operand → Bool
  | .none | .bits _ | .lutVec _ _ | .lutScalar _ _ => false
  | _ => true

theorem kindOf_field (o : Operand) : kindOf o.field = match o with
    | .none | .vec _ | .lutVec _ _ => .vec
    | .scalar _ | .lutScalar _ _ => .scalar
    | .pred _ => .pred | .special _ => .special | .imm _ => .imm | .tile _ => .tile | .tileC _ _ => .tileC
    | .mem s _ _ => if s then .memS else .memV
    | .bits v => kindOf v := by
  cases o
  case bits => rfl
  case none => rfl
  case mem s _ _ =>
    cases s <;>
    simp (disch := omega) only [kindOf, Operand.field, extract_of_append_high, BitVec.getLsbD_append, Nat.reduceSub, extract_all] <;> rfl
  all_goals
    simp (disch := omega) only [kindOf, Operand.field, extract_of_append_high, BitVec.getLsbD_append, Nat.reduceSub, extract_all]
    rfl

theorem operandOf_field {o : Operand} (h : o.plain = true) : operandOf o.field = o := by
  unfold operandOf
  rw [kindOf_field]
  cases o
  all_goals simp only [Operand.plain, Bool.false_eq_true] at h
  case mem s _ _ =>
    cases s <;>
    simp (disch := omega) only [Operand.field, extract_of_append_low, extract_of_append_high, Nat.reduceSub, extract_all] <;> rfl
  all_goals simp (disch := omega) only [Operand.field, extract_of_append_low, extract_of_append_high, Nat.reduceSub, extract_all]

/-! ## Operands in their roles -/

theorem kindOf_lutMask (x : BitVec 16) (h : kindOf x = .scalar) : kindOf (x &&& 0xE0FF) = .scalar := by
  have hx : x.extractLsb' 13 3 = 1#3 := by rw [extract_kind, h]; rfl
  have : (x &&& 0xE0FF).extractLsb' 13 3 = 1#3 := by rw [BitVec.extractLsb'_and, hx]; rfl
  simp only [kindOf, this]
  rfl

/-- The B of `lop3`, whose bits 12:8 are LUT[4:0] (R44). -/
theorem field_lut {o : OperandSpec} {x : BitVec 16} (ho : o.role = .lut) (hk : kindOf x = .vec ∨ kindOf x = .scalar)
    (h : reservedOk (x &&& 0xE0FF) = true) : (o.read x).field = x := by
  have top := extract_kind x
  have whole := extract_all x
  simp only [OperandSpec.read, ho]
  rcases hk with hk | hk <;> rw [hk, Kind.code] at top <;> simp only [hk]
  · simp only [BEq.rfl, if_true, Operand.field, ← top]
    simpa (disch := omega) only [extract_append_extract]
  · have h67 : x.extractLsb' 6 2 = 0#2 := by
      simp only [reservedOk, kindOf_lutMask x hk, beq_iff_eq] at h
      have := congrArg (·.extractLsb' 0 2) h
      simpa (disch := omega) only [extract_extract, BitVec.extractLsb'_and, BitVec.ofNat_eq_ofNat, Nat.reduceAdd,
        show (0xE0FF#16).extractLsb' 6 2 = BitVec.allOnes 2 from rfl, BitVec.and_allOnes, BitVec.extractLsb'_zero] using this
    show (Operand.lutScalar _ _).field = x
    simp only [Operand.field, ← top, ← h67]
    simpa (disch := omega) only [extract_append_extract]

theorem role_of_shape_plain {o : OperandSpec} {y : Operand} (hy : y.plain = true) (h : o.shape y = true) :
    o.role = .operand ∨ o.role = .optional ∧ y.field ≠ 0 := by
  cases y <;> simp_all [Operand.plain, OperandSpec.shape]

theorem shape_of_plain {o : OperandSpec} {y : Operand} (hy : y.plain = true) (h : o.role = .operand ∨ o.role = .optional ∧ y.field ≠ 0) :
    o.shape y = true := by
  cases y <;> simp_all [Operand.plain, OperandSpec.shape]

/-- Reading the field of an operand of the shape that the role asks for gives the operand. -/
theorem read_field {o : OperandSpec} {y : Operand} (h : o.shape y = true) : o.read y.field = y := by
  cases hy : y.plain with
  | true =>
    obtain hr | ⟨hr, hne⟩ := role_of_shape_plain hy h
    · simp only [OperandSpec.read, hr, operandOf_field hy]
    · simp only [OperandSpec.read, hr, beq_eq_false_iff_ne.mpr hne, Bool.false_eq_true, if_false, operandOf_field hy]
  | false =>
    cases y <;> simp only [Operand.plain, Bool.true_eq_false] at hy <;> simp only [OperandSpec.shape, beq_iff_eq, Bool.or_eq_true] at h
    case none => obtain hr | hr := h <;> simp only [OperandSpec.read, hr] <;> rfl
    case bits => simp only [OperandSpec.read, h]; rfl
    case lutVec n lut =>
      simp only [OperandSpec.read, h, kindOf_field]
      show Operand.lutVec _ _ = _
      simp (disch := omega) only [Operand.field, extract_of_append_low, extract_of_append_high, Nat.reduceSub, extract_all]
    case lutScalar n lut =>
      simp only [OperandSpec.read, h, kindOf_field]
      show Operand.lutScalar _ _ = _
      simp (disch := omega) only [Operand.field, extract_of_append_low, extract_of_append_high, Nat.reduceSub, extract_all]

theorem operandOf_plain {x : BitVec 16} (h : reservedOk x = true) : (operandOf x).plain = true := by
  unfold operandOf reservedOk at *
  cases hk : kindOf x <;> simp_all [Operand.plain]

/-- A field that its demand accepts is the field of the operand read from it, which has the shape that its role asks for. -/
theorem field_read {o : OperandSpec} {x : BitVec 16} (hl : o.role = .lut → o.kinds = vsKinds) (h : o.ok x = true) :
    (o.read x).field = x ∧ o.shape (o.read x) = true := by
  cases hr : o.role <;> simp only [OperandSpec.ok, hr, beq_iff_eq, Bool.or_eq_true, Bool.and_eq_true] at h
  case unused => subst h; simp [OperandSpec.read, hr, Operand.field, OperandSpec.shape]
  case half => simp [OperandSpec.read, hr, Operand.field, OperandSpec.shape]
  case operand =>
    have hres := h.1.1.1.2
    have hread : o.read x = operandOf x := by simp only [OperandSpec.read, hr]
    rw [hread]
    exact ⟨field_operandOf hres, shape_of_plain (operandOf_plain hres) (.inl hr)⟩
  case optional =>
    by_cases hx : x = 0
    · subst hx; simp [OperandSpec.read, hr, Operand.field, OperandSpec.shape]
    · obtain ⟨⟨-, hres⟩, -⟩ := h.resolve_left hx
      have hread : o.read x = operandOf x := by simp only [OperandSpec.read, hr, beq_eq_false_iff_ne.mpr hx, Bool.false_eq_true, if_false]
      rw [hread]
      exact ⟨field_operandOf hres, shape_of_plain (operandOf_plain hres) (.inr ⟨hr, by rwa [field_operandOf hres]⟩)⟩
  case lut =>
    obtain ⟨⟨hk, hres⟩, -⟩ := h
    have hk : kindOf x = .vec ∨ kindOf x = .scalar := by simpa [hl hr, vsKinds] using hk
    refine ⟨field_lut hr hk hres, ?_⟩
    rcases hk with hk | hk <;> simp [OperandSpec.read, hr, hk, OperandSpec.shape]

/-- Only the B of `lop3` carries LUT[4:0], and it is a vector or a scalar register (R44). -/
def OperandSpec.lutOk (o : OperandSpec) : Bool := o.role != .lut || o.kinds == vsKinds

theorem OperandSpec.kinds_of_lut {o : OperandSpec} (h : o.lutOk = true) (hr : o.role = .lut) : o.kinds = vsKinds := by
  simpa [lutOk, hr] using h

theorem Form.operands_lutOk (i : Form) (r : Raw) :
    (i.operands r).1.lutOk = true ∧ (i.operands r).2.1.lutOk = true ∧ (i.operands r).2.2.lutOk = true := by
  cases i <;> first | exact ⟨rfl, rfl, rfl⟩ | (simp only [Form.operands]; split <;> exact ⟨rfl, rfl, rfl⟩)

theorem Form.operandsOk_of_check {i : Form} {r : Raw} (h : i.check r = none) : i.operandsOk r = true := by
  unfold Form.check at h
  cases hok : i.operandsOk r with
  | true => rfl
  | false =>
    simp only [hok, Bool.not_false, if_true] at h
    repeat' split at h
    all_goals cases h

/-! ## Decoding what has been encoded, and encoding what has been decoded -/

theorem Form.fields_raw {i : Form} {f : Fields} (h : i.shapes f = true) : i.fields (i.raw f) = f := by
  simp only [Form.shapes, Bool.and_eq_true] at h
  obtain ⟨⟨hd, ha⟩, hb⟩ := h
  have hu (b : Bool) : (BitVec.ofBool b == 1) = b := by cases b <;> rfl
  simp only [Form.fields, Form.raw] at hd ha hb ⊢
  rw [read_field hd, read_field ha, read_field hb, hu, hu, hu]

theorem Form.raw_fields {i : Form} {r : Raw} (ho : i.opc = r.opc) (hl : r.low = 0) (h : i.operandsOk r = true) :
    i.raw (i.fields r) = r ∧ i.shapes (i.fields r) = true := by
  obtain ⟨ld, la, lb⟩ := i.operands_lutOk r
  simp only [Form.operandsOk, Bool.and_eq_true] at h
  obtain ⟨⟨⟨hd, ha⟩, hb⟩, -⟩ := h
  obtain ⟨fd, sd⟩ := field_read (OperandSpec.kinds_of_lut ld) hd
  obtain ⟨fa, sa⟩ := field_read (OperandSpec.kinds_of_lut la) ha
  obtain ⟨fb, sb⟩ := field_read (OperandSpec.kinds_of_lut lb) hb
  have hu (b : BitVec 1) : BitVec.ofBool (b == 1) = b := by
    rcases BitVec.eq_zero_or_eq_one b with rfl | rfl <;> rfl
  have hraw : i.raw (i.fields r) = r := by
    simp only [Form.fields, Form.raw, fd, fa, fb, hu, ho, ← hl]
  refine ⟨hraw, ?_⟩
  simp only [Form.shapes, hraw]
  simp only [Form.fields, sd, sa, sb, Bool.and_true]

theorem word_mk (i : Form) (f : Fields) : (i.mk f).word? = some (i, f) := by
  cases i <;> rfl

theorem mk_of_word {i : Instr} {k : Form} {f : Fields} (h : i.word? = some (k, f)) : i = k.mk f := by
  cases i <;> cases h <;> rfl

theorem decodeWord_eq_ok {w : InstrWord} {i : Instr} (h : decodeWord w = .ok i) :
    ∃ k, (Raw.ofWord w).low = 0 ∧ Form.ofRaw (Raw.ofWord w) = some k ∧ k.check (Raw.ofWord w) = none ∧ i = k.mk (k.fields (Raw.ofWord w)) := by
  simp only [decodeWord] at h
  split at h
  · cases h
  next hl =>
  split at h
  · cases h
  split at h
  · cases h
  next k hk =>
  split at h
  · cases h
  next hc =>
  cases h
  exact ⟨k, by simpa using hl, hk, hc, rfl⟩

/-- Settles O8: the form is the only one of its slot that the word picks, and each field reads back in its role. -/
theorem decodeOfEncode : Obligations.DecodeOfEncode := by
  intro i w hwf henc
  unfold encodeWord at henc
  unfold Instr.wf at hwf
  cases hw : i.word? with
  | none => rw [hw] at henc; cases henc
  | some kf =>
    obtain ⟨k, f⟩ := kf
    simp only [hw, Form.wf, Bool.and_eq_true, beq_iff_eq] at hwf
    obtain ⟨⟨hp, hs⟩, hc⟩ := hwf
    simp only [hw, Option.map_some, Option.some.injEq] at henc
    subst henc
    have hg : ((k.raw f).opc.extractLsb' 6 4 == 15) = false := beq_eq_false_iff_ne.mpr k.group_lt
    simp only [decodeWord, Raw.ofWord_toWord, Form.ofRaw_of_picks (i := k) (r := k.raw f) rfl hp, hc, Form.fields_raw hs, hg, mk_of_word hw]
    rfl

/-- Settles O9: the checks leave no bit of a legal word out of its fields. -/
theorem encodeOfDecode : Obligations.EncodeOfDecode := by
  intro w i h
  obtain ⟨k, hl, hk, hc, rfl⟩ := decodeWord_eq_ok h
  obtain ⟨ho, hp⟩ := Form.opc_picks_of_ofRaw hk
  obtain ⟨hraw, hs⟩ := Form.raw_fields ho hl (Form.operandsOk_of_check hc)
  constructor
  · simp only [encodeWord, word_mk, Option.map_some, hraw, Raw.toWord_ofWord]
  · simp only [Instr.wf, word_mk, Form.wf, hraw, hp, hs, hc]
    rfl

/-! ## The checks in their order (R56) -/

theorem decodeWord_of_low {w : InstrWord} (h : (Raw.ofWord w).low ≠ 0) : decodeWord w = .error .nonzeroLow := by
  simp only [decodeWord, bne_iff_ne.mpr h, if_true]

theorem decodeWord_of_reserved {w : InstrWord} (hl : (Raw.ofWord w).low = 0) (h : (Raw.ofWord w).opc.extractLsb' 6 4 = 15) :
    decodeWord w = .error .reservedGroup := by
  simp only [decodeWord, hl, h]
  rfl

/-- A word with clear low bits and a slot of its own group: the form's checks decide. -/
theorem decodeWord_of_group {w : InstrWord} (hl : (Raw.ofWord w).low = 0) (h : (Raw.ofWord w).opc.extractLsb' 6 4 ≠ 15) :
    decodeWord w = match Form.ofRaw (Raw.ofWord w) with
      | none => .error .unassignedSlot
      | some i => match i.check (Raw.ofWord w) with
        | some e => .error e
        | none => .ok (i.mk (i.fields (Raw.ofWord w))) := by
  simp only [decodeWord, hl, beq_eq_false_iff_ne.mpr h]
  rfl

/-- SETF has a value that R38 does not allow the form. -/
def Form.setfBad (i : Form) (x : BitVec 4) : Prop := i.isControlTransfer = true ∧ x ≠ 15 ∨ 12 ≤ x.toNat ∧ x ≠ 15

theorem Form.setfBad_iff (i : Form) (x : BitVec 4) :
    i.setfBad x ↔ ((12 ≤ x.toNat && x.toNat ≤ 14) || (i.isControlTransfer && x != 15)) = true := by
  have h15 : x ≠ 15 ↔ x.toNat ≤ 14 := by rw [ne_eq, ← BitVec.toNat_inj]; have := x.isLt; simp; omega
  simp only [setfBad, Bool.or_eq_true, Bool.and_eq_true, decide_eq_true_eq, bne_iff_ne, h15]
  exact or_comm

/-- Settles O10: the decoder's tests, one after another. -/
theorem checksInOrder : Obligations.ChecksInOrder := by
  intro w r
  have hgrp : r.opc.extractLsb' 6 4 = w.extractLsb' 67 4 := extract_extract w (by decide)
  refine ⟨decodeWord_of_low, fun hl h => decodeWord_of_reserved hl (hgrp.trans h), fun hl hg h => ?_, fun i hl hg hi => ?_⟩
  · have hnone : Form.ofRaw r = none := List.find?_eq_none.mpr fun i hi => by
      simp only [show r.opc = w.extractLsb' 61 10 from rfl, beq_eq_false_iff_ne.mpr (h i hi), Bool.false_and, Bool.false_eq_true,
        not_false_eq_true]
    rw [decodeWord_of_group hl (hgrp ▸ hg), hnone]
  · have hcheck : decodeWord w = match i.check r with
        | some e => .error e
        | none => .ok (i.mk (i.fields r)) := by rw [decodeWord_of_group hl (hgrp ▸ hg), hi]
    rw [hcheck]
    intro setfBad
    have hs := i.setfBad_iff r.setf
    change setfBad ↔ _ at hs
    rw [hs]
    simp only [Form.check, Bool.not_eq_true]
    refine ⟨fun h => ?_, fun h hm => ?_, fun h hm he => ?_, fun h hm he ho => ?_, fun h hm he ho hu => ?_, fun h hm he ho hu => ?_⟩ <;>
      simp only [*, if_true, Bool.false_eq_true, if_false, Bool.not_true, Bool.not_false]

/-! ## Words as bytes (R32) -/

theorem length_bytesOfWord (n w : Nat) : (bytesOfWord n w).length = n := by
  induction n generalizing w with
  | zero => rfl
  | succ n ih => rw [bytesOfWord, List.length_cons, ih]

theorem wordOfBytes_bytesOfWord (n w : Nat) : wordOfBytes (bytesOfWord n w) = w % 256 ^ n := by
  induction n generalizing w with
  | zero => rw [Nat.pow_zero, Nat.mod_one]; rfl
  | succ n ih => rw [bytesOfWord, wordOfBytes, ih, BitVec.toNat_ofNat, Nat.pow_succ' (n := n), Nat.mod_mul (a := 256)]

theorem decode_append {w : InstrWord} {i : Instr} (h : decodeWord w = .ok i) (rest : List Byte) :
    decode (bytesOfWord 12 w.toNat ++ rest) = .ok (i, rest) := by
  have hlen := length_bytesOfWord 12 w.toNat
  have hword : BitVec.ofNat 96 (wordOfBytes (bytesOfWord 12 w.toNat)) = w := by
    rw [wordOfBytes_bytesOfWord, Nat.mod_eq_of_lt (show w.toNat < 256 ^ 12 from w.isLt), BitVec.ofNat_toNat, BitVec.setWidth_eq]
  rw [decode, if_neg (by rw [List.length_append]; omega), List.take_left' hlen, List.drop_left' hlen, hword, h]

theorem decode_short {bs : List Byte} (h : bs.length < 12) : decode bs = .error .short := by
  rw [decode, if_pos h]

/-- Two answers of the decoder are the same. -/
def sameDecoded : Except Illegal Instr → Except Illegal Instr → Bool
  | .ok i, .ok j => i == j
  | .error e, .error d => e == d
  | _, _ => false

theorem eq_of_sameDecoded {x y : Except Illegal Instr} (h : sameDecoded x y = true) : x = y := by
  cases x with
  | ok i => cases y with
    | ok j => exact congrArg _ (beq_iff_eq.mp h)
    | error d => cases h
  | error e => cases y with
    | ok j => cases h
    | error d => exact congrArg _ (beq_iff_eq.mp h)

/-- Settles O11: the words by running the decoder, the list of bytes by O8. -/
theorem decodeWords : Obligations.DecodeWords := by
  refine ⟨?_, ?_⟩
  · intro W
    repeat' apply And.intro
    all_goals exact eq_of_sameDecoded (by decide +kernel)
  rintro bs rest i w henc hwf rfl
  have hlen := length_bytesOfWord 12 w.toNat
  exact ⟨hlen, decode_append (decodeOfEncode i w hwf henc) rest, fun k hk => decode_short (by rw [List.length_take]; omega)⟩

end Sys2Proof
end

section
/-! PROOFS. Bytes of memory read back, and the canonical form is one for each memory (R5). -/

namespace Sys2Proof.Machine

/-! ## Little-endian words -/

@[simp] theorem length_leBytes (n x : Nat) : (leBytes n x).length = n := by
  induction n generalizing x with
  | zero => rfl
  | succ n ih => rw [leBytes, List.length_cons, ih]

theorem leNat_leBytes (n x : Nat) : leNat (leBytes n x) = x % 2 ^ (8 * n) := by
  induction n generalizing x with
  | zero => rw [Nat.mul_zero, Nat.pow_zero, Nat.mod_one]; rfl
  | succ n ih =>
    have hp : 2 ^ (8 * (n + 1)) = 256 * 2 ^ (8 * n) := by rw [Nat.mul_succ, Nat.pow_add, Nat.mul_comm]
    rw [leBytes, leNat, ih, BitVec.toNat_ofNat, hp, Nat.mod_mul (a := 256)]

/-! ## Stored bytes -/

@[simp] theorem length_bytes (s : State) (a n : Nat) : (s.bytes a n).length = n := by
  simp [State.bytes, Sparse.range]

theorem getElem_bytes (s : State) (a n i : Nat) (h : i < (s.bytes a n).length) : (s.bytes a n)[i] = s.byte (a + i) := by
  simp [State.bytes, Sparse.range, State.byte]

theorem bytes_setBytes_same {s : State} (h : Memory.wf s.mem = true) (a : Nat) (bs : List Byte) : (s.setBytes a bs).bytes a bs.length = bs := by
  apply List.ext_getElem (length_bytes _ _ _)
  intro i h1 h2
  rw [getElem_bytes, State.byte_setBytes h, if_pos ⟨Nat.le_add_right _ _, Nat.add_lt_add_left h2 a⟩, Nat.add_sub_cancel_left,
    ← List.getElem_eq_getD]

theorem byte_setBytes_outside {s : State} (h : Memory.wf s.mem = true) {a b : Nat} {bs : List Byte} (hb : b < a ∨ a + bs.length ≤ b) :
    (s.setBytes a bs).byte b = s.byte b := by
  rw [State.byte_setBytes h, if_neg (by omega)]

/-! ## One list for each memory -/

theorem Sparse.get_head_ne_zero {w k v n} {m : Sparse w} (h : Sparse.wfFrom n ((k, v) :: m) = true) : Sparse.get ((k, v) :: m) k ≠ 0 := by
  simp only [Sparse.wfFrom, Bool.and_eq_true, bne_iff_ne] at h
  simpa [Sparse.get] using h.1.2

theorem Sparse.head_le_of_get_ne {w n k : Nat} {x : Nat × BitVec w} {m : Sparse w} (h : Sparse.wfFrom n (x :: m) = true)
    (hk : Sparse.get (x :: m) k ≠ 0) : x.1 ≤ k := by
  simp only [Sparse.wfFrom, Bool.and_eq_true, decide_eq_true_eq, bne_iff_ne] at h
  obtain ⟨⟨-, hv⟩, hm⟩ := h
  refine Decidable.byContradiction fun hlt => ?_
  have hwf : Sparse.wfFrom x.1 (x :: m) = true := by simpa [Sparse.wfFrom, hm] using hv
  exact hk (Sparse.get_of_wfFrom hwf (by omega))

/-- Two canonical maps that read alike are the same list. -/
theorem Sparse.eq_of_get_eq {w : Nat} {m n : Sparse w} {k : Nat} (hm : Sparse.wfFrom k m = true) (hn : Sparse.wfFrom k n = true)
    (h : ∀ a, Sparse.get m a = Sparse.get n a) : m = n := by
  induction m generalizing n k with
  | nil =>
    cases n with
    | nil => rfl
    | cons y n => exact absurd (h y.1).symm (Sparse.get_head_ne_zero hn)
  | cons x m ih =>
    cases n with
    | nil => exact absurd (h x.1) (Sparse.get_head_ne_zero hm)
    | cons y n =>
      have hkey : x.1 = y.1 := Nat.le_antisymm
        (Sparse.head_le_of_get_ne hm (h y.1 ▸ Sparse.get_head_ne_zero hn)) (Sparse.head_le_of_get_ne hn (h x.1 ▸ Sparse.get_head_ne_zero hm))
      obtain ⟨kx, vx⟩ := x
      obtain ⟨ky, vy⟩ := y
      subst hkey
      have hval : vx = vy := by simpa [Sparse.get] using h kx
      simp only [Sparse.wfFrom, Bool.and_eq_true] at hm hn
      have htail : ∀ a, Sparse.get m a = Sparse.get n a := by
        intro a
        by_cases ha : a = kx
        · rw [Sparse.get_of_wfFrom hm.2 (by omega), Sparse.get_of_wfFrom hn.2 (by omega)]
        · simpa [Sparse.get, ha] using h a
      rw [hval, ih hm.2 hn.2 htail]

/-- Settles O7: the laws of sparse maps at the bytes of memory. -/
theorem memoryReadsBack : Obligations.MemoryReadsBack := by
  refine ⟨fun s a bs h => ⟨State.wf_setBytes h a bs, bytes_setBytes_same h a bs, fun b hb => byte_setBytes_outside h hb, fun n x => ?_⟩,
    fun m n hm hn h => Sparse.eq_of_get_eq hm hn h⟩
  have := bytes_setBytes_same h a (leBytes n x)
  rw [length_leBytes] at this
  rw [this, leNat_leBytes]

end Sys2Proof.Machine
end

section
/-! PROOFS. The instructions of groups 0x1, 0x2 and 0x4 to 0x7: each ends its issue with the writes of a block (R148 to R189). -/

namespace Sys2Proof.Machine

/-! ## Integers (R153 to R163) -/

theorem exec_int {i : Form} (hi : i ∈ [Form.add, .sub, .mul, .mulhi, .mulw, .mad, .madw, .div, .rem, .abs, .neg, .min, .max, .clamp, .sad, .dp4])
    (f : Fields) (s : State) : exec (i.mk f) s = issue i f (fun c s => s.intBlock i f c) s := by
  repeat
    rcases List.mem_cons.mp hi with rfl | hi
    · rfl
  cases hi

/-- Settles O12: every one of these instructions ends its issue with the block of its elements. -/
theorem integerComputes : Obligations.IntegerComputes := by
  intro i hi s f c h
  exact Computes.block h _ _ (exec_int hi f s)

theorem exec_carry {i : Form} (hi : i ∈ [Form.addc, .subb]) (f : Fields) (s : State) :
    exec (i.mk f) s = issue i f (fun c s => s.carryBlock i f c) s := by
  repeat
    rcases List.mem_cons.mp hi with rfl | hi
    · rfl
  cases hi

/-- What addc and subb write (R154): each thread's block and its carry in p6. -/
def Ctx.carryWrites (c : Ctx) (s : State) (i : Form) (f : Fields) : List (RegKey × Word) :=
  let ty := modTy f
  let w := tyCols ty
  let e := c.elem s .int w
  (threadsOf c.sel).flatMap fun t =>
    let u := c.srcThread f t
    let els := blockElems f w
    let r := carryChain (i == .subb) ty.width (els.map fun x => (e f.a u x.1 x.2, e f.b u x.1 x.2)) (c.pd s 6 u)
    ((els.zip r.1).flatMap fun x => putKeys (destKeys f.d w t x.1.1 x.1.2) x.2) ++ [(.p 6 t, if r.2 then 1 else 0)]

theorem Ctx.carryWrites_ok (c : Ctx) (s : State) (i : Form) (f : Fields) :
    (∀ x ∈ c.carryWrites s i f, x.1.ok = true) ∧ (c.sel = 0 → c.carryWrites s i f = []) := by
  refine ⟨fun x hx => ?_, fun h => by simp [Ctx.carryWrites, h]⟩
  obtain ⟨t, ht, hx⟩ := List.mem_flatMap.mp hx
  have ht := (mem_threadsOf ht).1
  rcases List.mem_append.mp hx with hx | hx
  · obtain ⟨e, -, hx⟩ := List.mem_flatMap.mp hx
    exact putKeys_ok (destKeys_ok f.d _ _ _ ht) _ x hx
  · rw [List.mem_singleton.mp hx]
    exact decide_eq_true ht

/-- Settles O13: both end their issue with the blocks and the carries of their threads. -/
theorem carryComputes : Obligations.CarryComputes := by
  intro i hi s f c h
  exact Computes.of h (fun c s => c.carryWrites s i f) (exec_carry hi f s) fun c s => c.carryWrites_ok s i f

theorem exec_logic {i : Form}
    (hi : i ∈ [Form.and, .or, .xor, .not, .lop3, .shl, .shr, .sar, .rot, .fsh, .bfx, .bfi, .popc, .clz, .ctz, .brev, .bperm, .lea])
    (f : Fields) (s : State) : exec (i.mk f) s = issue i f (fun c s => s.logicBlock i f c) s := by
  repeat
    rcases List.mem_cons.mp hi with rfl | hi
    · rfl
  cases hi

theorem contains_bitwise (i : Form) : [Form.and, .or, .xor].contains i = (i == .and || i == .or || i == .xor) := by
  simp only [List.contains_cons, List.contains_nil, Bool.or_false, Bool.or_assoc]

/-- Settles O14: every one of these instructions ends its issue with the block of its elements. -/
theorem logicComputes : Obligations.LogicComputes := by
  intro i hi s f c h
  simp only [contains_bitwise]
  exact Computes.block h _ _ (exec_logic hi f s)

/-! ## Floating point (R171 to R182) -/

theorem exec_flt {i : Form} (hi : i ∈ [Form.fadd, .fsub, .fmul, .fma, .fmin, .fmax, .fabs, .fneg, .fcopysign, .frnd, .fsat, .rcp, .divFloat, .sqrt,
    .rsqrt, .ex2, .lg2, .sinpi, .cospi, .tanh]) (f : Fields) (s : State) : exec (i.mk f) s = issue i f (fun c s => s.fltBlock i f c) s := by
  repeat
    rcases List.mem_cons.mp hi with rfl | hi
    · rfl
  cases hi

/-- Settles O16: elements of one register, of both parts, and of pairs; each instruction ends its issue with their block. -/
theorem floatComputes : Obligations.FloatComputes := by
  refine ⟨fun i hi s f c h => Computes.block h _ _ (exec_flt hi f s), fun s f c => ?_⟩
  intro ty ftz rm one two
  have ends1 (i : Form) (ma mb : Widen) (g : Word → Word → Word → Word)
      (he : exec (i.mk f) s = issue i f (fun c s => s.finish i c (c.blockWrites f 1 fun t r j =>
        (g (BitVec.ofNat 32 (c.elem s ma 1 f.a t r j)) (BitVec.ofNat 32 (c.elem s mb 1 f.b t r j)) (BitVec.ofNat 32 (c.elem s ma 1 f.d t r j))).toNat)) s) :
      one i ma mb g := fun h => Computes.block h _ _ he
  have ends2 (i : Form) (m : Widen) (g : Word × Word → Word × Word → Word × Word → Word × Word)
      (he : exec (i.mk f) s = issue i f (fun c s => s.pairBlock i f c m g) s) : two i m g := fun h => Computes.block h _ _ he
  -- each line below is then matched with its instruction by name
  clear_value one two
  exact ⟨ends1 .fdot2 _ _ _ rfl, ends1 .fscale _ _ _ rfl, ends2 .cmul _ _ rfl, ends2 .cfma _ _ rfl, ends2 .twosum _ _ rfl, ends2 .twoprod _ _ rfl⟩

/-! ## Conversions (R174 to R178) -/

theorem exec_cvt (f : Fields) (s : State) :
    let code := (f.mod.extractLsb' 2 4).toNat
    let w := if 4 ≤ code && code ≤ 7 then 2 else 1
    exec (.cvt f) s = issue .cvt f (fun c s => s.finish .cvt c (c.blockWrites f w fun t r j =>
      joinElem (cvtElem code (roundingOf (modLo2 f.mod)) (splitElem (c.elem s (cvtWiden code) w f.a t r j))
        (splitElem (c.elem s (cvtWiden code) w f.b t r j)).1))) s := rfl

/-- The elements of `kcvt` have two registers where its D is of one FP32 number each. -/
theorem exec_kcvt (f : Fields) (s : State) :
    let sum (hi lo : Word) : Nat := Fmt.f32.encode (roundingOf (modLo2 f.mod)) (modBit2 f.mod) (Num.sum (roundingOf (modLo2 f.mod))
      [flushed (modBit2 f.mod) hi, flushed (modBit2 f.mod) lo])
    let w := if modHi f.mod == 6 then 2 else 4
    exec (.kcvt f) s = issue .kcvt f (fun c s => s.finish .kcvt c (c.blockWrites f w fun t r j =>
      let ws := c.cellWords s w f.a t r j
      if modHi f.mod == 6 then sum (ws.getD 0 0) (ws.getD 1 0) else sum (ws.getD 0 0) (ws.getD 1 0) + 2 ^ 32 * sum (ws.getD 2 0) (ws.getD 3 0))) s := by
  intro sum w
  have hw : (w == 2) = (modHi f.mod == 6) := by
    show ((if modHi f.mod == 6 then 2 else 4) == 2) = _
    cases modHi f.mod == 6 <;> rfl
  simp only [← hw]
  rfl

/-- Settles O17: each conversion ends its issue with the block of its elements. -/
theorem convertComputes : Obligations.ConvertComputes := by
  intro s f c ftz rm one cells sum
  have ends1 (i : Form) (ma : Widen) (g : Word → Word → Nat) (he : exec (i.mk f) s = issue i f (fun c s => s.cvtBlock i f c ma .int g) s) :
      one i ma g := fun h => Computes.block h _ _ he
  have ends (i : Form) (k w : Nat) (g : List Word → Nat)
      (he : exec (i.mk f) s = issue i f (fun c s => s.finish i c (c.blockWrites f k fun t r j => g (c.cellWords s w f.a t r j))) s) :
      cells i k w g := fun h => Computes.block h _ _ he
  -- each line below is then matched with its instruction by name
  clear_value one cells
  exact ⟨fun h => by simpa only [joinElem, splitElem] using Computes.block h _ _ (exec_cvt f s), ends1 .tenc _ _ rfl, ends1 .tdec _ _ rfl, ends1 .e8enc _ _ rfl, ends1 .pack _ _ rfl, ends1 .unpack _ _ rfl,
    ends .xcvt _ _ _ rfl, ends .kcvt _ _ _ (exec_kcvt f s)⟩

/-! ## Moves and exchanges between threads (R184 to R189) -/

theorem exec_rdsr {f : Fields} {n : BitVec 10} (ha : f.a = .special n) (s : State) :
    exec (.rdsr f) s = issue .rdsr f (fun c s => s.finish .rdsr c (c.blockWrites f (movCols f) fun t _ _ =>
      (c.special s n.toNat t).toNat + if movCols f == 2 then 2 ^ 32 * (c.special s (n.toNat + 1) t).toNat else 0)) s := by
  show execRdsr f s = _
  simp only [execRdsr, ha]

theorem exec_vote (f : Fields) (s : State) : exec (.vote f) s = issue .vote f (fun c s => s.finish .vote c (c.laneWrites f.d fun _ =>
    if voteTest (modLo2 f.mod) ((threadsOf c.sel).filter fun t => c.predOf s f.a t).length (c.once s f.b).toNat (threadsOf c.sel).length then 1 else 0)) s := by
  show execVote f s = _
  simp only [execVote, Bool.toNat, Bool.cond_eq_ite]

/-- The source thread of `shfl` where it exists (R186). -/
def shflThread (mode t b : Nat) : Option Nat :=
  match mode with
  | 0 => if b < 16 then some b else none
  | 1 => if b ≤ t then some (t - b) else none
  | 2 => if t + b < 16 then some (t + b) else none
  | _ => if b < 16 then some (t ^^^ b) else none

theorem shflThread_getD (mode t b : Nat) : (shflThread mode t b).getD t = if (shflSource mode t b).2 then (shflSource mode t b).1 else t := by
  unfold shflThread shflSource
  split <;> simp only [decide_eq_true_eq] <;> split <;> rfl

theorem shflThread_isSome (mode t b : Nat) : (shflThread mode t b).isSome = (shflSource mode t b).2 := by
  unfold shflThread shflSource
  split <;> simp only <;> split <;> simp [*]

/-- What `shfl` writes: its block, and under `.pv` whether each thread's source exists (R186). -/
def Ctx.shflWrites (c : Ctx) (s : State) (f : Fields) : List (RegKey × Word) :=
  let src (t : Nat) : Option Nat := shflThread (modLo2 f.mod) t (c.val s f.b t).toNat
  (c.blockWrites f (movCols f) fun t r j => c.elem s .int (movCols f) f.a ((src t).getD t) r j) ++
    if modBit2 f.mod then (threadsOf c.sel).map fun t => (.p 6 t, if (src t).isSome then 1 else 0) else []

theorem Ctx.shflWrites_ok (c : Ctx) (s : State) (f : Fields) :
    (∀ x ∈ c.shflWrites s f, x.1.ok = true) ∧ (c.sel = 0 → c.shflWrites s f = []) := by
  refine ⟨fun x hx => ?_, fun h => by simp [Ctx.shflWrites, h, Ctx.blockWrites]⟩
  rcases List.mem_append.mp hx with hx | hx
  · exact (c.blockWrites_ok f _ _).1 x hx
  · split at hx
    · obtain ⟨t, ht, rfl⟩ := List.mem_map.mp hx
      exact decide_eq_true (mem_threadsOf ht).1
    · exact absurd hx (List.not_mem_nil)

theorem exec_shfl (f : Fields) (s : State) : exec (.shfl f) s = issue .shfl f (fun c s => s.finish .shfl c (c.shflWrites s f)) s := by
  show execShfl f s = _
  simp only [execShfl, Ctx.shflWrites, shflThread_getD, shflThread_isSome]

/-- Settles O18: blocks, one value for every thread, and the two results of `shfl`. -/
theorem moveComputes : Obligations.MoveComputes := by
  refine ⟨fun s f c => ?_, fun s f c h => ?_⟩
  · intro w block lane from_ voters same
    have ends (i : Form) (w : Nat) (g : Ctx → State → Nat → Nat → Nat → Nat)
        (he : exec (i.mk f) s = issue i f (fun c s => s.finish i c (c.blockWrites f w (g c s))) s) : block i w g := fun h => Computes.block h w g he
    have ends1 (i : Form) (g : Ctx → State → Nat)
        (he : exec (i.mk f) s = issue i f (fun c s => s.finish i c (c.laneWrites f.d fun _ => g c s)) s) : lane i g :=
      fun h => Computes.of h (fun c s => c.laneWrites f.d fun _ => g c s) he fun c _ => c.laneWrites_ok f.d _
    -- each line below is then matched with its instruction by name
    clear_value block lane
    exact ⟨ends .mov _ _ rfl, ends .movi _ _ rfl, ends .movs _ _ rfl, ends .bcast _ _ rfl, ends .blkmov _ _ rfl, ends .matchThreads _ _ rfl,
      ends1 .ballot _ rfl, ends1 .vote _ (exec_vote f s), fun n ha => ends .rdsr _ _ (exec_rdsr ha s)⟩
  · exact Computes.of h (fun c s => c.shflWrites s f) (exec_shfl f s) fun c s => c.shflWrites_ok s f

end Sys2Proof.Machine
end

section
/-! PROOFS. A carry chain is one long addition or subtraction (R154). -/

namespace Sys2Proof

/-- The number that w-bit elements spell, lowest element first. -/
def elemsNum (w : Nat) (ys : List Nat) : Int := ys.foldr (fun (y : Nat) (n : Int) => (y : Int) + 2 ^ w * n) 0

/-- The sign of a carry in the sum: a borrow is taken away. -/
def carrySign (isSub : Bool) : Int := if isSub then -1 else 1

/-- A sum of two elements and a carry: one multiple of 2^w is taken away where it does not fit. -/
theorem emod_add_carry {x m : Int} (h0 : 0 ≤ x) (h1 : x < 2 * m) : x % m + m * (if m ≤ x then 1 else 0) = x := by
  split
  · next h => rw [← Int.sub_emod_right, Int.emod_eq_of_lt (by omega) (by omega)]; omega
  · rw [Int.emod_eq_of_lt h0 (by omega)]; omega

/-- A difference of two elements and a borrow: one multiple of 2^w is added where it is negative. -/
theorem emod_sub_borrow {x m : Int} (h0 : -m ≤ x) (h1 : x < m) : x % m - m * (if x < 0 then 1 else 0) = x := by
  split
  · next h => rw [← Int.add_emod_right, Int.emod_eq_of_lt (by omega) (by omega)]; omega
  · rw [Int.emod_eq_of_lt (by omega) h1]; omega

/-- One element: its result and its carry together are the exact sum or difference. -/
theorem carryElem_exact (isSub : Bool) (w : Nat) {a b : Nat} (ha : a < 2 ^ w) (hb : b < 2 ^ w) (c : Bool) :
    (carryElem isSub w a b c).1 < 2 ^ w ∧
    ((carryElem isSub w a b c).1 : Int) + carrySign isSub * 2 ^ w * (if (carryElem isSub w a b c).2 then 1 else 0) =
      a + carrySign isSub * (b + if c then 1 else 0) := by
  have hm : (0 : Int) < (2 ^ w : Nat) := Int.natCast_pos.mpr (Nat.two_pow_pos w)
  have hlt (x : Int) : (x % (2 ^ w : Nat)).toNat < 2 ^ w := (Int.toNat_lt (Int.emod_nonneg x (Int.ne_of_gt hm))).mpr (Int.emod_lt_of_pos x hm)
  have hnat (x : Int) : ((x % (2 ^ w : Nat)).toNat : Int) = x % (2 ^ w : Nat) := Int.toNat_of_nonneg (Int.emod_nonneg x (Int.ne_of_gt hm))
  have hc : (c.toNat : Int) = if c then 1 else 0 := by cases c <;> rfl
  have hpow : (2 : Int) ^ w = (2 ^ w : Nat) := by norm_cast
  have hc1 := Bool.toNat_le c
  cases isSub <;> simp only [carryElem, carrySign, Bool.false_eq_true, if_false, if_true, decide_eq_true_eq, hnat] <;> refine ⟨hlt _, ?_⟩ <;>
    rw [← hc, hpow] <;> generalize 2 ^ w = m at *
  · have := emod_add_carry (x := (a : Int) + b + c.toNat) (m := m) (by omega) (by omega)
    rw [Int.one_mul, Int.one_mul, this]
    omega
  · have := emod_sub_borrow (x := (a : Int) - b - c.toNat) (m := m) (by omega) (by omega)
    rw [Int.neg_one_mul, Int.neg_mul, ← Int.sub_eq_add_neg, this]
    omega

/-- The chain: its elements and its last carry together are the exact sum or difference of the two numbers. -/
theorem carryChain_exact (isSub : Bool) (w : Nat) (xs : List (Nat × Nat)) (c : Bool) (h : ∀ x ∈ xs, x.1 < 2 ^ w ∧ x.2 < 2 ^ w) :
    let r := carryChain isSub w xs c
    r.1.length = xs.length ∧ (∀ y ∈ r.1, y < 2 ^ w) ∧
      elemsNum w r.1 + carrySign isSub * 2 ^ (w * xs.length) * (if r.2 then 1 else 0) =
        elemsNum w (xs.map fun x => x.1) + carrySign isSub * (elemsNum w (xs.map fun x => x.2) + if c then 1 else 0) := by
  induction xs generalizing c with
  | nil => exact ⟨rfl, fun y hy => absurd hy List.not_mem_nil, by cases c <;> simp [carryChain, elemsNum]⟩
  | cons x xs ih =>
    obtain ⟨ha, hb⟩ := h x List.mem_cons_self
    obtain ⟨hlt, helem⟩ := carryElem_exact isSub w ha hb c
    obtain ⟨hlen, hys, hsum⟩ := ih (carryElem isSub w x.1 x.2 c).2 fun y hy => h y (List.mem_cons_of_mem _ hy)
    refine ⟨congrArg (· + 1) hlen, List.forall_mem_cons.mpr ⟨hlt, hys⟩, ?_⟩
    have hpow : (2 : Int) ^ (w * (xs.length + 1)) = 2 ^ w * 2 ^ (w * xs.length) := by rw [Nat.mul_succ, Int.pow_add, Int.mul_comm]
    have hchain : carryChain isSub w (x :: xs) c = ((carryElem isSub w x.1 x.2 c).1 :: (carryChain isSub w xs (carryElem isSub w x.1 x.2 c).2).1,
      (carryChain isSub w xs (carryElem isSub w x.1 x.2 c).2).2) := rfl
    rw [hchain, List.length_cons, hpow]
    simp only [elemsNum, List.foldr_cons, List.map_cons] at hsum ⊢
    generalize carryChain isSub w xs (carryElem isSub w x.1 x.2 c).2 = r at *
    grind

/-- Settles O21: the chain of additions, and the chain of subtractions whose borrow counts negative. -/
theorem carryValues : Obligations.CarryValues := by
  intro w xs c h num a b c0 out
  obtain ⟨l0, m0, e0⟩ := carryChain_exact false w xs c h
  obtain ⟨l1, m1, e1⟩ := carryChain_exact true w xs c h
  refine ⟨⟨l0, m0, e0.trans ?_⟩, ⟨l1, m1, e1.trans ?_⟩⟩
  · show a + 1 * (b + c0) = a + b + c0
    omega
  · show a + -1 * (b + c0) = a - b - c0
    omega

end Sys2Proof
end

section
/-! PROOFS. Every move answers a next state, a step runs the word that the fetch answers, and the fetch reads the path's buffer (R56, R118, R120). -/

namespace Sys2Proof.Machine

/-! ## Every move answers (R391) -/

/-- The outcome is a next state. -/
def Answers (o : Host.Outcome State Fault Refusal) : Prop := ∃ t, o = .next t

theorem Answers.next (s : State) : Answers (.next s) := ⟨s, rfl⟩

/-- A word has an issuer where the path is still there. -/
theorem exec_issued_answers (i : Instr) {s : State} {r : PathRef} (h : (s.ctxAt r).isSome = true) : Answers (exec i { s with issuer := some r }) :=
  exec_answers i _ fun _ => h

theorem runInstr_answers (r : PathRef) (c : Ctx) (i : Instr) {s : State} (h : (s.ctxAt r).isSome = true) : Answers (runInstr r c i s) := by
  obtain ⟨t, ht⟩ := exec_issued_answers i h
  unfold runInstr
  rw [ht]
  repeat' split
  all_goals exact .next _

theorem runWord_answers (r : PathRef) (s : State) : Answers (runWord r s) := by
  unfold runWord
  split
  · exact .next _
  split
  · exact .next _
  split
  · exact .next _
  split
  · exact .next _
  · next hs => exact runInstr_answers _ _ _ (by simpa [Option.isSome_iff_ne_none] using hs)

theorem passWord_answers (r : PathRef) (s : State) : Answers (passWord r s) := by
  unfold passWord
  repeat' split
  all_goals first | exact .next _ | exact runWord_answers r s

theorem runHeld_answers (r : PathRef) (s : State) : Answers (runHeld r s) := by
  unfold runHeld
  repeat' split
  all_goals first | exact .next _ | exact runWord_answers r s

theorem runEvent_answers (i : Instr) (s : State) : Answers (runEvent i s) := by
  unfold runEvent
  split
  · exact .next s
  · next h => exact exec_event i (by simpa using h) s

theorem attempt_answers (m : Move) (s : State) : Answers (attempt m s) := by
  cases m <;> simp only [attempt] <;> repeat' split
  all_goals first | exact .next _ | exact runEvent_answers _ _ | exact runWord_answers _ _ | exact passWord_answers _ _ | exact runHeld_answers _ _

/-- The state with the next move drawn from its schedule. -/
def State.drawn (s : State) : State := { s with sched := s.sched.tail, rr := s.rr + 1 }

/-- The step of a move that answers a state which ends no group with work left, and of one that does. -/
theorem stepsTo_of_attempt {s t : State} (h : attempt s.nextMove s.drawn = .next t) : StepsTo s t := by
  have hstep (u : State) : perform s.nextMove s.drawn = .next u → step s = .next u.tidy := fun hu => by
    simp only [step, show perform s.nextMove { s with sched := s.sched.tail, rr := s.rr + 1 } = .next u from hu]
  refine ⟨fun hq => hstep _ ?_, fun hq => ?_⟩
  · obtain ⟨h1, h2⟩ : s.drawn.cutOff t = [] ∧ s.drawn.cutRings t = [] := hq
    simp only [perform, h, h1, h2, List.isEmpty_nil, Bool.and_self, if_true]
    rfl
  · obtain ⟨u, hu⟩ := attempt_answers s.nextMove (s.drawn.worked t)
    refine ⟨u, hu, hstep _ ?_⟩
    have hb : ¬((s.drawn.cutOff t).isEmpty && (s.drawn.cutRings t).isEmpty) = true := by
      rw [Bool.and_eq_true, List.isEmpty_iff, List.isEmpty_iff]
      exact hq
    simp only [perform, h, if_neg hb, hu]
    rfl

theorem step_answers (s : State) : Answers (step s) := by
  obtain ⟨t, ht⟩ := attempt_answers s.nextMove s.drawn
  obtain ⟨hq, hnq⟩ := stepsTo_of_attempt ht
  by_cases h : s.drawn.cutOff t = [] ∧ s.drawn.cutRings t = []
  · exact ⟨_, hq h⟩
  · obtain ⟨u, -, hu⟩ := hnq h
    exact ⟨_, hu⟩

theorem safe_all (s : State) : Safe s := by
  intro n
  induction n generalizing s with
  | zero => exact ⟨s, rfl⟩
  | succ n ih =>
    obtain ⟨t, ht⟩ := step_answers s
    obtain ⟨u, hu⟩ := ih t
    exact ⟨u, by simp only [Runs, Host.Core.run, show core.step s = .next t from ht]; exact hu⟩

/-- Settles O1: a word that is executed has an issuer, and every event answers. -/
theorem stepAnswersNext : Obligations.StepAnswersNext := ⟨step_answers, safe_all⟩

/-- Settles O3. -/
theorem resetInv : Obligations.ResetInv := ⟨State.wf_reset, rfl⟩

/-- Settles O4. -/
theorem resetState : Obligations.ResetState :=
  ⟨rfl, rfl, rfl, rfl, rfl, rfl, rfl, rfl, rfl, rfl, fun _ => ⟨rfl, rfl, rfl⟩⟩

/-! ## A step runs the fetched word -/

theorem runWord_eq {s1 s2 : State} {r : PathRef} {c : Ctx} {w : InstrWord} {i : Instr} (hc : s1.ctxAt r = some c)
    (hf : s1.fetch c = (.ok w, s2)) (hd : decodeWord w = .ok i) (hr : (s2.ctxAt r).isSome = true) : runWord r s1 = runInstr r c i s2 := by
  have hr : ¬(s2.ctxAt r).isNone = true := by simpa [Option.isSome_iff_ne_none] using hr
  simp only [runWord, hc, hf, hd, if_neg hr]

/-- A path that has gone past no instruction executes the word. -/
theorem runInstr_alone {r : PathRef} {c : Ctx} (h : c.alone = true) (i : Instr) (s : State) :
    runInstr r c i s = exec i { s with issuer := some r } := by
  simp only [runInstr, h, if_true]

/-- A path that has gone past instructions executes the word, noting its bytes, or is not changed by it. -/
theorem runInstr_late {r : PathRef} {c : Ctx} (h : c.alone = false) {i : Instr} {s t : State} (ht : exec i { s with issuer := some r } = .next t) :
    runInstr r c i s = .next s ∨ ∃ ns bytes, runInstr r c i s = .next (t.notePassed r c.p.mask ns bytes) := by
  simp only [runInstr, h, ht, Bool.false_eq_true, if_false]
  repeat' split
  all_goals first | exact .inl rfl | exact .inr ⟨_, _, rfl⟩

/-- Settles O5: a pick and a held path that goes on both run the word that the fetch answers. -/
theorem stepRunsDecoded : Obligations.StepRunsDecoded := by
  intro s s1 s2 r c w i s0 hm hc hf hd hr
  have hrun : attempt s.nextMove s.drawn = runInstr r c i s2 := by
    rw [← runWord_eq hc hf hd hr]
    rcases hm with ⟨d, k, l, hm, hp⟩ | ⟨hm, rfl, hl, hn⟩
    · simp only [hm, attempt, show s.drawn.pickLane d k l = some (r, s1) from hp]
    · simp only [hm, attempt, runHeld, show s.drawn.ctxAt r = some c from hc, hl, hn, Bool.false_eq_true, if_false]
      rfl
  obtain ⟨t, ht⟩ := exec_issued_answers i hr
  refine ⟨t, ht, fun ha => ?_, fun ha => ?_⟩
  · exact stepsTo_of_attempt (by rw [hrun, runInstr_alone ha, ht])
  · rcases runInstr_late ha ht with h | ⟨ns, bytes, h⟩
    · exact .inl (stepsTo_of_attempt (hrun.trans h))
    · exact .inr ⟨ns, bytes, stepsTo_of_attempt (hrun.trans h)⟩

/-! ## The fetch buffer (R118, R120) -/

theorem fullBytes_map_some (bs : List Byte) : fullBytes (bs.map some) = some bs := by
  induction bs with
  | nil => rfl
  | cons b bs ih => simp only [List.map_cons, fullBytes, ih, Option.map_some]

theorem buffered_of_bytes {c : Ctx} {line : List (Option Byte)} {bs : List Byte} (hlen : bs.length = 12)
    (hbs : (line.drop (12 * (c.p.pc.toNat % 16))).take 12 = bs.map some) :
    c.buffered (some (c.codeLine.toNat, line)) = some (BitVec.ofNat 96 (wordOfBytes bs)) := by
  simp only [Ctx.buffered, bne_self_eq_false, Bool.false_eq_true, if_false, hbs, fullBytes_map_some, hlen, BEq.rfl, if_true]

/-- Settles O6: the buffer holds the whole word, so that memory is not read. -/
theorem fetchReadsBuffer : Obligations.FetchReadsBuffer := by
  intro s c line bs hline hlen hbs
  have hbuf : c.buffered c.p.line = some (BitVec.ofNat 96 (wordOfBytes bs)) := by rw [hline, buffered_of_bytes hlen hbs]
  refine ⟨fun hh => ?_, fun hh s1 hcheck => ?_, fun hh e s1 hcheck => ?_⟩
  · obtain ⟨h, hh⟩ := Option.isSome_iff_exists.mp hh
    simp only [State.fetch, hh, hbuf]
  · simp only [State.fetch, hh, hbuf, hcheck]
  · simp only [State.fetch, hh, hbuf, hcheck]

end Sys2Proof.Machine
end

section
/-! PROOFS. Branches, `nop`, `yield`, `brk` and `trap` (R135, R141, R146, R147). -/

namespace Sys2Proof.Machine

/-! ## What an issue leaves, for a word that issues -/

/-- The issue of a word that issues. -/
theorem State.Issues.raised {s : State} {i : Form} {f : Fields} {c : Ctx} (h : s.Issues i f c) :
    Raised s.ticked c (s.issued i f c).1 (s.issued i f c).2 := by
  obtain ⟨-, -, hw, hp, -, hl⟩ := State.issuing_spec h.1
  exact State.raise_raised i f hw (hp (hl h.2.1))

theorem State.issued_late (s : State) (i : Form) (f : Fields) (c : Ctx) : (s.issued i f c).1.late = c.late := by
  unfold State.issued State.raise
  split <;> rfl

theorem State.Issues.late_none {s : State} {i : Form} {f : Fields} {c : Ctx} (h : s.Issues i f c) : (s.issued i f c).1.late = none := by
  obtain ⟨-, -, -, -, -, hl⟩ := State.issuing_spec h.1
  rw [State.issued_late, hl h.2.1]

theorem Raised.isTreadle {s t : State} {c d : Ctx} (h : Raised s c d t) : d.isTreadle = c.isTreadle := by
  unfold Ctx.isTreadle
  rw [h.same.1]

/-- The frame speaks of a context as it was. -/
theorem Frame.ctx_eq {s t : State} {c : Ctx} (h : Frame s t c) (d k : Nat) : t.ctx d k = s.ctx d k := by
  rw [h.rest]
  rfl

/-- A path is one of the weft's. -/
theorem Weft.mem_of_path? {w : Weft} {t : Nat} {p : Path} (h : w.path? t = some p) : p ∈ w.paths := List.mem_of_find?_eq_some h

theorem mem_threadsOf_iff {m : Mask} {t : Nat} : t ∈ threadsOf m ↔ m.getLsbD t = true := by
  refine ⟨fun h => (mem_threadsOf h).2, fun h => ?_⟩
  have ht : t < 16 := by
    refine Decidable.byContradiction fun hn => ?_
    rw [BitVec.getLsbD_of_ge _ _ (by omega)] at h
    cases h
  simp [threadsOf, ht, h]

/-! ## Parts of a path (R135) -/

/-- The parts of a path stand at PCs of their own, held by nothing, and each thread is in the part of its next PC. -/
structure PartsOf (next : Nat → Word) (ts : List Nat) (ps : List Path) : Prop where
  apart : ps.Pairwise fun q r => q.pc ≠ r.pc
  free : ∀ q ∈ ps, q.hold = none
  each : ∀ t ∈ ts, ∃ q ∈ ps, q.mask.getLsbD t = true ∧ q.pc = next t

theorem bitMask_self {t : Nat} (h : t < 16) : (bitMask t).getLsbD t = true := by
  rw [bitMask_getLsbD h]
  exact decide_eq_true rfl

/-- Of parts whose PCs differ, two with one PC are the same. -/
theorem eq_of_pc_eq {ps : List Path} (h : ps.Pairwise fun q r => q.pc ≠ r.pc) {q r : Path} (hq : q ∈ ps) (hr : r ∈ ps) (he : q.pc = r.pc) : q = r := by
  induction ps with
  | nil => cases hq
  | cons p ps ih =>
    obtain ⟨hp, hps⟩ := List.pairwise_cons.mp h
    rcases List.mem_cons.mp hq with rfl | hqs
    · rcases List.mem_cons.mp hr with rfl | hrs
      · rfl
      · exact absurd he (hp r hrs)
    · rcases List.mem_cons.mp hr with rfl | hrs
      · exact absurd he.symm (hp q hqs)
      · exact ih hps hqs hrs

/-- A thread joins the part that stands at its next PC. -/
theorem PartsOf.join {next : Nat → Word} {ts : List Nat} {ps : List Path} (h : PartsOf next ts ps) {t : Nat} (ht : t < 16) {q : Path} (hq : q ∈ ps)
    (hpc : q.pc = next t) : PartsOf next (t :: ts) ({ q with mask := q.mask ||| bitMask t } :: ps.filter fun x => x.pc != next t) where
  apart := List.pairwise_cons.mpr ⟨fun r hr he => by
    have := (List.mem_filter.mp hr).2
    rw [← he, hpc] at this
    exact absurd this (by simp), h.apart.filter _⟩
  free := List.forall_mem_cons.mpr ⟨h.free q hq, fun r hr => h.free r (List.mem_filter.mp hr).1⟩
  each := List.forall_mem_cons.mpr ⟨⟨_, List.mem_cons_self, by simp [bitMask_self ht], hpc⟩, fun u hu => by
    obtain ⟨r, hr, hbit, hpu⟩ := h.each u hu
    by_cases he : r.pc = next t
    · obtain rfl : r = q := eq_of_pc_eq h.apart hr hq (he.trans hpc.symm)
      exact ⟨_, List.mem_cons_self, by simp [hbit], hpu⟩
    · exact ⟨r, List.mem_cons_of_mem _ (List.mem_filter.mpr ⟨hr, by simpa using he⟩), hbit, hpu⟩⟩

/-- A thread whose next PC no part stands at begins one. -/
theorem PartsOf.begin {next : Nat → Word} {ts : List Nat} {ps : List Path} (h : PartsOf next ts ps) {t : Nat} (ht : t < 16) (p : Path)
    (hpc : ∀ q ∈ ps, q.pc ≠ next t) : PartsOf next (t :: ts) ({ p with mask := bitMask t, pc := next t, hold := none } :: ps) where
  apart := List.pairwise_cons.mpr ⟨fun r hr he => hpc r hr he.symm, h.apart⟩
  free := List.forall_mem_cons.mpr ⟨rfl, h.free⟩
  each := List.forall_mem_cons.mpr ⟨⟨_, List.mem_cons_self, bitMask_self ht, rfl⟩, fun u hu => by
    obtain ⟨r, hr, hx⟩ := h.each u hu
    exact ⟨r, List.mem_cons_of_mem _ hr, hx⟩⟩

theorem splitPath_parts (p : Path) (next : Nat → Word) (ts : List Nat) (hts : ∀ t ∈ ts, t < 16) : PartsOf next ts (splitPath p next ts) := by
  induction ts with
  | nil => exact ⟨.nil, fun _ h => absurd h List.not_mem_nil, fun _ h => absurd h List.not_mem_nil⟩
  | cons t ts ih =>
    obtain ⟨ht, hts⟩ := List.forall_mem_cons.mp hts
    have h := ih hts
    simp only [splitPath]
    split
    · next hany =>
      obtain ⟨q, hq⟩ := Option.isSome_iff_exists.mp ((List.find?_isSome (p := fun q : Path => q.pc == next t)).mpr (List.any_eq_true.mp hany))
      rw [hq, Option.getD_some]
      exact h.join ht (List.mem_of_find?_eq_some hq) (by simpa using List.find?_some hq)
    · next hany =>
      exact h.begin ht p fun q hq he => hany (List.any_eq_true.mpr ⟨q, hq, by simpa using he⟩)

/-! ## Branches (R141) -/

/-- The path of a weft split by the next PC of its threads. -/
def Weft.splitAt (w : Weft) (t : Nat) (next : Nat → Word) : Weft :=
  { w with paths := w.paths.flatMap fun p => if p.mask.getLsbD t then splitPath p next (threadsOf p.mask) else [p] }

theorem Weft.splitAt_thread {w : Weft} {t : Nat} {p : Path} (hp : w.path? t = some p) (next : Nat → Word) {k : Nat} (hk : p.mask.getLsbD k = true) :
    ∃ q ∈ (w.splitAt t next).paths, q.mask.getLsbD k = true ∧ q.hold = none ∧ q.pc = next k := by
  have h := splitPath_parts p next (threadsOf p.mask) fun u hu => (mem_threadsOf hu).1
  obtain ⟨q, hq, hbit, hpc⟩ := h.each k (mem_threadsOf_iff.mpr hk)
  exact ⟨q, List.mem_flatMap.mpr ⟨p, Weft.mem_of_path? hp, by rwa [if_pos (Weft.path?_mask hp)]⟩, hbit, h.free q hq, hpc⟩

theorem Weft.splitAt_other {w : Weft} {t : Nat} {p : Path} (hp : p ∈ w.paths) (ht : p.mask.getLsbD t = false) (next : Nat → Word) :
    p ∈ (w.splitAt t next).paths :=
  List.mem_flatMap.mpr ⟨p, hp, by rw [if_neg (by simp [ht])]; exact List.mem_singleton_self p⟩

/-- The next PC of each thread of a branch. -/
def Ctx.nextOf (c : Ctx) (target : Nat → Word) (t : Nat) : Word := if c.sel.getLsbD t then target t else c.p.pc + 1

theorem State.branch_eq (u : State) (d : Ctx) (target : Nat → Word) :
    u.branch d target = (u.modW d fun w => w.splitAt d.r.t (d.nextOf target)).completeAt d (d.p.last + 6) := rfl

/-- The weft after a branch that goes on from `u`, where its issuer's weft is `x`. -/
theorem State.branch_weft? {u : State} {d : Ctx} {x : Weft} (hx : u.weft? d.r.g d.r.w = some x) (target : Nat → Word) :
    (u.branch d target).weft? d.r.g d.r.w = some (x.splitAt d.r.t (d.nextOf target)) := by
  rw [State.branch_eq, State.completeAt_weft?, State.modW, State.weft?_modWeft _ _ _ (fun w => w.splitAt d.r.t (d.nextOf target)) fun _ h => h, hx]
  rfl

theorem Frame.branch (u : State) (d : Ctx) (target : Nat → Word) : Frame u (u.branch d target) d := by
  rw [State.branch_eq]
  exact (Frame.modW u d (fun w => w.splitAt d.r.t (d.nextOf target)) fun _ => rfl).trans (Frame.completeAt _ d _)

/-- A register once the writes `ws` have been made, where it has held `old`. -/
def RegKey.after (k : RegKey) (ws : List (RegKey × Word)) (old : Word) : Word := match lastWrite ws k with | some x => k.kept x | none => old

/-- In `t`, the path of `c` has been split: its selected threads stand at their targets, its others at the next instruction, no other path of the weft has
moved, the registers are as written, and nothing else has changed since `s`. -/
def Branched (s : State) (c : Ctx) (target : Nat → Word) (ws : List (RegKey × Word)) (t : State) : Prop :=
  ∃ w, t.weft? c.r.g c.r.w = some w ∧ Frame s t c ∧
    (∀ k, c.p.mask.getLsbD k = true →
      ∃ p ∈ w.paths, p.mask.getLsbD k = true ∧ p.hold = none ∧ p.pc = if c.sel.getLsbD k then target k else c.p.pc + 1) ∧
    (∀ p ∈ c.wf.paths, p.mask.getLsbD c.r.t = false → p ∈ w.paths) ∧
    (∀ k, k.ok = true → w.reg k = k.after ws (c.wf.reg k)) ∧
    w = { c.wf with v := w.v, s := w.s, p := w.p, flags := w.flags, ld := w.ld, st := w.st, cp := w.cp, tl := w.tl, outs := w.outs,
                    young := w.young, acq := w.acq, own := w.own, paths := w.paths }

/-- A branch from a state `u` whose issuing weft `x` holds the paths that the issue left and the registers written meanwhile. -/
theorem Raised.branched {s t u : State} {c d : Ctx} (h : Raised s c d t) {x : Weft} (hx : u.weft? d.r.g d.r.w = some x) (hf : Frame t u d)
    (hp : x.paths = d.wf.paths) (hr : x = { d.wf with v := x.v, s := x.s, p := x.p, outs := x.outs, young := x.young }) {ws : List (RegKey × Word)}
    (hreg : ∀ k, k.ok = true → x.reg k = k.after ws (c.wf.reg k)) (target : Nat → Word) :
    Branched s c target ws (u.branch d target) := by
  obtain ⟨hcr, hsel, -, -, -⟩ := h.same
  obtain ⟨hmask, hpc, -⟩ := h.pc
  have hpath : x.path? d.r.t = some d.p := by rw [hcr, ← h.path, Weft.path?, Weft.path?, hp]
  refine ⟨x.splitAt d.r.t (d.nextOf target), hcr ▸ State.branch_weft? hx target, h.frame.trans ((hf.trans (Frame.branch u d target)).congr hcr.symm),
    fun k hk => ?_, fun p hpm hpt => ?_, hreg, ?_⟩
  · obtain ⟨q, hq, hbit, hhold, hnext⟩ := Weft.splitAt_thread hpath (d.nextOf target) (by rwa [hmask])
    exact ⟨q, hq, hbit, hhold, by rw [hnext, Ctx.nextOf, hsel, hpc]⟩
  · have hpd : p ∈ d.wf.paths.filter fun q => !q.mask.getLsbD c.r.t := by
      rw [h.paths]
      exact List.mem_filter.mpr ⟨hpm, by simp only [hpt, Bool.not_false]⟩
    exact Weft.splitAt_other (hp ▸ (List.mem_filter.mp hpd).1) (hcr ▸ hpt) _
  · have hx' : x = { c.wf with v := x.v, s := x.s, p := x.p, flags := x.flags, ld := x.ld, st := x.st, cp := x.cp, tl := x.tl, outs := x.outs,
                               young := x.young, acq := x.acq, own := x.own, paths := x.paths } := by rw [hr, h.rest]
    exact congrArg (fun z : Weft => z.splitAt d.r.t (d.nextOf target)) hx'

/-- A branch without a result. -/
theorem Raised.branched_nil {s t : State} {c d : Ctx} (h : Raised s c d t) (target : Nat → Word) : Branched s c target [] (t.branch d target) :=
  h.branched (ws := []) (by rw [h.same.1]; exact h.weft) (Frame.refl t d) rfl rfl (fun k _ => h.reg k) target

/-- A branch that writes registers before its threads move. -/
theorem Raised.branched_writes {s t : State} {c d : Ctx} (h : Raised s c d t) {ws : List (RegKey × Word)} (hws : ∀ x ∈ ws, x.1.ok = true)
    (target : Nat → Word) : Branched s c target ws ((t.writeNow d ws).branch d target) := by
  obtain ⟨x, hx, hp, hreg, hr⟩ := State.writeNow_weft? (c := d) (by rw [h.same.1]; exact h.weft) ws hws
  exact h.branched hx (Frame.writeNow t d ws) hp hr (fun k hk => h.reg k ▸ hreg k hk) target

/-- An instruction whose guard selects no thread only goes on. -/
theorem Raised.branched_idle {s t : State} {c d : Ctx} (h : Raised s c d t) (hsel : c.sel = 0) (target : Nat → Word) :
    Branched s c target [] (t.finishIdle d) := by
  obtain ⟨w, hw, he⟩ := Ends.of (u := t) h .nop [] (d.p.last + 6) (by rw [h.same.1]; exact h.weft) rfl rfl (fun _ k _ => h.reg k)
    (fun hn => absurd hn (by simp [Ctx.writesNow, hsel]))
  obtain ⟨p, hp, hm⟩ := Option.map_eq_some_iff.mp he.path
  simp only [Prod.mk.injEq] at hm
  obtain ⟨hmask, hpc, hhold⟩ := hm
  refine ⟨w, hw, h.frame.trans (((Frame.advance t d).trans (Frame.completeAt _ d _)).congr h.same.1.symm), fun k hk => ?_, fun p hp ht => ?_,
    he.now (by simp [Ctx.writesNow, hsel]), he.rest⟩
  · exact ⟨p, Weft.mem_of_path? hp, by rwa [hmask], hhold, by rw [hpc, hsel]; simp⟩
  · have hpm : p ∈ w.paths.filter fun q => !q.mask.getLsbD c.r.t := by
      rw [he.paths]
      exact List.mem_filter.mpr ⟨hp, by simp [ht]⟩
    exact (List.mem_filter.mp hpm).1

theorem Branched.congr {s t : State} {c : Ctx} {g g' : Nat → Word} {ws : List (RegKey × Word)} (h : Branched s c g ws t) (hg : ∀ k, g k = g' k) :
    Branched s c g' ws t := funext hg ▸ h

theorem Branched.ticked {s t : State} {c : Ctx} {g : Nat → Word} {ws : List (RegKey × Word)} (h : Branched s.ticked c g ws t) : Branched s c g ws t := by
  obtain ⟨w, hw, hf, hx⟩ := h
  exact ⟨w, hw, (Frame.ticked s c).trans hf, hx⟩

/-- A word whose meaning is a branch from the state that its issue and its results leave. -/
theorem Branched.of {s : State} {i : Form} {f : Fields} {c : Ctx} (h : s.Issues i f c) {body : Ctx → State → State} {target : Nat → Word}
    {ws : List (RegKey × Word)} (he : exec (i.mk f) s = issue i f body s)
    (hb : Raised s.ticked c (s.issued i f c).1 (s.issued i f c).2 → Branched s.ticked c target ws (body (s.issued i f c).1 (s.issued i f c).2)) :
    ∃ t, exec (i.mk f) s = .next t ∧ Branched s c target ws t :=
  ⟨_, he.trans (issue_next h body), (hb h.raised).ticked⟩

theorem Ctx.relative_imm {c : Ctx} {o : Operand} {v : BitVec 13} (h : o = .imm v) : c.relative o = c.p.pc + v.signExtend 32 := by
  rw [h]
  rfl

/-- What `loop` does: it lowers its counter and branches while the counter is not zero. -/
theorem exec_loop (f : Fields) (s : State) : exec (.loop f) s = issue .loop f (fun c s =>
    if c.sel == 0 then s.finishIdle c
    else (s.writeNow c (c.laneWrites f.d fun _ => (c.once s f.d - 1).toNat)).branch c fun _ =>
      if c.once s f.d - 1 != 0 then c.relative f.a else c.p.pc + 1) s := rfl

/-- Settles O24: each branch is a split of its path, after the writes of its link or counter. -/
theorem branchesGo : Obligations.BranchesGo := by
  intro s f c goes there link count
  have goes_of {i : Form} {target : Ctx → State → Nat → Word} {ws : Ctx → State → List (RegKey × Word)}
      (h : ∀ hi : s.Issues i f c, ∃ t, exec (i.mk f) s = .next t ∧
        Branched s c (target (s.issued i f c).1 (s.issued i f c).2) (ws (s.issued i f c).1 (s.issued i f c).2) t) : goes i target ws := fun hi => by
    obtain ⟨t, ht, w, hw⟩ := h hi
    obtain ⟨hw, hf, hmask, hpaths, hreg, hrest⟩ := hw
    exact ⟨t, w, ht, hw, hf, hmask, hpaths, hreg, hrest⟩
  have hrel {v : BitVec 13} (hv : f.a = .imm v) {i : Form} (hi : Raised s.ticked c (s.issued i f c).1 (s.issued i f c).2) :
      (s.issued i f c).1.relative f.a = there v := by rw [Ctx.relative_imm hv, hi.pc.2.1]
  -- each goal below is then matched with its instruction by name
  clear_value goes
  refine ⟨fun v hv => ⟨goes_of fun hi => ?_, goes_of fun hi => ?_, goes_of fun hi => ?_⟩,
    goes_of fun hi => ?_, goes_of fun hi => ?_, goes_of fun hi => ?_⟩
  · exact Branched.of hi (body := fun c s => s.branch c fun _ => c.relative f.a) rfl fun hr => (hr.branched_nil _).congr fun _ => hrel hv hr
  · exact Branched.of hi (body := fun c s => (s.writeNow c (c.laneWrites f.d fun _ => (c.p.pc + 1).toNat)).branch c fun _ => c.relative f.a) rfl
      fun hr => (hr.branched_writes (Ctx.laneWrites_ok _ _ _).1 _).congr fun _ => hrel hv hr
  · refine Branched.of hi (exec_loop f s) fun hr => ?_
    by_cases h0 : (s.issued .loop f c).1.sel = 0
    · rw [if_pos (beq_iff_eq.mpr h0), (Ctx.laneWrites_ok _ _ _).2 h0]
      exact hr.branched_idle (hr.same.2.1.symm.trans h0) _
    · rw [if_neg (fun h => h0 (beq_iff_eq.mp h))]
      refine (hr.branched_writes (Ctx.laneWrites_ok _ _ _).1 _).congr fun _ => ?_
      rw [hrel hv hr, hr.pc.2.1]
      simp only [count, bne_iff_ne, ite_not]
  · exact Branched.of hi (body := fun c s => s.branch c fun t => c.val s f.a t) rfl fun hr => hr.branched_nil _
  · exact Branched.of hi (body := fun c s => s.branch c fun t => c.val s f.a t) rfl fun hr => hr.branched_nil _
  · exact Branched.of hi (body := fun c s => (s.writeNow c (c.laneWrites f.d fun _ => (c.p.pc + 1).toNat)).branch c fun t => c.val s f.a t) rfl
      fun hr => hr.branched_writes (Ctx.laneWrites_ok _ _ _).1 _

/-! ## nop, yield, brk, trap (R146, R147) -/

/-- An instruction of fixed latency that only goes on. -/
theorem Computes.idle {s : State} {i : Form} {f : Fields} {c : Ctx} (h : s.Issues i f c) (hn : c.writesNow i = true)
    (he : exec (i.mk f) s = .next ((s.issued i f c).2.finishIdle (s.issued i f c).1)) : Computes s i f c [] := by
  have hr := h.raised
  obtain ⟨w, hw, hx⟩ := Ends.of (u := (s.issued i f c).2) hr i [] ((s.issued i f c).1.p.last + 6) (by rw [hr.same.1]; exact hr.weft) rfl rfl
    (fun _ k _ => hr.reg k) (fun hf => absurd hf (by simp [hn]))
  exact ⟨_, w, he, hw, hx, (Frame.ticked s c).trans (hr.frame.trans (((Frame.advance _ _).trans (Frame.completeAt _ _ _)).congr hr.same.1.symm))⟩

/-- The record of a trap of a word that issues. -/
theorem Raised.info {s t : State} {c d : Ctx} (h : Raised s c d t) (hl : d.late = none) (cls : TrapClass) (reason : Nat) (pm : Mask) (addr : DWord) (info : Word) :
    (d.info cls reason pm addr info).pc = c.p.pc ∧ (c.isTreadle = false → (d.info cls reason pm addr info).agent = .weft ∧
      (d.info cls reason pm addr info).precise = true ∧ (d.info cls reason pm addr info).wid = c.r.w ∧ (d.info cls reason pm addr info).smask = c.sel) := by
  refine ⟨h.pc.2.1, fun ht => ?_⟩
  have ht : d.isTreadle = false := h.isTreadle.trans ht
  simp only [Ctx.info, ht, hl, h.same.1, h.same.2.1]
  exact ⟨rfl, rfl, rfl, rfl⟩

theorem exec_trap (f : Fields) (s : State) : exec (.trap f) s = issue .trap f (fun c s =>
    if c.sel == 0 then s.finishIdle c else s.trap c .operand 12 c.sel 0 (c.once s f.a &&& 0xFFF)) s := rfl

theorem exec_brk (f : Fields) (s : State) : exec (.brk f) s = issue .brk f (fun c s =>
    if c.sel != 0 && (s.ctx c.dev c.ctx).dbgen then s.trap c .operand 13 0 0 (c.once s f.a &&& 0xFFF) else s.finishIdle c) s := rfl

/-- The context of the issuer as the issue leaves it. -/
theorem State.Issues.dbgen {s : State} {i : Form} {f : Fields} {c : Ctx} (h : s.Issues i f c) :
    ((s.issued i f c).2.ctx (s.issued i f c).1.dev (s.issued i f c).1.ctx) = s.ctx c.dev c.ctx := by
  rw [h.raised.frame.ctx_eq, Ctx.dev, Ctx.ctx, h.raised.same.2.2.1]
  rfl

/-- Settles O25: `nop`, `yield` and `brk` end their issue without results; `trap` and `brk` with DBGEN take the trap of their record. -/
theorem idleAndTraps : Obligations.IdleAndTraps := by
  refine ⟨fun s f c => ⟨fun h => ?_, fun h => ?_, fun h hd => ?_⟩, fun s f c hsel => ⟨fun h => ?_, fun hd h => ?_⟩⟩
  · exact Computes.of h (fun _ _ => []) rfl fun _ _ => ⟨fun _ hx => absurd hx List.not_mem_nil, fun _ => rfl⟩
  · exact Computes.of h (fun _ _ => []) rfl fun _ _ => ⟨fun _ hx => absurd hx List.not_mem_nil, fun _ => rfl⟩
  · refine Computes.idle h rfl ((exec_brk f s).trans ((issue_next h _).trans ?_))
    rw [h.dbgen, hd, Bool.and_false]
    rfl
  · have hr := h.raised
    obtain ⟨hpc, hweft⟩ := hr.info h.late_none .operand 12 (s.issued .trap f c).1.sel 0 ((s.issued .trap f c).1.once (s.issued .trap f c).2 f.a &&& 0xFFF)
    refine ⟨_, rfl, rfl, hpc, hr.same.2.1, rfl, rfl, hweft, (exec_trap f s).trans ((issue_next h _).trans ?_)⟩
    rw [if_neg (by rw [hr.same.2.1]; simpa using hsel), State.trap, hr.same.1]
  · have hr := h.raised
    obtain ⟨hpc, hweft⟩ := hr.info h.late_none .operand 13 0 0 ((s.issued .brk f c).1.once (s.issued .brk f c).2 f.a &&& 0xFFF)
    refine ⟨_, rfl, rfl, hpc, rfl, rfl, rfl, hweft, (exec_brk f s).trans ((issue_next h _).trans ?_)⟩
    rw [h.dbgen, hd, hr.same.2.1, Bool.and_true, if_pos (by simpa using hsel), State.trap, hr.same.1]

end Sys2Proof.Machine
end

section
/-! PROOFS. `rejoin` and `exit` (R137, R142, R143). -/

namespace Sys2Proof.Machine

/-! ## Sets of threads -/

theorem getLsbD_foldl_or (f : Path → Mask) (ps : List Path) (m : Mask) (k : Nat) :
    (ps.foldl (fun m p => m ||| f p) m).getLsbD k = true ↔ m.getLsbD k = true ∨ ∃ p ∈ ps, (f p).getLsbD k = true := by
  induction ps generalizing m with
  | nil => simp
  | cons p ps ih => simp [ih, or_assoc]

/-- No thread of a mask is outside another. -/
theorem and_not_eq_zero_iff (m n : Mask) : m &&& ~~~n = 0 ↔ ∀ k, m.getLsbD k = true → n.getLsbD k = true := by
  refine ⟨fun h k hm => ?_, fun h => BitVec.eq_of_getLsbD_eq fun k hk => ?_⟩
  · have hk : k < 16 := by
      refine Decidable.byContradiction fun hn => ?_
      rw [BitVec.getLsbD_of_ge _ _ (by omega)] at hm
      cases hm
    have := congrArg (·.getLsbD k) h
    simpa [hm, hk] using this
  · cases hm : m.getLsbD k with
    | false => simp [hm]
    | true => simp [h k hm]

/-! ## Paths that wait at a rejoin (R142) -/

/-- A path that waits at a rejoin. -/
def Path.rejoins (p : Path) : Bool := match p.hold with | some h => h.why == .rejoin | none => false

theorem Weft.mem_waiting {w : Weft} {pc : Word} {p : Path} : p ∈ w.waiting pc ↔ p ∈ w.paths ∧ p.pc = pc ∧ p.rejoins = true := by
  simp only [Weft.waiting, List.mem_filter, Bool.and_eq_true, beq_iff_eq]
  rfl

/-- The mask of a path that waits is complete where every unexited thread it names is of a path that waits with it. -/
theorem Weft.rejoinDone_iff {w : Weft} {p : Path} : w.rejoinDone p = true ↔ ∃ h, p.hold = some h ∧ h.why = .rejoin ∧
    ∀ k, (BitVec.ofNat 16 h.arg &&& ~~~w.exited).getLsbD k = true → ∃ q ∈ w.waiting p.pc, q.mask.getLsbD k = true := by
  unfold Weft.rejoinDone
  cases hp : p.hold with
  | none => simp
  | some h =>
    simp only [Bool.and_eq_true, beq_iff_eq, Option.some.injEq, exists_eq_left', and_congr_right_iff]
    intro _
    refine (and_not_eq_zero_iff _ _).trans (forall₂_congr fun k _ => ?_)
    rw [getLsbD_foldl_or]
    simp

theorem mem_oneFor {q : Path → Bool} {m x : Path} {ps : List Path} :
    x ∈ oneFor q m ps ↔ (x = m ∧ ∃ p ∈ ps, q p = true) ∨ (x ∈ ps ∧ q x = false) := by
  induction ps with
  | nil => simp [oneFor]
  | cons p ps ih =>
    by_cases hp : q p = true
    · simp only [oneFor, hp, if_true, List.mem_cons, List.mem_filter, Bool.not_eq_true']
      constructor
      · rintro (rfl | ⟨hx, hq⟩)
        · exact .inl ⟨rfl, p, .inl rfl, hp⟩
        · exact .inr ⟨.inr hx, hq⟩
      · rintro (⟨rfl, -⟩ | ⟨rfl | hx, hq⟩)
        · exact .inl rfl
        · rw [hp] at hq; cases hq
        · exact .inr ⟨hx, hq⟩
    · have hp : q p = false := by simpa using hp
      simp only [oneFor, hp, Bool.false_eq_true, if_false, List.mem_cons, ih]
      constructor
      · rintro (rfl | ⟨rfl, y, hy, hq⟩ | ⟨hx, hq⟩)
        · exact .inr ⟨.inl rfl, hp⟩
        · exact .inl ⟨rfl, y, .inr hy, hq⟩
        · exact .inr ⟨.inr hx, hq⟩
      · rintro (⟨rfl, y, rfl | hy, hq⟩ | ⟨rfl | hx, hq⟩)
        · rw [hp] at hq; cases hq
        · exact .inr (.inl ⟨rfl, y, hy, hq⟩)
        · exact .inl rfl
        · exact .inr (.inr ⟨hx, hq⟩)

/-- One replaced path that counts no more, and those dropped, lower a count. -/
theorem countP_oneFor_lt {q c : Path → Bool} {m : Path} (hm : c m = false) (hqc : ∀ p, q p = true → c p = true) {ps : List Path}
    (h : ∃ p ∈ ps, q p = true) : (oneFor q m ps).countP c < ps.countP c := by
  induction ps with
  | nil => obtain ⟨p, hp, -⟩ := h; exact absurd hp List.not_mem_nil
  | cons p ps ih =>
    by_cases hp : q p = true
    · simp only [oneFor, hp, if_true, List.countP_cons, hm, hqc p hp, Bool.false_eq_true, if_false]
      exact Nat.lt_succ_of_le List.filter_sublist.countP_le
    · obtain ⟨y, hy, hq⟩ := h
      have hy : y ∈ ps := (List.mem_cons.mp hy).resolve_left fun he => hp (he ▸ hq)
      simp only [oneFor, hp, Bool.false_eq_true, if_false, List.countP_cons]
      exact Nat.add_lt_add_right (ih ⟨y, hy, hq⟩) _

/-- The path that the paths waiting at a PC become, and what the merge leaves. -/
theorem Weft.mergeAt_spec {w : Weft} {pc : Word} (h : ∃ p, p ∈ w.waiting pc) :
    ∃ m : Path, (∀ k, m.mask.getLsbD k = true ↔ ∃ q ∈ w.waiting pc, q.mask.getLsbD k = true) ∧ m.pc = pc + 1 ∧ m.hold = none ∧
      (w.mergeAt pc).paths = oneFor (fun p => p.pc == pc && p.rejoins) m w.paths := by
  obtain ⟨p, hp⟩ := h
  unfold Weft.mergeAt
  cases hw : w.waiting pc with
  | nil => rw [hw] at hp; exact absurd hp List.not_mem_nil
  | cons p0 ps =>
    refine ⟨_, fun k => ?_, ?_, ?_, rfl⟩
    · simp only [getLsbD_foldl_or (fun p => p.mask)]
      simp
    · rfl
    · rfl

/-- A merge changes the paths and the young results alone. -/
theorem Weft.mergeAt_rest (w : Weft) (pc : Word) : w.mergeAt pc = { w with paths := (w.mergeAt pc).paths, young := (w.mergeAt pc).young } := by
  unfold Weft.mergeAt
  dsimp only
  cases w.waiting pc <;> rfl

@[simp] theorem Weft.mergeAt_wid (w : Weft) (pc : Word) : (w.mergeAt pc).wid = w.wid := by rw [Weft.mergeAt_rest]
@[simp] theorem Weft.mergeAt_exited (w : Weft) (pc : Word) : (w.mergeAt pc).exited = w.exited := by rw [Weft.mergeAt_rest]
@[simp] theorem Weft.mergeAt_held (w : Weft) (pc : Word) : (w.mergeAt pc).held = w.held := by rw [Weft.mergeAt_rest]
@[simp] theorem Weft.mergeAt_reg (w : Weft) (pc : Word) (k : RegKey) : (w.mergeAt pc).reg k = w.reg k := by
  rw [Weft.mergeAt_rest]
  exact Weft.reg_congr rfl rfl rfl k

/-- A path that waits nowhere stays through a merge. -/
theorem Weft.mem_mergeAt {w : Weft} {pc : Word} {p : Path} (hw : ∃ q, q ∈ w.waiting pc) (hp : p ∈ w.paths) (hr : ¬(p.pc = pc ∧ p.rejoins = true)) :
    p ∈ (w.mergeAt pc).paths := by
  obtain ⟨m, -, -, -, hm⟩ := Weft.mergeAt_spec hw
  rw [hm, mem_oneFor]
  exact .inr ⟨hp, Bool.eq_false_iff.mpr fun h => hr (by simpa only [Bool.and_eq_true, beq_iff_eq] using h)⟩

/-! ## Every complete rejoin merged -/

theorem State.foldl_later {α : Type} (s : State) (f : α → Instr) (xs : List α) :
    ∃ ag, xs.foldl (fun s x => s.later s.clk (f x)) s = { s with agenda := ag } := by
  induction xs generalizing s with
  | nil => exact ⟨s.agenda, rfl⟩
  | cons x xs ih =>
    obtain ⟨ag, h⟩ := ih (s.later s.clk (f x))
    exact ⟨ag, h⟩

/-- One merge: the weft is merged at the PC of a path whose mask is complete, and memory is as before. -/
theorem State.mergeWeft_succ {s : State} {g w n : Nat} {x : Weft} (hx : s.weft? g w = some x) :
    (∀ p ∈ x.paths, x.rejoinDone p = false) ∧ s.mergeWeft g w (n + 1) = s ∨
    ∃ (p : Path) (u : State), p ∈ x.paths ∧ x.rejoinDone p = true ∧ u.weft? g w = some (x.mergeAt p.pc) ∧ u.mem = s.mem ∧ s.mergeWeft g w (n + 1) = u.mergeWeft g w n := by
  rw [State.mergeWeft]
  simp only [hx]
  cases hf : x.paths.find? fun p => x.rejoinDone p with
  | none => exact .inl ⟨fun p hp => by simpa using List.find?_eq_none.mp hf p hp, rfl⟩
  | some p =>
    obtain ⟨ag, ha⟩ := State.foldl_later s (fun o => .instrComplete g w o) ((x.waiting p.pc).filterMap fun q => q.hold.map fun h => h.out)
    refine .inr ⟨p, _, List.mem_of_find?_eq_some hf, List.find?_some (p := fun p => x.rejoinDone p) hf, ?_, ?_, rfl⟩
    · rw [State.weft?_modWeft _ _ _ (fun x : Weft => x.mergeAt p.pc) fun y hy => (y.mergeAt_wid _).trans hy, ha]
      exact congrArg (Option.map _) hx
    · rw [State.modWeft_mem, ha]

/-- What every merge of a complete rejoin keeps, all of them keep. -/
theorem State.mergeWeft_keeps {P : Weft → Prop} {g w : Nat} (hP : ∀ x p, p ∈ x.paths → x.rejoinDone p = true → P x → P (x.mergeAt p.pc)) (n : Nat)
    {s : State} {x : Weft} (hx : s.weft? g w = some x) (h : P x) :
    ∃ y, (s.mergeWeft g w n).weft? g w = some y ∧ P y ∧ (s.mergeWeft g w n).mem = s.mem := by
  induction n generalizing s x with
  | zero => exact ⟨x, hx, h, rfl⟩
  | succ n ih =>
    obtain ⟨-, he⟩ | ⟨p, u, hp, hd, hu, hm, he⟩ := State.mergeWeft_succ (n := n) hx
    · exact ⟨x, by rw [he, hx], h, by rw [he]⟩
    · obtain ⟨y, hy, hPy, hmy⟩ := ih hu (hP x p hp hd h)
      exact ⟨y, he ▸ hy, hPy, by rw [he, hmy, hm]⟩

/-- A complete path is one of those that wait at its PC. -/
theorem Weft.waiting_of_done {x : Weft} {p : Path} (hp : p ∈ x.paths) (hd : x.rejoinDone p = true) : p ∈ x.waiting p.pc := by
  obtain ⟨h, hh, hw, -⟩ := Weft.rejoinDone_iff.mp hd
  exact Weft.mem_waiting.mpr ⟨hp, rfl, by simp [Path.rejoins, hh, hw]⟩

/-- The threads of `here` have merged into one path that goes on from `pc`. -/
def Weft.Merged (x : Weft) (here : Mask) (pc : Word) : Prop := ∃ p ∈ x.paths, here &&& ~~~p.mask = 0 ∧ p.pc = pc + 1 ∧ p.hold = none

/-- Some path that waits at `pc` is complete, and each thread of `here` waits there. -/
def Weft.Pending (x : Weft) (here : Mask) (pc : Word) : Prop :=
  (∃ p ∈ x.paths, p.pc = pc ∧ x.rejoinDone p = true) ∧ ∀ k, here.getLsbD k = true → ∃ q ∈ x.waiting pc, q.mask.getLsbD k = true

theorem Weft.Merged.keeps {here : Mask} {pc : Word} (x : Weft) (p : Path) (hp : p ∈ x.paths) (hd : x.rejoinDone p = true)
    (h : x.Merged here pc) : (x.mergeAt p.pc).Merged here pc := by
  obtain ⟨q, hq, hmask, hpc, hhold⟩ := h
  exact ⟨q, Weft.mem_mergeAt ⟨p, Weft.waiting_of_done hp hd⟩ hq (by simp [Path.rejoins, hhold]), hmask, hpc, hhold⟩

/-- The merge at another PC leaves those that wait at `pc`. -/
theorem Weft.waiting_mergeAt_other {x : Weft} {pc pc' : Word} (hne : pc' ≠ pc) (hw : ∃ q, q ∈ x.waiting pc') {q : Path} :
    q ∈ (x.mergeAt pc').waiting pc ↔ q ∈ x.waiting pc := by
  obtain ⟨m, -, -, hhold, hm⟩ := Weft.mergeAt_spec hw
  rw [Weft.mem_waiting, Weft.mem_waiting, hm, mem_oneFor]
  constructor
  · rintro ⟨⟨rfl, -⟩ | ⟨hq, -⟩, hpc, hr⟩
    · simp [Path.rejoins, hhold] at hr
    · exact ⟨hq, hpc, hr⟩
  · rintro ⟨hq, hpc, hr⟩
    exact ⟨.inr ⟨hq, by simp [hpc, Ne.symm hne]⟩, hpc, hr⟩

/-- One merge from a state with a complete rejoin at `pc`: it is that one, or it is another and this one stays. -/
theorem Weft.Pending.step {here : Mask} {pc : Word} {x : Weft} (h : x.Pending here pc) {p : Path} (hp : p ∈ x.paths) (hd : x.rejoinDone p = true) :
    (x.mergeAt p.pc).Merged here pc ∨ (x.mergeAt p.pc).Pending here pc := by
  have hw : ∃ q, q ∈ x.waiting p.pc := ⟨p, Weft.waiting_of_done hp hd⟩
  by_cases hpc : p.pc = pc
  · obtain ⟨m, hmask, hmpc, hhold, hm⟩ := Weft.mergeAt_spec hw
    refine .inl ⟨m, ?_, (and_not_eq_zero_iff _ _).mpr fun k hk => (hmask k).mpr (hpc ▸ h.2 k hk), hpc ▸ hmpc, hhold⟩
    rw [hm, mem_oneFor]
    exact .inl ⟨rfl, p, hp, by simpa using (Weft.mem_waiting.mp (Weft.waiting_of_done hp hd)).2⟩
  · obtain ⟨⟨y, hy, rfl, hdy⟩, hhere⟩ := h
    refine .inr ⟨⟨y, Weft.mem_mergeAt hw hy fun hx => hpc hx.1.symm, rfl, ?_⟩, fun k hk => ?_⟩
    · obtain ⟨hold, hh, hwhy, hall⟩ := Weft.rejoinDone_iff.mp hdy
      refine Weft.rejoinDone_iff.mpr ⟨hold, hh, hwhy, fun k hk => ?_⟩
      rw [Weft.mergeAt_exited] at hk
      obtain ⟨q, hq, hbit⟩ := hall k hk
      exact ⟨q, (Weft.waiting_mergeAt_other hpc hw).mpr hq, hbit⟩
    · obtain ⟨q, hq, hbit⟩ := hhere k hk
      exact ⟨q, (Weft.waiting_mergeAt_other hpc hw).mpr hq, hbit⟩

/-- A complete rejoin has merged once every path that waits has had its turn. -/
theorem State.mergeWeft_merges {here : Mask} {pc : Word} {g w : Nat} (n : Nat) {s : State} {x : Weft} (hx : s.weft? g w = some x)
    (h : x.Pending here pc) (hn : x.paths.countP Path.rejoins ≤ n) : ∃ y, (s.mergeWeft g w n).weft? g w = some y ∧ y.Merged here pc := by
  obtain ⟨⟨p0, hp0, -, hd0⟩, -⟩ := id h
  induction n generalizing s x p0 with
  | zero =>
    have hw0 := Weft.mem_waiting.mp (Weft.waiting_of_done hp0 hd0)
    exact absurd (List.countP_pos_iff.mpr ⟨p0, hp0, hw0.2.2⟩) (by omega)
  | succ n ih =>
    obtain ⟨hno, -⟩ | ⟨p, u, hp, hd, hu, -, he⟩ := State.mergeWeft_succ (n := n) hx
    · rw [hno p0 hp0] at hd0; cases hd0
    · rw [he]
      have hw := Weft.waiting_of_done hp hd
      obtain hmerged | hpend := h.step hp hd
      · obtain ⟨y, hy, hm, -⟩ := State.mergeWeft_keeps (fun x p => Weft.Merged.keeps x p) n hu hmerged
        exact ⟨y, hy, hm⟩
      · obtain ⟨⟨p1, hp1, -, hd1⟩, -⟩ := id hpend
        refine ih hu hpend ?_ p1 hp1 hd1
        obtain ⟨m, -, -, hhold, hm⟩ := Weft.mergeAt_spec ⟨p, hw⟩
        rw [hm]
        have := countP_oneFor_lt (q := fun q => q.pc == p.pc && q.rejoins) (c := Path.rejoins) (m := m) (by simp [Path.rejoins, hhold])
          (fun q hq => by simpa using (Bool.and_eq_true_iff.mp hq).2) ⟨p, hp, by simpa using (Weft.mem_waiting.mp hw).2⟩
        omega

end Sys2Proof.Machine
end

section
/-! PROOFS. `rejoin` and `exit` as their paths issue or are tried again (R113, R142, R143). -/

namespace Sys2Proof.Machine

/-! ## rejoin (R142) -/

/-- The threads that stand with a path at its PC: its own and those of the paths that wait there. -/
def Weft.hereAt (w : Weft) (t : Nat) (p : Path) : Mask := ((w.waiting p.pc).filter fun q => !q.mask.getLsbD t).foldl (fun m q => m ||| q.mask) p.mask

theorem Weft.hereAt_getLsbD {w : Weft} {t k : Nat} {p : Path} : (w.hereAt t p).getLsbD k = true ↔
    p.mask.getLsbD k = true ∨ ∃ q ∈ w.waiting p.pc, q.mask.getLsbD t = false ∧ q.mask.getLsbD k = true := by
  simp only [Weft.hereAt, getLsbD_foldl_or (fun q => q.mask), List.mem_filter, Bool.not_eq_true', and_assoc]

theorem length_modIf {α : Type} (p : α → Bool) (f : α → α) (xs : List α) : (modIf p f xs).length = xs.length := by
  induction xs with
  | nil => rfl
  | cons x xs ih => simp only [modIf, List.length_cons, ih]

theorem mem_modIf_other {α : Type} {p : α → Bool} {f : α → α} (hf : ∀ x, p x = true → p (f x) = true) {xs : List α} {x : α} (hp : p x = false) :
    x ∈ modIf p f xs ↔ x ∈ xs := by
  have h := filter_modIf p f hf xs
  have hx : ∀ ys : List α, x ∈ ys ↔ x ∈ ys.filter fun y => !p y := fun ys => by simp [hp]
  rw [hx, h, ← hx]

/-- The path as a `rejoin` holds it. -/
def Ctx.rejoining (d : Ctx) (arg : Nat) (p : Path) : Path :=
  { p with hold := some { why := .rejoin, arg, pmask := 0, out := d.out, sel := d.sel, va := 0 } }

/-- The weft once its path is held at a `rejoin`. -/
theorem State.holdP_rejoin_weft? {t : State} {d : Ctx} (hw : t.weft? d.r.g d.r.w = some d.wf) (hp : d.wf.path? d.r.t = some d.p) (arg : Nat) :
    (t.holdP d .rejoin arg 0).weft? d.r.g d.r.w = some (d.wf.modPath d.r.t (d.rejoining arg)) := by
  rw [← Weft.modRef_path d.wf (Weft.path?_lt hp)]
  refine (State.weft?_modWeft t d.r.g d.r.w (fun w => w.modRef d.r.t (d.rejoining arg)) fun x hx => (x.modRef_wid _ _).trans hx).trans ?_
  rw [hw]
  rfl

theorem Weft.rejoining_mem {d : Ctx} (hp : d.wf.path? d.r.t = some d.p) (arg : Nat) :
    d.rejoining arg d.p ∈ (d.wf.modPath d.r.t (d.rejoining arg)).paths :=
  Weft.mem_of_path? (t := d.r.t) (by rw [Weft.path?_modPath _ _ (d.rejoining arg) fun _ => rfl, hp]; rfl)

/-- A path held at a `rejoin` that names only threads of its own and of those that wait with it is complete. -/
theorem Weft.rejoining_pending {d : Ctx} (hp : d.wf.path? d.r.t = some d.p) {arg : Nat}
    (h : BitVec.ofNat 16 arg &&& ~~~d.wf.exited &&& ~~~d.wf.hereAt d.r.t d.p = 0) :
    (d.wf.modPath d.r.t (d.rejoining arg)).Pending (d.wf.hereAt d.r.t d.p) d.p.pc := by
  have hmem := Weft.rejoining_mem hp arg
  have hhere : ∀ k, (d.wf.hereAt d.r.t d.p).getLsbD k = true →
      ∃ q ∈ (d.wf.modPath d.r.t (d.rejoining arg)).waiting d.p.pc, q.mask.getLsbD k = true := by
    intro k hk
    rcases Weft.hereAt_getLsbD.mp hk with hk | ⟨q, hq, hqt, hqk⟩
    · exact ⟨_, Weft.mem_waiting.mpr ⟨hmem, rfl, rfl⟩, hk⟩
    · obtain ⟨hq, hpc, hr⟩ := Weft.mem_waiting.mp hq
      exact ⟨q, Weft.mem_waiting.mpr ⟨(mem_modIf_other (p := fun q : Path => q.mask.getLsbD d.r.t) (f := d.rejoining arg) (x := q) (fun _ hx => hx) hqt).mpr hq, hpc, hr⟩, hqk⟩
  exact ⟨⟨_, hmem, rfl, Weft.rejoinDone_iff.mpr ⟨_, rfl, rfl, fun k hk => hhere k ((and_not_eq_zero_iff _ _).mp h k hk)⟩⟩, hhere⟩

/-- What a `rejoin` leaves of memory and registers. -/
theorem State.rejoin_rest {t : State} {d : Ctx} (hw : t.weft? d.r.g d.r.w = some d.wf) (hp : d.wf.path? d.r.t = some d.p) (arg n : Nat) :
    ∃ y, ((t.holdP d .rejoin arg 0).mergeWeft d.r.g d.r.w n).weft? d.r.g d.r.w = some y ∧ (∀ k, y.reg k = d.wf.reg k) ∧
      ((t.holdP d .rejoin arg 0).mergeWeft d.r.g d.r.w n).mem = t.mem := by
  obtain ⟨y, hy, hr, hm⟩ := State.mergeWeft_keeps (P := fun w => ∀ k, w.reg k = d.wf.reg k) (fun x p _ _ hx k => (x.mergeAt_reg p.pc k).trans (hx k)) n
    (State.holdP_rejoin_weft? hw hp arg) fun _ => rfl
  exact ⟨y, hy, hr, hm.trans (State.holdP_mem ..)⟩

/-- A `rejoin` whose named threads all stand with it merges. -/
theorem State.rejoin_merges {t : State} {d : Ctx} (hw : t.weft? d.r.g d.r.w = some d.wf) (hp : d.wf.path? d.r.t = some d.p) {arg : Nat}
    (h : BitVec.ofNat 16 arg &&& ~~~d.wf.exited &&& ~~~d.wf.hereAt d.r.t d.p = 0) :
    ∃ y, ((t.holdP d .rejoin arg 0).mergeWeft d.r.g d.r.w d.wf.paths.length).weft? d.r.g d.r.w = some y ∧
      y.Merged (d.wf.hereAt d.r.t d.p) d.p.pc :=
  State.mergeWeft_merges _ (State.holdP_rejoin_weft? hw hp arg) (Weft.rejoining_pending hp h)
    (Nat.le_trans List.countP_le_length (Nat.le_of_eq (length_modIf _ _ _)))

/-- Issue leaves the threads that wait at the path's PC. -/
theorem Raised.hereAt {s t : State} {c d : Ctx} (h : Raised s c d t) : d.wf.hereAt d.r.t d.p = c.wf.hereAt c.r.t c.p := by
  have hcomm (w : Weft) : ((w.waiting c.p.pc).filter fun q => !q.mask.getLsbD c.r.t) =
      (w.paths.filter fun q => !q.mask.getLsbD c.r.t).filter fun q => q.pc == c.p.pc && q.rejoins := by
    rw [Weft.waiting, List.filter_filter, List.filter_filter]
    exact congrArg (List.filter · w.paths) (funext fun q => Bool.and_comm _ _)
  rw [Weft.hereAt, Weft.hereAt, h.pc.2.1, h.pc.1, h.same.1, hcomm, hcomm, h.paths]

theorem Raised.exited {s t : State} {c d : Ctx} (h : Raised s c d t) : d.wf.exited = c.wf.exited := (congrArg Weft.exited h.rest :)
theorem Raised.held {s t : State} {c d : Ctx} (h : Raised s c d t) : d.wf.held = c.wf.held := (congrArg Weft.held h.rest :)
theorem Raised.priv {s t : State} {c d : Ctx} (h : Raised s c d t) : d.wf.priv = c.wf.priv := (congrArg Weft.priv h.rest :)
theorem Raised.seg {s t : State} {c d : Ctx} (h : Raised s c d t) : d.wf.seg = c.wf.seg := (congrArg Weft.seg h.rest :)

/-- Sixteen bits of a register as a number. -/
theorem ofNat_mod_eq_extract (x : Word) : BitVec.ofNat 16 (x.toNat % 65536) = x.extractLsb' 0 16 := by
  apply BitVec.eq_of_toNat_eq
  simp

theorem exec_rejoin (f : Fields) (s : State) : exec (.rejoin f) s = issue .rejoin f (fun c s =>
    if c.sel == 0 then s.finishIdle c
    else (s.holdP c .rejoin (if c.heldAs .rejoin then c.arg else (c.once s f.a).toNat % 65536) 0).mergeWeft c.r.g c.r.w c.wf.paths.length) s := rfl

/-- What an issued `rejoin` does. -/
theorem exec_rejoin_issues {s : State} {f : Fields} {c : Ctx} (h : s.Issues .rejoin f c) (hsel : c.sel ≠ 0) :
    let q := s.issued .rejoin f c
    exec (.rejoin f) s = .next ((q.2.holdP q.1 .rejoin ((q.1.once q.2 f.a).toNat % 65536) 0).mergeWeft q.1.r.g q.1.r.w q.1.wf.paths.length) := by
  intro q
  have hr := h.raised
  refine (exec_rejoin f s).trans ((issue_next h _).trans ?_)
  have hh : (s.issued .rejoin f c).1.heldAs .rejoin = false := by
    simp only [Ctx.heldAs, hr.same.2.2.2.2, h.2.1]
  rw [if_neg (fun he => hsel (hr.same.2.1.symm.trans (beq_iff_eq.mp he))), hh]
  rfl

/-- A treadle runs no `rejoin` and no `exit` (R236). -/
theorem State.Issues.not_treadle {s : State} {i : Form} {f : Fields} {c : Ctx} (h : s.Issues i f c) (hi : ∀ cl, treadleWord cl i f = false) :
    c.isTreadle = false := by
  obtain ⟨-, -, -, hpre⟩ := h
  refine Bool.eq_false_iff.mpr fun ht => ?_
  rw [Ctx.preTrap, ht, hi, if_pos (by decide)] at hpre
  cases hpre

theorem treadleWord_rejoin (cl : Bool) (f : Fields) : treadleWord cl .rejoin f = false := by
  unfold treadleWord
  exact Bool.and_false _

/-- A weft's issue puts the issuing path in the place of every path of its thread. -/
theorem State.issued_path {s : State} {i : Form} {f : Fields} {c : Ctx} (ht : c.isTreadle = false) {p : Path} (hp : p ∈ (s.issued i f c).1.wf.paths) :
    p = (s.issued i f c).1.p ∨ p ∈ c.wf.paths ∧ p.mask.getLsbD c.r.t = false := by
  have key : ∀ (x : Path) (ps : List Path), p ∈ modIf (fun q => q.mask.getLsbD c.r.t) (fun _ => x) ps → p = x ∨ p ∈ ps ∧ p.mask.getLsbD c.r.t = false := by
    intro x ps
    induction ps with
    | nil => exact fun h => absurd h List.not_mem_nil
    | cons y ys ih =>
      intro h
      rcases List.mem_cons.mp h with h | h
      · split at h
        · exact .inl h
        · next hy => exact .inr ⟨h ▸ List.mem_cons_self, by rw [h]; simpa using hy⟩
      · exact (ih h).imp id fun ⟨hm, hb⟩ => ⟨List.mem_cons_of_mem _ hm, hb⟩
  unfold State.issued State.raise at hp ⊢
  rw [if_neg (by simpa using ht)] at hp ⊢
  exact key _ _ hp

/-- No path but the one just held waits, and it names a thread that is not its own: nothing merges. -/
theorem Weft.rejoining_waits {d : Ctx} {arg : Nat} (hothers : ∀ p ∈ d.wf.paths, p = d.p ∨ p.hold = none ∧ p.mask.getLsbD d.r.t = false)
    (hp : d.p.mask.getLsbD d.r.t = true) (h : BitVec.ofNat 16 arg &&& ~~~d.wf.exited &&& ~~~d.p.mask ≠ 0) :
    ∀ p ∈ (d.wf.modPath d.r.t (d.rejoining arg)).paths, (d.wf.modPath d.r.t (d.rejoining arg)).rejoinDone p = false := by
  have hpaths : ∀ p ∈ (d.wf.modPath d.r.t (d.rejoining arg)).paths, p = d.rejoining arg d.p ∨ p.hold = none := by
    have key : ∀ ps : List Path, (∀ p ∈ ps, p = d.p ∨ p.hold = none ∧ p.mask.getLsbD d.r.t = false) →
        ∀ p ∈ modIf (fun q => q.mask.getLsbD d.r.t) (d.rejoining arg) ps, p = d.rejoining arg d.p ∨ p.hold = none := by
      intro ps
      induction ps with
      | nil => exact fun _ p hp => absurd hp List.not_mem_nil
      | cons y ys ih =>
        intro hy
        obtain ⟨hy, hys⟩ := List.forall_mem_cons.mp hy
        refine List.forall_mem_cons.mpr ⟨?_, ih hys⟩
        rcases hy with rfl | ⟨hhold, hbit⟩
        · exact .inl (if_pos hp)
        · right; rw [if_neg (by simp [hbit])]; exact hhold
    exact key _ hothers
  intro p hpm
  rw [Bool.eq_false_iff]
  intro hd
  obtain ⟨hold, hh, -, hall⟩ := Weft.rejoinDone_iff.mp hd
  rcases hpaths p hpm with rfl | hnone
  · refine h ((and_not_eq_zero_iff _ _).mpr fun k hk => ?_)
    cases hh
    obtain ⟨q, hq, hbit⟩ := hall k hk
    obtain ⟨hqm, -, hr⟩ := Weft.mem_waiting.mp hq
    rcases hpaths q hqm with rfl | hqn
    · exact hbit
    · simp [Path.rejoins, hqn] at hr
  · rw [hnone] at hh; cases hh

/-- Settles O26: the path is held with its mask, and every complete rejoin of the weft merges in its turn. -/
theorem rejoinMerges : Obligations.RejoinMerges := by
  intro s f c hsel here ends completes q named
  have hnamed (x : Word) : BitVec.ofNat 16 (x.toNat % 65536) = x.extractLsb' 0 16 := ofNat_mod_eq_extract x
  refine ⟨fun h hn => ?_, fun h hheld hn => ?_, fun h hothers hn => ?_⟩
  · have hr := h.raised
    have hw : q.2.weft? q.1.r.g q.1.r.w = some q.1.wf := by rw [hr.same.1]; exact hr.weft
    have hp : q.1.wf.path? q.1.r.t = some q.1.p := by rw [hr.same.1]; exact hr.path
    obtain ⟨y, hy, p, hpm, hmask, hpc, hhold⟩ := State.rejoin_merges hw hp (arg := (q.1.once q.2 f.a).toNat % 65536)
      (by rw [hr.hereAt, hr.exited, hnamed]; exact hn)
    obtain ⟨y', hy', hreg, hmem⟩ := State.rejoin_rest hw hp ((q.1.once q.2 f.a).toNat % 65536) q.1.wf.paths.length
    obtain rfl : y = y' := Option.some.inj (hy.symm.trans hy')
    exact ⟨_, y, ⟨exec_rejoin_issues h hsel, hr.same.1 ▸ hy, hmem.trans hr.mem_eq, fun k => (hreg k).trans (hr.reg k)⟩,
      p, hpm, by rw [← hmask, hr.hereAt]; rfl, by rw [hpc, hr.pc.2.1], hhold⟩
  · obtain ⟨-, -, hw, hp, -, -⟩ := State.issuing_spec h.1
    have hp := hp h.2.2
    have hbody : exec (.rejoin f) s = .next ((s.ticked.holdP c .rejoin c.arg 0).mergeWeft c.r.g c.r.w c.wf.paths.length) := by
      refine (exec_rejoin f s).trans ((issue_resume h _).trans ?_)
      rw [if_neg (fun he => hsel (beq_iff_eq.mp he)), hheld]
      rfl
    obtain ⟨y, hy, p, hpm, hmask, hpc, hhold⟩ := State.rejoin_merges (t := s.ticked) hw hp hn
    obtain ⟨y', hy', hreg, hmem⟩ := State.rejoin_rest (t := s.ticked) hw hp c.arg c.wf.paths.length
    obtain rfl : y = y' := Option.some.inj (hy.symm.trans hy')
    exact ⟨_, y, ⟨hbody, hy, hmem, hreg⟩, p, hpm, hmask, hpc, hhold⟩
  · have hr := h.raised
    have ht := h.not_treadle (treadleWord_rejoin · f)
    have hw : q.2.weft? q.1.r.g q.1.r.w = some q.1.wf := by rw [hr.same.1]; exact hr.weft
    have hp : q.1.wf.path? q.1.r.t = some q.1.p := by rw [hr.same.1]; exact hr.path
    have hwaits := Weft.rejoining_waits (d := q.1) (arg := (q.1.once q.2 f.a).toNat % 65536) (fun p hpm => by
        rcases State.issued_path ht hpm with rfl | ⟨hpm, hbit⟩
        · exact .inl rfl
        · refine .inr ⟨(hothers p hpm).resolve_left fun he => ?_, by rwa [hr.same.1]⟩
          subst he
          rw [← hr.pc.1, Weft.path?_mask hr.path] at hbit
          cases hbit)
      (Weft.path?_mask hp) (by rw [hr.exited, hnamed, hr.pc.1]; exact hn)
    have hstay : (q.2.holdP q.1 .rejoin ((q.1.once q.2 f.a).toNat % 65536) 0).mergeWeft q.1.r.g q.1.r.w q.1.wf.paths.length =
        q.2.holdP q.1 .rejoin ((q.1.once q.2 f.a).toNat % 65536) 0 := by
      cases q.1.wf.paths.length with
      | zero => rfl
      | succ n =>
        obtain ⟨-, he⟩ | ⟨p, u, hpm, hd, -⟩ := State.mergeWeft_succ (n := n) (State.holdP_rejoin_weft? hw hp ((q.1.once q.2 f.a).toNat % 65536))
        · exact he
        · rw [hwaits p hpm] at hd; cases hd
    refine ⟨_, q.1.wf.modPath q.1.r.t (q.1.rejoining ((q.1.once q.2 f.a).toNat % 65536)), ⟨(exec_rejoin_issues h hsel).trans (congrArg _ hstay), hr.same.1 ▸ State.holdP_rejoin_weft? hw hp _,
      (State.holdP_mem ..).trans hr.mem_eq, hr.reg⟩, _, Weft.rejoining_mem hp _, hr.pc.1, hr.pc.2.1, rfl⟩

/-! ## exit (R143) -/

/-- A change of a group that keeps its names, its unit and its wefts leaves every weft. -/
theorem State.weft?_modGroup (s : State) (g : Nat) (f : Group → Group)
    (hf : ∀ G, (f G).uid = G.uid ∧ (f G).unit = G.unit ∧ (f G).wefts = G.wefts ∧ (f G).trd.weft = G.trd.weft) (h w : Nat) :
    (s.modGroup g f).weft? h w = s.weft? h w := by
  unfold State.weft?
  by_cases hh : h = g
  · subst hh
    rw [State.group?_modGroup _ _ _ fun G => (hf G).1]
    cases s.group? h with
    | none => rfl
    | some G =>
      obtain ⟨-, h2, h3, h4⟩ := hf G
      simp only [Option.map_some, h2, h3, h4, State.party?_modGroup]
  · rw [State.group?_modGroup_other _ _ (fun G => (hf G).1) hh]
    rfl

theorem State.party?_modParty_other (s : State) {u v : Nat} (f : Party → Party) (hf : ∀ P, (f P).uid = P.uid) (hv : v ≠ u) :
    (s.modParty u f).party? v = s.party? v := by
  refine find?_modIf_other _ _ f (fun x hx => ?_) (fun x hx => ?_) s.units
  · simp only [hf, beq_iff_eq, beq_eq_false_iff_ne, ne_eq] at hx ⊢; omega
  · simp only [beq_iff_eq, beq_eq_false_iff_ne, ne_eq] at hx ⊢; omega

/-- A change of a unit that keeps its name and its treadle's weft leaves every weft. -/
theorem State.weft?_modParty (s : State) (u : Nat) (f : Party → Party) (hf : ∀ P, (f P).uid = P.uid ∧ (f P).trd.weft = P.trd.weft) (h w : Nat) :
    (s.modParty u f).weft? h w = s.weft? h w := by
  have hparty (v : Nat) : ((s.modParty u f).party? v).map (fun P => P.trd.weft) = (s.party? v).map fun P => P.trd.weft := by
    by_cases hv : v = u
    · subst hv
      rw [State.party?_modParty _ _ _ fun P => (hf P).1]
      cases s.party? v with
      | none => rfl
      | some P => exact congrArg some (hf P).2
    · rw [State.party?_modParty_other _ _ (fun P => (hf P).1) hv]
  unfold State.weft?
  rw [State.group?_modParty]
  cases s.group? h with
  | none => rfl
  | some G =>
    cases hu : G.unit with
    | none => simp only [hu]
    | some v =>
      have := hparty v
      cases h1 : (s.modParty u f).party? v <;> cases h2 : s.party? v <;> simp_all

/-- Two states with the same wefts and the same memory. -/
def State.SameWefts (s t : State) : Prop := (∀ h v, t.weft? h v = s.weft? h v) ∧ t.mem = s.mem

theorem State.SameWefts.trans {s t u : State} (h1 : s.SameWefts t) (h2 : t.SameWefts u) : s.SameWefts u :=
  ⟨fun h v => (h2.1 h v).trans (h1.1 h v), h2.2.trans h1.2⟩

/-- A change of a unit, if there is one, that keeps its name and its treadle's weft. -/
theorem State.sameWefts_onParty (s : State) (u : Option Nat) {f : State → Party → Party → Party} (hf : ∀ P Q, (f s P Q).uid = Q.uid ∧ (f s P Q).trd.weft = Q.trd.weft) :
    s.SameWefts (match u with | none => s | some u => match s.party? u with | none => s | some P => s.modParty u (f s P)) := by
  split
  · exact ⟨fun _ _ => rfl, rfl⟩
  · next u =>
    split
    · exact ⟨fun _ _ => rfl, rfl⟩
    · next P _ => exact ⟨s.weft?_modParty u _ (hf P), s.modParty_mem u _⟩

/-- The arrival of an exited weft changes barriers alone. -/
theorem State.exitArrives_sameWefts (s : State) (g w : Nat) : s.SameWefts (s.exitArrives g w) := by
  unfold State.exitArrives
  split
  · exact ⟨fun _ _ => rfl, rfl⟩
  · next G _ =>
    have h1 : s.SameWefts (s.modGroup g fun G => { G with bars := G.bars.map fun b => b.arrive (g, w) (exitedWefts [G]) }) :=
      ⟨s.weft?_modGroup g _ fun _ => ⟨rfl, rfl, rfl, rfl⟩, s.modGroup_mem g _⟩
    exact (h1.trans (State.sameWefts_onParty _ G.unit (f := fun s P Q => { Q with cbars := Q.cbars.map fun b => if b.party.isNone then b.join (g, w) else b.arrive (g, w) (s.partyGone P) }) fun _ _ => ⟨rfl, rfl⟩)).trans
      (State.sameWefts_onParty _ G.grid (f := fun s P Q => { Q with gbar := Q.gbar.arrive (g, w) (s.partyGone P) }) fun _ _ => ⟨rfl, rfl⟩)

/-- A path at the next instruction. -/
def Path.onward (p : Path) : Path := { p with pc := p.pc + 1, hold := none }

/-- The weft once some of a path's threads have exited, and the others gone on. -/
def Ctx.exitWeft (d : Ctx) (w : Weft) : Weft :=
  { w with exited := w.exited ||| d.sel,
           paths := ((modIf (fun p => p.mask.getLsbD d.r.t) Path.onward w.paths).map fun p =>
             { p with mask := p.mask &&& ~~~d.sel }).filter fun p => p.mask != 0 }

/-- What an exit makes of its weft, whatever then merges. -/
def Ctx.Exited (d : Ctx) (w x : Weft) : Prop :=
  x.exited = w.exited ||| d.sel ∧ x.held = w.held ∧ (∀ p ∈ x.paths, p.mask &&& d.sel = 0) ∧
  (∀ k, d.p.mask.getLsbD k = true → d.sel.getLsbD k = false → ∃ p ∈ x.paths, p.mask.getLsbD k = true ∧ p.pc = d.p.pc + 1 ∧ p.hold = none) ∧
  ∀ k, x.reg k = w.reg k

theorem Ctx.exited_exitWeft {d : Ctx} {w : Weft} (hp : w.path? d.r.t = some d.p) : d.Exited w (d.exitWeft w) := by
  refine ⟨rfl, rfl, fun p hpm => ?_, fun k hk hs => ?_, fun k => Weft.reg_congr rfl rfl rfl k⟩
  · obtain ⟨q, -, rfl⟩ := List.mem_map.mp (List.mem_filter.mp hpm).1
    simp [BitVec.and_assoc]
  · have hmem : d.p.onward ∈ (w.modPath d.r.t Path.onward).paths :=
      Weft.mem_of_path? (t := d.r.t) (by rw [Weft.path?_modPath _ _ Path.onward fun _ => rfl, hp]; rfl)
    have hbit : (d.p.mask &&& ~~~d.sel).getLsbD k = true := by
      have hlt : k < 16 := by
        refine Decidable.byContradiction fun hn => ?_
        rw [BitVec.getLsbD_of_ge _ _ (by omega)] at hk
        cases hk
      rw [BitVec.getLsbD_and, BitVec.getLsbD_not, hk, hs]
      simpa using hlt
    refine ⟨_, List.mem_filter.mpr ⟨List.mem_map.mpr ⟨_, hmem, rfl⟩, ?_⟩, hbit, rfl, rfl⟩
    simp only [bne_iff_ne, ne_eq]
    intro h0
    rw [show d.p.mask &&& ~~~d.sel = 0 from h0] at hbit
    simp at hbit

/-- A merge keeps what an exit has made. -/
theorem Ctx.Exited.mergeAt {d : Ctx} {w x : Weft} {p : Path} (hp : p ∈ x.paths) (hd : x.rejoinDone p = true) (h : d.Exited w x) :
    d.Exited w (x.mergeAt p.pc) := by
  obtain ⟨hex, hheld, hnone, hgo, hreg⟩ := h
  have hw : ∃ q, q ∈ x.waiting p.pc := ⟨p, Weft.waiting_of_done hp hd⟩
  refine ⟨(x.mergeAt_exited _).trans hex, (x.mergeAt_held _).trans hheld, fun q hq => ?_, fun k hk hs => ?_, fun k => (x.mergeAt_reg _ k).trans (hreg k)⟩
  · obtain ⟨m, hmask, -, -, hm⟩ := Weft.mergeAt_spec hw
    rw [hm, mem_oneFor] at hq
    rcases hq with ⟨rfl, -⟩ | ⟨hq, -⟩
    · refine BitVec.eq_of_getLsbD_eq fun k _ => ?_
      rw [BitVec.getLsbD_and]
      cases hk : q.mask.getLsbD k with
      | false => simp
      | true =>
        obtain ⟨r, hr, hbit⟩ := (hmask k).mp hk
        have := congrArg (·.getLsbD k) (hnone r (Weft.mem_waiting.mp hr).1)
        simpa [hbit] using this
    · exact hnone q hq
  · obtain ⟨q, hq, hbit, hpc, hhold⟩ := hgo k hk hs
    exact ⟨q, Weft.mem_mergeAt hw hq (by simp [Path.rejoins, hhold]), hbit, hpc, hhold⟩

/-- Once a weft has no live thread its blocks are released; nothing else of it changes (R113). -/
theorem State.weftExited_weft {s : State} {g w : Nat} {x : Weft} (hx : s.weft? g w = some x) :
    (s.weftExited g w).weft? g w = some { x with held := if x.exited == 0xFFFF then 0 else x.held } ∧ (s.weftExited g w).mem = s.mem := by
  unfold State.weftExited
  rw [hx]
  dsimp only
  split
  · obtain ⟨hw, hm⟩ := (s.modWeft g w fun x => { x with held := 0 }).exitArrives_sameWefts g w
    refine ⟨(hw g w).trans ?_, hm.trans (s.modWeft_mem ..)⟩
    rw [State.weft?_modWeft _ _ _ (fun x : Weft => { x with held := 0 }) fun _ hx => hx, hx]
    rfl
  · exact ⟨hx, rfl⟩

/-- What `exit` makes of its weft. -/
theorem State.exitThreads_weft {s : State} {d : Ctx} (hw : s.weft? d.r.g d.r.w = some d.wf) (hp : d.wf.path? d.r.t = some d.p) :
    ∃ x, (s.exitThreads d).weft? d.r.g d.r.w = some { x with held := if x.exited == 0xFFFF then 0 else x.held } ∧ d.Exited d.wf x ∧ (s.exitThreads d).mem = s.mem := by
  have h1 : ((s.modW d d.exitWeft).completeAt d (d.p.last + 6)).weft? d.r.g d.r.w = some (d.exitWeft d.wf) := by
    refine (State.completeAt_weft? ..).trans ((State.weft?_modWeft s d.r.g d.r.w d.exitWeft fun _ hx => hx).trans ?_)
    rw [hw]
    rfl
  obtain ⟨x, hx, hE, hm⟩ := State.mergeWeft_keeps (P := d.Exited d.wf) (fun x p hp hd h => h.mergeAt hp hd) d.wf.paths.length h1 (Ctx.exited_exitWeft hp)
  obtain ⟨hxw, hxm⟩ := State.weftExited_weft hx
  exact ⟨x, hxw, hE, hxm.trans (hm.trans ((State.completeAt_mem ..).trans (s.modWeft_mem ..)))⟩

theorem exec_exit (f : Fields) (s : State) : exec (.exit f) s = issue .exit f (fun c s => if c.sel == 0 then s.finishIdle c else s.exitThreads c) s := rfl

/-- Settles O27: the selected threads leave every path, what merges then keeps that, and the weft's own blocks go once it has no live thread. -/
theorem exitEnds : Obligations.ExitEnds := by
  intro s f c h
  refine ⟨fun hsel => Computes.idle h rfl ((exec_exit f s).trans ((issue_next h _).trans ?_)), fun hsel => ?_⟩
  · rw [if_pos (beq_iff_eq.mpr (h.raised.same.2.1.trans hsel))]
  have hr := h.raised
  have hexec : exec (.exit f) s = .next ((s.issued .exit f c).2.exitThreads (s.issued .exit f c).1) := by
    refine (exec_exit f s).trans ((issue_next h _).trans ?_)
    rw [if_neg fun he => hsel (hr.same.2.1.symm.trans (beq_iff_eq.mp he))]
  obtain ⟨x, hx, ⟨hex, hheld, hnone, hgo, hreg⟩, hm⟩ := State.exitThreads_weft (s := (s.issued .exit f c).2) (d := (s.issued .exit f c).1)
    (by rw [hr.same.1]; exact hr.weft) (by rw [hr.same.1]; exact hr.path)
  rw [hr.same.1] at hx
  rw [hr.same.2.1] at hex hnone hgo
  rw [hr.exited] at hex
  rw [hr.held] at hheld
  rw [hr.pc.1, hr.pc.2.1] at hgo
  refine ⟨_, _, hexec, hx, hm.trans hr.mem_eq, hex, hnone, hgo, fun h16 => if_pos (beq_iff_eq.mpr h16), fun h16 => ?_, fun k => (hreg k).trans (hr.reg k)⟩
  exact (if_neg fun he => h16 (beq_iff_eq.mp he)).trans hheld

end Sys2Proof.Machine
end

section
/-! PROOFS. INSTR_COMPLETE (R127 to R129). -/

namespace Sys2Proof.Machine

/-- The weft once an outstanding instruction has completed. -/
def Weft.completed (w : Weft) (o : Out) (n : Nat) : Weft :=
  let w1 := (o.writes.map fun x => (x.key, x.val)).foldl (fun w x => w.setReg x.1 x.2) w
  { w1 with outs := w1.outs.filter (fun x => x.n != n), moved := if o.tl == 0 then w1.moved else w1.moved ++ [n], ld := w1.ld - o.ld, st := w1.st - o.st, tl := w1.tl - o.tl,
            flags := if o.setf < 12 then Sparse.put w1.flags o.setf (Sparse.get w1.flags o.setf - 1) else w1.flags }

/-- A write that nothing contests is made. -/
theorem foldl_put_uncontested {wr : List RegWrite} (stands : RegWrite → Bool) (h : ∀ x ∈ wr, stands x = true) (w : Weft) :
    wr.foldl (fun w x => if stands x then w.setReg x.key x.val else w) w = (wr.map fun x => (x.key, x.val)).foldl (fun w x => w.setReg x.1 x.2) w := by
  induction wr generalizing w with
  | nil => rfl
  | cons x xs ih =>
    rw [List.foldl_cons, List.map_cons, List.foldl_cons, if_pos (h x List.mem_cons_self), ih fun y hy => h y (List.mem_cons_of_mem _ hy)]

theorem exec_instrComplete (s : State) (g w n : Nat) : exec (.instrComplete g w n) s = .next (s.instrComplete g w n) := rfl

theorem State.instrComplete_weft {s : State} {g k n : Nat} {w : Weft} {o : Out} (hw : s.weft? g k = some w)
    (ho : w.outs.find? (fun x => x.n == n) = some o) (hc : ∀ x ∈ o.writes, x.contested = false) :
    (s.instrComplete g k n).weft? g k = some (w.completed o n) ∧ (s.instrComplete g k n).mem = s.mem := by
  have hstands (x : RegWrite) (hx : x ∈ o.writes) : (!x.contested || Config.lateWrite s.tick x.key.code) = true := by rw [hc x hx]; rfl
  have hput := fun w => foldl_put_uncontested (fun x => !x.contested || Config.lateWrite s.tick x.key.code) hstands w
  unfold State.instrComplete
  simp only [hw, ho]
  refine ⟨?_, s.ticked.modWeft_mem ..⟩
  simp only [hput]
  refine (State.weft?_modWeft s.ticked g k (fun x => x.completed o n) fun x hx => (Weft.foldl_setReg_wid _ _).trans hx).trans ?_
  exact congrArg (Option.map _) hw

/-- Settles O30: the completed weft's fields, one by one. -/
theorem completionWrites : Obligations.CompletionWrites := by
  intro s g n w o hw _ ho hwr
  obtain ⟨h1, hm⟩ := State.instrComplete_weft hw ho fun x hx => (hwr x hx).2
  have hrest := Weft.foldl_setReg_rest (o.writes.map fun x => (x.key, x.val)) w
  have hreg (k : RegKey) (hk : k.ok = true) := Weft.reg_foldl_setReg (o.writes.map fun x => (x.key, x.val)) (fun x hx => by
    obtain ⟨y, hy, rfl⟩ := List.mem_map.mp hx
    exact (hwr y hy).1) w hk
  refine ⟨_, _, exec_instrComplete .., h1, hm, hreg, fun x hx => ?_, ?_, ?_, ?_, ?_, fun k => ?_⟩
  · simpa using (List.mem_filter.mp hx).2
  all_goals simp only [Weft.completed]; rw [hrest]
  show Sparse.get (if o.setf < 12 then Sparse.put w.flags o.setf (Sparse.get w.flags o.setf - 1) else w.flags) k = _
  by_cases h12 : o.setf < 12
  · rw [if_pos h12, Sparse.get_put]
    by_cases hk : k = o.setf
    · subst hk
      simp [h12]
    · rw [if_neg hk, if_neg (by omega)]
  · rw [if_neg h12, if_neg (by omega)]

end Sys2Proof.Machine
end

section
/-! PROOFS. The end of an issue with late results (R125, R127), and the entry and the return of supervisor mode (R406). -/

namespace Sys2Proof.Machine

theorem State.writeLate_agenda (s : State) (c : Ctx) (ws : List (RegKey × Word)) : (s.writeLate c ws).agenda = s.agenda := by
  unfold State.writeLate
  split <;> exact State.modWeft_agenda ..

theorem Weft.path?_of_not_lt (w : Weft) {t : Nat} (ht : ¬t < 16) : w.path? t = none := by
  cases h : w.path? t with
  | none => rfl
  | some p => exact absurd (Weft.path?_lt h) ht

/-- A path that goes on, whether or not the thread names one. -/
theorem Weft.path?_modRef_onward (w : Weft) (t : Nat) :
    ((w.modRef t Path.onward).path? t).map (fun p => (p.pc, p.hold)) = (w.path? t).map (fun p => (p.pc + 1, none)) := by
  by_cases ht : t < 16
  · rw [Weft.modRef_path w ht, Weft.path?_modPath _ _ Path.onward (fun _ => rfl)]
    cases w.path? t <;> rfl
  · rw [Weft.path?_of_not_lt _ ht, Weft.path?_of_not_lt _ ht]
    rfl

theorem Weft.modRef_outs (w : Weft) (t : Nat) (f : Path → Path) : (w.modRef t f).outs = w.outs := by unfold Weft.modRef; split <;> rfl
theorem Weft.modRef_reg (w : Weft) (t : Nat) (f : Path → Path) (k : RegKey) : (w.modRef t f).reg k = w.reg k := by
  unfold Weft.modRef; split <;> exact Weft.reg_congr rfl rfl rfl k

theorem Frame.finishLate (s : State) (c : Ctx) (ws : List (RegKey × Word)) : Frame s (s.finishLate c ws) c :=
  ((Frame.writeLate s c ws).trans (Frame.advance _ c)).trans (Frame.completeAt _ c _)

/-- Settles O36: the writes go to the outstanding record, then the path goes on and the completion is due. -/
theorem lateResults : Obligations.LateResults := by
  intro u c w ws ht hw ho hws t
  obtain ⟨x, hx, hpaths, -, hlate, -⟩ := State.writeLate_weft? hw ws hws fun _ => ho
  obtain ⟨hreg, o, hom, hon, how⟩ := hlate ht
  refine ⟨State.finishLate_mem .., ?_, Frame.finishLate u c ws, x.modRef c.r.t Path.onward, ?_, fun k => (x.modRef_reg _ _ k).trans (hreg k), ?_,
    o, (x.modRef_outs _ _).symm ▸ hom, hon, how⟩
  · show (State.completeAt _ c u.clk).agenda = _
    rw [State.completeAt, if_neg (by simp [ht])]
    exact congrArg (· ++ _) ((State.modWeft_agenda ..).trans (u.writeLate_agenda c ws))
  · exact (State.completeAt_weft? ..).trans (State.advance_weft? hx)
  · rw [x.path?_modRef_onward]
    simp only [Weft.path?, hpaths]

/-! ## svc and eret -/

theorem exec_svc (f : Fields) (s : State) : exec (.svc f) s = issue .svc f (fun c s =>
    if c.sel == 0 then s.finishIdle c else if !c.whole then s.trap c .operand 32 else if c.priv then s.trap c .operand 33
    else (s.enterSupervisor c (c.once s f.a &&& 0xFFF)).completeAt c s.clk) s := rfl
theorem exec_eret (f : Fields) (s : State) : exec (.eret f) s = issue .eret f (fun c s =>
    if c.sel == 0 then s.finishIdle c else if !c.whole then s.trap c .operand 32 else (s.leaveSupervisor c).completeAt c s.clk) s := rfl

theorem Raised.whole {s t : State} {c d : Ctx} (h : Raised s c d t) : d.whole = c.whole := by
  simp only [Ctx.whole, h.pc.1, h.exited]

/-- The weft in the supervisor segment. -/
def Weft.entered (w : Weft) (pc : Word) (base : DWord) (code : Word) : Weft :=
  { w with epc := pc + 1, eseg := w.seg, ecode := code, priv := true, seg := base, paths := w.paths.map fun p => { p with pc := code, hold := none, line := none } }

/-- The weft back in user mode. -/
def Weft.returned (w : Weft) : Weft :=
  { w with priv := false, seg := w.eseg, paths := w.paths.map fun p => { p with pc := w.epc, hold := none, line := none } }

theorem State.enterSupervisor_eq (s : State) (c : Ctx) (code : Word) :
    s.enterSupervisor c code = s.modW c fun w => w.entered c.p.pc (s.ctx c.dev c.ctx).svcbase code := rfl
theorem State.leaveSupervisor_eq (s : State) (c : Ctx) : s.leaveSupervisor c = s.modW c Weft.returned := rfl

theorem State.completeAt_ctxs (s : State) (c : Ctx) (n : Nat) : (s.completeAt c n).ctxs = s.ctxs := by
  unfold State.completeAt
  split <;> rfl

/-- What an instruction that changes its weft alone, and then completes, leaves. -/
theorem Raised.modW_completeAt {s t : State} {c d : Ctx} (h : Raised s c d t) {f : Weft → Weft} (hf : ∀ w, (f w).wid = w.wid) (n : Nat) :
    ((t.modW d f).completeAt d n).weft? c.r.g c.r.w = some (f d.wf) ∧ ((t.modW d f).completeAt d n).mem = s.mem ∧
      ((t.modW d f).completeAt d n).ctxs = s.ctxs := by
  refine ⟨(State.completeAt_weft? ..).trans ?_, ?_, ?_⟩
  · rw [State.modW, h.same.1, State.weft?_modWeft _ _ _ f fun x hx => (hf x).trans hx, h.weft]
    rfl
  · rw [State.completeAt_mem, State.modW, State.modWeft_mem, h.mem_eq]
  · rw [State.completeAt_ctxs, State.modW, State.modWeft_ctxs]
    exact (congrArg State.ctxs h.frame.rest :)

/-- Settles O32: each of the two changes its weft alone. -/
theorem supervisorEntry : Obligations.SupervisorEntry := by
  intro s f c hsel ht hwhole
  refine ⟨fun h hpriv => ?_, fun h => ?_⟩
  · have hr := h.raised
    have hctx : (s.issued .svc f c).2.ctx (s.issued .svc f c).1.dev (s.issued .svc f c).1.ctx = s.ctx c.dev c.ctx := by
      rw [Ctx.dev, Ctx.ctx, hr.same.2.2.1]
      exact hr.frame.ctx_eq ..
    intro q code
    obtain ⟨hw, hm, hc⟩ := hr.modW_completeAt (f := fun w => w.entered q.1.p.pc (q.2.ctx q.1.dev q.1.ctx).svcbase code) (fun _ => rfl) q.2.clk
    refine ⟨_, _, (exec_svc f s).trans ((issue_next h _).trans ?_), hw, hm, hc, ?_, hr.seg, rfl, rfl, congrArg Context.svcbase hctx, fun p hp => ?_, fun k => ?_⟩
    · rw [if_neg fun he => hsel (hr.same.2.1.symm.trans (beq_iff_eq.mp he)), hr.whole, Ctx.whole, hwhole, if_neg (by decide), Ctx.priv, hr.priv, hpriv,
        if_neg (by decide)]
      rfl
    · exact congrArg (· + 1) hr.pc.2.1
    · obtain ⟨x, -, rfl⟩ := List.mem_map.mp hp
      exact ⟨rfl, rfl⟩
    · exact (Weft.reg_congr rfl rfl rfl k).trans (hr.reg k)
  · have hr := h.raised
    obtain ⟨hw, hm, hc⟩ := hr.modW_completeAt (f := Weft.returned) (fun _ => rfl) (s.issued .eret f c).2.clk
    refine ⟨_, _, (exec_eret f s).trans ((issue_next h _).trans ?_), hw, hm, hc, rfl, (congrArg Weft.eseg hr.rest :), fun p hp => ?_, fun k => ?_⟩
    · rw [if_neg fun he => hsel (hr.same.2.1.symm.trans (beq_iff_eq.mp he)), hr.whole, Ctx.whole, hwhole, if_neg (by decide)]
      rfl
    · obtain ⟨x, -, rfl⟩ := List.mem_map.mp hp
      exact ⟨(congrArg Weft.epc hr.rest :), rfl⟩
    · exact (Weft.reg_congr rfl rfl rfl k).trans (hr.reg k)

end Sys2Proof.Machine
end

section
/-! PROOFS. `sleep`, `beamwait` and `trywait`, and the steps that let them go (R145, R146, R212). -/

namespace Sys2Proof.Machine

/-! ## Words that do nothing without a selected thread -/

/-- The meaning of a word that only goes on where no thread is selected. -/
def whereSelected (body : Ctx → State → State) (c : Ctx) (s : State) : State := if c.sel == 0 then s.finishIdle c else body c s

theorem whereSelected_of_ne {body : Ctx → State → State} {c : Ctx} {s : State} (h : c.sel ≠ 0) : whereSelected body c s = body c s :=
  if_neg fun he => h (beq_iff_eq.mp he)

theorem issue_next_selected {s : State} {i : Form} {f : Fields} {c : Ctx} (h : s.Issues i f c) (hsel : c.sel ≠ 0) (body : Ctx → State → State) :
    issue i f (whereSelected body) s = .next (body (s.issued i f c).1 (s.issued i f c).2) := by
  rw [issue_next h, whereSelected_of_ne]
  rw [h.raised.same.2.1]
  exact hsel

theorem issue_resume_selected {s : State} {i : Form} {f : Fields} {c : Ctx} (h : s.Resumes f c) (hsel : c.sel ≠ 0) (body : Ctx → State → State) :
    issue i f (whereSelected body) s = .next (body c s.ticked) := by
  rw [issue_resume h, whereSelected_of_ne hsel]

theorem Raised.dev {s t : State} {c d : Ctx} (h : Raised s c d t) : d.dev = c.dev := congrArg Group.dev h.same.2.2.1
theorem Raised.heldAs {s t : State} {c d : Ctx} (h : Raised s c d t) (why : Why) : d.heldAs why = c.heldAs why := by
  simp only [Ctx.heldAs, h.same.2.2.2.2]
theorem Raised.devClk {s t : State} {c d : Ctx} (h : Raised s c d t) (k : Nat) : t.devClk k = s.devClk k := by
  rw [h.frame.rest]
  rfl
theorem Raised.clk {s t : State} {c d : Ctx} (h : Raised s c d t) : t.clk = s.clk := (congrArg State.clk h.frame.rest :)

theorem Ctx.heldAs_none {c : Ctx} (h : c.hold = none) (why : Why) : c.heldAs why = false := by
  rw [Ctx.heldAs, h]

theorem State.Issues.heldAs {s : State} {i : Form} {f : Fields} {c : Ctx} (h : s.Issues i f c) (why : Why) : (s.issued i f c).1.heldAs why = false :=
  (h.raised.heldAs why).trans (Ctx.heldAs_none h.2.1 why)

/-- What is issued stands at its word, held by nothing. -/
theorem State.Issues.stands {s : State} {i : Form} {f : Fields} {c : Ctx} (h : s.Issues i f c) :
    (s.issued i f c).2.Stands (s.issued i f c).1 c.p.pc none := by
  obtain ⟨-, -, -, -, hh, -⟩ := State.issuing_spec h.1
  have hs := h.raised.stands
  rw [h.raised.pc.2.1, h.raised.pc.2.2, ← hh, h.2.1] at hs
  exact hs

/-- What resumes stands at its word. -/
theorem State.Resumes.stands {s : State} {f : Fields} {c : Ctx} (h : s.Resumes f c) :
    s.ticked.Stands c c.p.pc (c.p.hold.map fun h => h.why) := by
  obtain ⟨-, -, hw, hp, -, -⟩ := State.issuing_spec h.1
  exact State.stands_self (t := s.ticked) hw (hp h.2.2)

theorem State.stands_of_ctxAt {s : State} {c : Ctx} (h : s.ctxAt c.r = some c) (hl : c.late = none) :
    s.Stands c c.p.pc (c.p.hold.map fun h => h.why) := by
  obtain ⟨-, hw, hp, -⟩ := State.ctxAt_spec h
  exact State.stands_self hw (hp hl)

/-! ## sleep (R146) -/

/-- What a `sleep` with a selected thread does. -/
def sleepBody (f : Fields) (c : Ctx) (s : State) : State :=
  let due := if c.heldAs .sleep then c.arg else s.clk + (c.once s f.a).toNat
  if c.heldAs .sleep && due ≤ s.clk then s.finishLate c [] else s.holdP c .sleep due 0

theorem exec_sleep (f : Fields) (s : State) : exec (.sleep f) s = issue .sleep f (whereSelected (sleepBody f)) s := rfl
theorem exec_sleepExpiry {s : State} {r : PathRef} {c : Ctx} (h : s.ctxAt r = some c) :
    exec (.sleepExpiry r) s = .next (if c.heldAs .sleep && c.arg ≤ s.clk then s.finishLate c [] else s) :=
  congrArg Host.Outcome.next (by rw [h])

theorem sleepBody_issued {f : Fields} {c : Ctx} {s : State} (h : c.heldAs .sleep = false) :
    sleepBody f c s = s.holdP c .sleep (s.clk + (c.once s f.a).toNat) 0 := by
  simp [sleepBody, h]

theorem sleepBody_held {f : Fields} {c : Ctx} {s : State} (h : c.heldAs .sleep = true) :
    sleepBody f c s = if c.arg ≤ s.clk then s.finishLate c [] else s.holdP c .sleep c.arg 0 := by
  simp [sleepBody, h]

theorem State.Stands.goesOn {s : State} {c : Ctx} {pc : Word} {why : Option Why} (h : s.Stands c pc why) :
    ∃ w p, (s.finishLate c []).weft? c.r.g c.r.w = some w ∧ w.path? c.r.t = some p ∧ p.pc = pc + 1 ∧ p.hold = none ∧ ∀ k, w.reg k = c.wf.reg k := by
  obtain ⟨w, p, hw, hp, -, hpc, hh, hr⟩ := h.finishLate_nil
  exact ⟨w, p, hw, hp, hpc, Option.map_eq_none_iff.mp hh, hr⟩

/-! ## beamwait (R212) -/

/-- What a `beamwait` with a selected thread does. -/
def beamwaitBody (f : Fields) (c : Ctx) (s : State) : State :=
  let held := c.heldAs .beamwait
  let b := if held then c.arg % 16 else (c.once s f.a).toNat
  let w := if held then c.arg / 16 else (c.once s f.b).toNat
  if !held && (63 < b || 30720 < w) then s.trap c .operand 11
  else if beamClear (s.devClk c.dev) (b % 16) w then s.finishLate c []
  else s.holdP c .beamwait (b % 16 + 16 * w) 0

theorem exec_beamwait (f : Fields) (s : State) : exec (.beamwait f) s = issue .beamwait f (whereSelected (beamwaitBody f)) s := rfl
theorem exec_beamwaitRelease {s : State} {r : PathRef} {c : Ctx} (h : s.ctxAt r = some c) :
    exec (.beamwaitRelease r) s =
      .next (if c.heldAs .beamwait && beamClear (s.devClk c.dev) (c.arg % 16) (c.arg / 16) then s.finishLate c [] else s) :=
  congrArg Host.Outcome.next (by rw [h])

theorem beamwaitBody_held {f : Fields} {c : Ctx} {s : State} (h : c.heldAs .beamwait = true) (hfar : beamClear (s.devClk c.dev) (c.arg % 16) (c.arg / 16) = true) :
    beamwaitBody f c s = s.finishLate c [] := by
  simp [beamwaitBody, h, hfar]

theorem beamwaitBody_issued {f : Fields} {c : Ctx} {s : State} (h : c.heldAs .beamwait = false) :
    let b := (c.once s f.a).toNat
    let w := (c.once s f.b).toNat
    (63 < b ∨ 30720 < w → beamwaitBody f c s = s.trap c .operand 11) ∧
    (b ≤ 63 → w ≤ 30720 → beamwaitBody f c s = if beamClear (s.devClk c.dev) (b % 16) w then s.finishLate c [] else s.holdP c .beamwait (b % 16 + 16 * w) 0) := by
  intro b w
  refine ⟨fun hb => ?_, fun hb hw => ?_⟩
  · simp only [beamwaitBody, h, Bool.false_eq_true, if_false]
    exact if_pos (by simpa [b, w] using hb)
  · simp only [beamwaitBody, h, Bool.false_eq_true, if_false]
    exact if_neg (by simp [← Nat.not_le, b, w, hb, hw] at *)

/-! ## trywait (R145) -/

/-- What a `trywait` with a selected thread does. -/
def trywaitBody (f : Fields) (c : Ctx) (s : State) : State :=
  let w := c.watch s f
  match s.observe c w with
  | (.error (.trap cls reason va info), s1) => s1.trap c cls reason 0 va info
  | (.error (.stall va access reason), s1) => (s1.stall c va access reason 0).keepWatch c w
  | (.error (.hold why arg va), s1) => (s1.holdP c why arg 0 va).keepWatch c w
  | (.ok none, s1) => s1.finishLate c []
  | (.ok (some x), s1) =>
    if tryTest w.code x w.val then (s1.acquireWatch c w).finishLate c (c.laneWrites f.d fun _ => 1)
    else if w.due ≤ s.clk then s1.finishLate c (c.laneWrites f.d fun _ => 0)
    else ((s1.writeLate c (c.laneWrites f.d fun _ => 0)).holdP c .trywait w.due 0).keepWatch c w

theorem exec_trywait (f : Fields) (s : State) : exec (.trywait f) s = issue .trywait f (whereSelected (trywaitBody f)) s := rfl

theorem trywaitBody_observed {f : Fields} {c : Ctx} {s u : State} {x : Word} (h : s.observe c (c.watch s f) = (.ok (some x), u)) :
    trywaitBody f c s =
      if tryTest (c.watch s f).code x (c.watch s f).val then (u.acquireWatch c (c.watch s f)).finishLate c (c.laneWrites f.d fun _ => 1)
      else if (c.watch s f).due ≤ s.clk then u.finishLate c (c.laneWrites f.d fun _ => 0)
      else ((u.writeLate c (c.laneWrites f.d fun _ => 0)).holdP c .trywait (c.watch s f).due 0).keepWatch c (c.watch s f) := by
  rw [trywaitBody]
  simp only [h]

/-- A held `trywait` keeps what it watches. -/
theorem Ctx.watch_held {c : Ctx} {s : State} {f : Fields} {w : Watch} (h : (c.hold.bind fun h => h.test) = some w) : c.watch s f = w := by
  unfold Ctx.watch
  rw [h]

/-- An issued `trywait` watches what its sources name. -/
theorem Ctx.watch_issued {c : Ctx} {s : State} {f : Fields} {n : BitVec 6} (h : c.hold = none) (hb : f.b = .scalar n) :
    c.watch s f = { mode := modLo2 f.mod, code := tryCode f, src := if modLo2 f.mod ≤ 1 then (c.once s f.a).setWidth 64 else c.addr s f.a 0 (lowThread c.sel),
                    val := c.s s n.toNat, due := s.clk + min (c.s s (n.toNat + 1)).toNat (2 ^ 20) } := by
  unfold Ctx.watch
  rw [h, hb]
  rfl

theorem State.observe_barrier {s : State} {c : Ctx} {w : Watch} (hm : w.mode = 0) (hk : w.src.toNat ≤ 15) :
    s.observe c w = (.ok (some (s.barAt c w.src.toNat).phase), s) := by
  unfold State.observe
  simp only [hm]
  exact if_neg (by omega)

theorem State.observe_bobbin {s : State} {c : Ctx} {w : Watch} (hm : w.mode = 1) (hk : w.src.toNat ≤ 63) :
    s.observe c w = (.ok (some (BitVec.ofNat 32 (bobCode (((s.group? c.r.g).getD c.G).bobs.getD w.src.toNat {}).st))), s) := by
  unfold State.observe
  simp only [hm]
  exact if_neg (by omega)

/-- TRYWAIT_DEADLINE on a `trywait` that is held. -/
theorem exec_trywaitDeadline {s : State} {c : Ctx} {w : Watch} (h : s.ctxAt c.r = some c) (hh : c.heldAs .trywait = true)
    (hw : (c.hold.bind fun h => h.test) = some w) {x : Word} (hx : s.observe c w = (.ok (some x), s)) :
    exec (.trywaitDeadline c.r) s = .next (if c.arg ≤ s.clk then
      if tryTest w.code x w.val then ((s.acquireWatch c w).tryTrue c).finishLate c [] else s.finishLate c [] else s) := by
  refine congrArg Host.Outcome.next ?_
  rw [h]
  dsimp only
  rw [hh, hw, Bool.true_and]
  by_cases hle : c.arg ≤ s.clk
  · rw [if_neg (by simp [hle]), if_pos hle]
    dsimp only
    rw [hx]
  · rw [if_pos (by simp [hle]), if_neg hle]

/-- Settles O29: the bodies of the three words at issue and when tried again, and the steps that let them go. -/
theorem timedWaits : Obligations.TimedWaits := by
  refine ⟨?_, ?_, ?_⟩
  · intro s f c hsel goesOn
    refine ⟨fun h => ?_, fun h hh => ?_, fun h hl hh => ?_⟩
    · intro q t
      obtain ⟨w, p, hw, hp, -, hpc, hwhy, hr⟩ := h.raised.stands_iff.mp (h.stands.holdP .sleep (s.clk + (q.1.once q.2 f.a).toNat) 0 0)
      refine ⟨(exec_sleep f s).trans ((issue_next_selected h hsel _).trans ?_), (State.holdP_mem ..).trans h.raised.mem_eq, w, p, hw, hp, hpc, hwhy, hr⟩
      rw [sleepBody_issued (h.heldAs _), h.raised.clk]
      rfl
    · have hexec := (exec_sleep f s).trans (issue_resume_selected h hsel _)
      rw [sleepBody_held hh] at hexec
      exact ⟨fun hle => ⟨_, hexec.trans (congrArg _ (if_pos hle)), rfl, State.finishLate_mem .., h.stands.goesOn⟩,
        fun hlt => hexec.trans (congrArg _ (if_neg (Nat.not_le.mpr hlt)))⟩
    · have hexec := exec_sleepExpiry h
      rw [hh, Bool.true_and] at hexec
      exact ⟨fun hle => ⟨_, hexec.trans (congrArg _ (if_pos (decide_eq_true hle))), rfl, State.finishLate_mem .., (State.stands_of_ctxAt h hl).goesOn⟩,
        fun hlt => hexec.trans (congrArg _ (if_neg (by simpa using hlt)))⟩
  · intro s f c hsel far goesOn k w
    refine ⟨fun h => ?_, fun h hh hfar => ?_, fun h hl hh => ?_⟩
    · intro q b w
      have hexec := (exec_beamwait f s).trans (issue_next_selected h hsel _)
      obtain ⟨htrap, hok⟩ := beamwaitBody_issued (f := f) (s := q.2) (h.heldAs .beamwait)
      refine ⟨fun hb => ⟨q.1.info .operand 11 0 0 0, rfl, rfl, hexec.trans (congrArg _ ((htrap hb).trans ?_))⟩, fun hb hw hfar => ?_, fun hb hw hfar => ?_⟩
      · rw [State.trap, h.raised.same.1]
      all_goals
        rw [hexec, hok hb hw, h.raised.dev, h.raised.devClk]
        simp only [far] at hfar
      · exact congrArg _ (if_pos hfar)
      · exact congrArg _ (if_neg (by rw [Bool.eq_false_iff] at hfar; exact hfar))
    · obtain ⟨w, p, hw, hp, hpc, hhold, -⟩ := h.stands.goesOn
      exact ⟨_, ((exec_beamwait f s).trans (issue_resume_selected h hsel _)).trans (congrArg _ (beamwaitBody_held hh hfar)), rfl, State.finishLate_mem ..,
        w, p, hw, hp, hpc, hhold⟩
    · have hexec := exec_beamwaitRelease h
      rw [hh, Bool.true_and] at hexec
      refine ⟨fun hfar => ?_, fun hfar => hexec.trans (congrArg _ (if_neg (by rw [Bool.eq_false_iff] at hfar; exact hfar)))⟩
      obtain ⟨w, p, hw, hp, hpc, hhold, -⟩ := (State.stands_of_ctxAt h hl).goesOn
      exact ⟨_, hexec.trans (congrArg _ (if_pos hfar)), rfl, State.finishLate_mem .., w, p, hw, hp, hpc, hhold⟩
  · intro s f c hsel sees d tries
    refine ⟨?_, fun n hb h => ?_, fun w h hw => ?_, fun w x h hh hw hx => ?_⟩
    · rintro u c w x (⟨hm, hk, rfl⟩ | ⟨hm, hk, rfl⟩)
      · exact State.observe_barrier hm hk
      · exact State.observe_bobbin hm hk
    · intro q w
      have hw : w = _ := Ctx.watch_issued (h.raised.same.2.2.2.2.trans h.2.1) hb
      have hclk : q.2.clk = s.clk := h.raised.clk
      refine ⟨by rw [hw], fun hm => ?_, by rw [hw]; rfl, by rw [hw], by rw [hw, hclk], fun x v hx => ?_⟩
      · rw [hw] at hm ⊢
        exact if_pos hm
      · have hexec := ((exec_trywait f s).trans (issue_next_selected h hsel _)).trans (congrArg _ (trywaitBody_observed hx))
        rw [hclk] at hexec
        refine ⟨fun ht => ?_, fun ht hd => ?_, fun ht hd => ?_⟩
        · exact hexec.trans (congrArg _ (if_pos ht))
        · exact hexec.trans (congrArg _ ((if_neg (by rw [ht]; decide)).trans (if_pos hd)))
        · exact hexec.trans (congrArg _ ((if_neg (by rw [ht]; decide)).trans (if_neg (Nat.not_le.mpr hd))))
    · intro x v hx
      have hwatch : c.watch s.ticked f = w := Ctx.watch_held hw
      have hexec := ((exec_trywait f s).trans (issue_resume_selected h hsel _)).trans (congrArg _ (trywaitBody_observed (hwatch ▸ hx)))
      rw [hwatch] at hexec
      refine ⟨fun ht => ?_, fun ht hd => ?_, fun ht hd => ?_⟩
      · exact hexec.trans (congrArg _ (if_pos ht))
      · exact hexec.trans (congrArg _ ((if_neg (by rw [ht]; decide)).trans (if_pos hd)))
      · exact hexec.trans (congrArg _ ((if_neg (by rw [ht]; decide)).trans (if_neg (Nat.not_le.mpr hd))))
    · have hobs : s.observe c w = (.ok (some x), s) := by
        obtain ⟨hm, hk, rfl⟩ | ⟨hm, hk, rfl⟩ := hx
        · exact State.observe_barrier hm hk
        · exact State.observe_bobbin hm hk
      have hexec := exec_trywaitDeadline h hh hw hobs
      refine ⟨fun hle ht => ?_, fun hle ht => ?_, fun hlt => ?_⟩
      · exact hexec.trans (congrArg _ ((if_pos hle).trans (if_pos ht)))
      · exact hexec.trans (congrArg _ ((if_pos hle).trans (if_neg (by rw [ht]; decide))))
      · exact hexec.trans (congrArg _ (if_neg (Nat.not_le.mpr hlt)))

end Sys2Proof.Machine
end

section
/-! PROOFS. The traps that a word takes before it issues (R56, R109, R236). -/

namespace Sys2Proof.Machine

theorem preTrap_forbidden {c : Ctx} {i : Form} {f : Fields} (h : ¬(c.isTreadle = true → treadleWord (c.r.w == clusterWid) i f = true)) :
    c.preTrap i f = some (c.info .tile 4 0 0 0) := by
  obtain ⟨ht, hw⟩ := Classical.not_imp.mp h
  rw [Ctx.preTrap, ht, Bool.eq_false_iff.mpr hw, if_pos (by decide)]

theorem treadle_runs {c : Ctx} {i : Form} {f : Fields} (h : c.isTreadle = true → treadleWord (c.r.w == clusterWid) i f = true) :
    ¬(c.isTreadle && !treadleWord (c.r.w == clusterWid) i f) = true := by
  intro hn
  obtain ⟨ht, hw⟩ := Bool.and_eq_true_iff.mp hn
  rw [h ht] at hw
  cases hw

theorem preTrap_privilege {c : Ctx} {i : Form} {f : Fields} (h : c.isTreadle = true → treadleWord (c.r.w == clusterWid) i f = true)
    (ha : c.allowed i f = false) : c.preTrap i f = some (c.info .privilege 9 0 0 0) := by
  rw [Ctx.preTrap, if_neg (treadle_runs h), ha, if_pos (by decide)]

theorem preTrap_unacquired {c : Ctx} {i : Form} {f : Fields} (h : c.isTreadle = true → treadleWord (c.r.w == clusterWid) i f = true)
    (ha : c.allowed i f = true) (hr : 64 * (c.wf.held + 1) ≤ topOf f) : c.preTrap i f = some (c.info .operand 1 0 0 0) := by
  rw [Ctx.preTrap, if_neg (treadle_runs h), ha, if_neg (by decide), if_pos hr]

/-! ## Check 9 -/

/-- The forms of supervisor mode. -/
def privilegedForms : List Form := [.tlbiAll, .tlbiCtx, .tlbiPage, .replay, .replayAll, .rdflt, .eret, .ctxsv]

theorem allowed_privileged {c : Ctx} {i : Form} {f : Fields} (hp : c.wf.priv = false) (hi : i ∈ privilegedForms) : c.allowed i f = false := by
  have hp : c.priv = false := hp
  unfold Ctx.allowed
  simp only [privilegedForms, List.mem_cons, List.not_mem_nil, or_false] at hi
  rcases hi with rfl | rfl | rfl | rfl | rfl | rfl | rfl | rfl <;> simp only [hp, Bool.false_and]

/-- User mode writes no register of 0x100 and above. -/
theorem specialWritable_user_high {n : Nat} (h : 0x100 ≤ n) : specialWritable false n = false := by
  simp [specialWritable]
  omega

theorem allowed_high {c : Ctx} {i : Form} {f : Fields} (hp : c.wf.priv = false)
    (h : (∃ n, f.a = .special n ∧ 0x100 ≤ n.toNat) ∨ (∃ n, f.b = .special n ∧ 0x100 ≤ n.toNat) ∨ (∃ n, f.d = .special n ∧ 0x100 ≤ n.toNat)) :
    c.allowed i f = false := by
  have hp : c.priv = false := hp
  unfold Ctx.allowed
  rcases h with ⟨n, hn, hlt⟩ | ⟨n, hn, hlt⟩ | ⟨n, hn, hlt⟩
  · simp only [hn, hp, Nat.not_lt.mpr hlt, decide_false, Bool.false_and, Bool.false_or, Bool.and_false]
  · simp only [hn, hp, Nat.not_lt.mpr hlt, decide_false, Bool.false_and, Bool.false_or, Bool.and_false]
  · simp only [hn, hp, specialWritable_user_high hlt, Bool.false_and, Bool.and_false]

theorem allowed_unwritable {c : Ctx} {i : Form} {f : Fields} {n : BitVec 10} (hd : f.d = .special n) (hw : specialWritable c.wf.priv n.toNat = false) :
    c.allowed i f = false := by
  have hw : specialWritable c.priv n.toNat = false := hw
  unfold Ctx.allowed
  simp only [hd, hw, Bool.false_and, Bool.and_false]

/-- A trap before issue executes nothing of the word. -/
theorem exec_preTrap {s : State} {i : Form} {f : Fields} {c : Ctx} {t : TrapInfo} (h1 : s.issuing f = some c) (h2 : c.hold = none)
    (h3 : s.ready i f c = true) (h4 : c.preTrap i f = some t) : exec (i.mk f) s = .next (s.ticked.takeTrap c.r.g t) := by
  obtain ⟨body, hb⟩ := exec_mk i f
  exact (hb s).trans (issue_trap h1 h2 h3 h4 body)

/-! ## Words that do not decode -/

theorem runWord_error {s1 s2 : State} {r : PathRef} {c : Ctx} {w : InstrWord} {e : Illegal} (hc : s1.ctxAt r = some c)
    (hf : s1.fetch c = (.ok w, s2)) (hd : decodeWord w = .error e) :
    runWord r s1 = .next (if c.isTreadle then s2.takeTrap r.g (c.info .tile 4 0 0 0) else s2.illegalTrap c w e) := by
  simp only [runWord, hc, hf, hd]

/-- The record of a word that does not decode is one of the path at its PC, with no thread performed. -/
theorem State.illegalTrap_takes (s : State) (c : Ctx) (w : InstrWord) (e : Illegal) : ∃ t : TrapInfo,
    t.cls = .illegalInstruction ∧ t.reason = e.code ∧ t.pc = c.p.pc ∧ t.pmask = 0 ∧ s.illegalTrap c w e = s.takeTrap c.r.g t :=
  ⟨_, rfl, rfl, rfl, rfl, rfl⟩

/-- Settles O43: the first trap of those before issue, in their order, and the trap of a word that does not decode. -/
theorem earlyTraps : Obligations.EarlyTraps := by
  refine ⟨?_, ?_⟩
  · intro s i f c h1 h2 h3 traps runs high
    have take {cls : TrapClass} {reason : Nat} (h : c.preTrap i f = some (c.info cls reason 0 0 0)) : traps cls reason :=
      ⟨_, rfl, rfl, rfl, rfl, exec_preTrap h1 h2 h3 h⟩
    exact ⟨fun h => take (preTrap_forbidden h), fun h hp hi => take (preTrap_privilege h (allowed_privileged hp hi)),
      fun h hp hh => take (preTrap_privilege h (allowed_high hp hh)), fun h n hd hw => take (preTrap_privilege h (allowed_unwritable hd hw)),
      fun h ha hr => take (preTrap_unacquired h ha hr)⟩
  · intro s s1 s2 r c w e s0 hm hc hf hd
    have hrun : attempt s.nextMove s.drawn = runWord r s1 := by
      rcases hm with ⟨d, k, l, hm, hp⟩ | ⟨hm, rfl, hl, hn⟩
      · simp only [hm, attempt, show s.drawn.pickLane d k l = some (r, s1) from hp]
      · simp only [hm, attempt, runHeld, show s.drawn.ctxAt r = some c from hc, hl, hn, Bool.false_eq_true, if_false]
        rfl
    have hstep := stepsTo_of_attempt (hrun.trans (runWord_error hc hf hd))
    cases ht : c.isTreadle with
    | true =>
      rw [ht, if_pos rfl] at hstep
      exact ⟨_, by rw [if_pos rfl]; exact ⟨rfl, rfl⟩, rfl, rfl, hstep⟩
    | false =>
      rw [ht, if_neg (by decide)] at hstep
      obtain ⟨t, hcls, hreason, hpc, hpm, he⟩ := s2.illegalTrap_takes c w e
      rw [he, (State.ctxAt_spec hc).2.2.2.1] at hstep
      exact ⟨t, by rw [if_neg (by decide)]; exact ⟨hcls, hreason⟩, hpc, hpm, hstep⟩

end Sys2Proof.Machine
end

section
/-! PROOFS. What an issue raises, what it reads, and the instructions that their path has gone past (R123 to R129, R136, R302). -/

namespace Sys2Proof.Machine

/-! ## What an issue raises -/

theorem Core.lane_modLane (k : Core) (l : Nat) (f : Lane → Lane) (hf : ∀ x, (f x).n = x.n) : (k.modLane l f).lane l = f (k.lane l) := by
  unfold Core.lane Core.modLane
  rw [find?_upsert _ _ _ (by simp [hf]) fun x hx => by simpa [hf x] using hx]
  rfl

theorem State.countIssue_core (s : State) (x : Option (Tourn × Rival)) (d n : Nat) : (s.countIssue x).core d n = s.core d n := by
  cases x <;> rfl

/-- The lane is taken until a cycle. -/
def Lane.takenUntil (n : Nat) (l : Lane) : Lane := { l with free := n }

/-- The path that a word leaves that issues. -/
def State.pathRaised (s : State) (i : Form) (f : Fields) (c : Ctx) : Path := c.raisedPath s.clk (formPasses i f c.sel) i f
/-- The weft that it leaves. -/
def State.weftRaised (s : State) (i : Form) (f : Fields) (c : Ctx) : Weft := c.raisedWeft s.clk s.uid i f (s.pathRaised i f c)

theorem State.weftRaised_wid (s : State) (i : Form) (f : Fields) (c : Ctx) : (s.weftRaised i f c).wid = c.wf.wid := rfl

/-- The issue of a weft's word. -/
theorem State.raise_eq {s : State} {i : Form} {f : Fields} {c : Ctx} (h : c.isTreadle = false) :
    s.raise i f c = ({ c with wf := s.weftRaised i f c, p := s.pathRaised i f c, out := s.uid },
      ((s.fresh.2.modWeft c.r.g c.r.w fun _ => s.weftRaised i f c).modCore c.dev c.core
        fun x => x.modLane c.wf.lane (Lane.takenUntil (s.clk + formPasses i f c.sel))).countIssue (s.tournOf c.G)) := by
  rw [State.raise, if_neg (by simp [h])]
  rfl

theorem State.raise_treadle {s : State} {i : Form} {f : Fields} {c : Ctx} (h : c.isTreadle = true) : s.raise i f c = (c, s) := by
  rw [State.raise, if_pos h]

/-- The lane that an issue has taken. -/
theorem State.raise_lane {s : State} {i : Form} {f : Fields} {c : Ctx} (h : c.isTreadle = false) :
    (((s.raise i f c).2.core c.dev c.core).lane c.wf.lane).free = s.clk + formPasses i f c.sel := by
  rw [State.raise_eq h]
  dsimp only
  rw [State.countIssue_core, State.core_modCore _ _ _ (fun x => x.modLane c.wf.lane (Lane.takenUntil (s.clk + formPasses i f c.sel))) fun _ => ⟨rfl, rfl⟩,
    Core.lane_modLane _ _ (Lane.takenUntil _) fun _ => rfl]
  rfl

theorem Ctx.raisedWeft_flags (c : Ctx) (clk n : Nat) (i : Form) (f : Fields) (p : Path) (k : Nat) :
    Sparse.get (c.raisedWeft clk n i f p).flags k = if f.setf.toNat = k ∧ k < 12 then Sparse.get c.wf.flags k + 1 else Sparse.get c.wf.flags k := by
  show Sparse.get (if f.setf.toNat < 12 then Sparse.put c.wf.flags f.setf.toNat (Sparse.get c.wf.flags f.setf.toNat + 1) else c.wf.flags) k = _
  by_cases h : f.setf.toNat < 12
  · rw [if_pos h, Sparse.get_put]
    by_cases hk : k = f.setf.toNat
    · rw [if_pos hk, if_pos ⟨hk.symm, hk ▸ h⟩, hk]
    · rw [if_neg hk, if_neg fun h => hk h.1.symm]
  · rw [if_neg h, if_neg (by omega)]

/-! ## What an issue reads -/

/-- No outstanding instruction writes the register, and no young result stands in it. -/
def Ctx.settled (c : Ctx) (k : RegKey) : Prop := (∀ o ∈ c.wf.outs, ∀ x ∈ o.writes, x.key ≠ k) ∧ ∀ y ∈ c.young, y.key ≠ k

/-- A settled register is read as the issuer holds it. -/
theorem Ctx.reg_settled {c : Ctx} {k : RegKey} (h : c.settled k) (s : State) : c.reg s k = c.held s k := by
  obtain ⟨ho, hy⟩ := h
  have hlate : ((c.wf.outs.filter fun o => o.n != c.out).findSome? fun o => (o.writes.find? fun x => x.key == k).map fun x => x.val) = none := by
    refine List.findSome?_eq_none_iff.mpr fun o hom => Option.map_eq_none_iff.mpr (List.find?_eq_none.mpr fun x hx => ?_)
    simpa using ho o (List.mem_filter.mp hom).1 x hx
  have hyoung : c.young.find? (fun y => y.key == k) = none := List.find?_eq_none.mpr fun y hm => by simpa using hy y hm
  unfold Ctx.reg
  simp only [hlate, hyoung]

/-! ## Instructions that their path has gone past -/

/-- The meaning of a held word that no pre-emption has withdrawn. -/
theorem issue_tried {s : State} {i : Form} {f : Fields} {c : Ctx} (h1 : s.issuing f = some c) (h2 : (c.hold.any fun h => h.why != .withdrawn) = true)
    (body : Ctx → State → State) : issue i f body s = .next (body c s.ticked) := by
  unfold State.issuing at h1
  unfold issue
  cases hc : s.ctx? with
  | none => simp [hc] at h1
  | some c0 =>
    simp only [hc, Option.map_some, Option.some.injEq] at h1
    subst h1
    cases hx : c0.hold with
    | none => simp [hx] at h2
    | some x =>
      simp only [hx, Option.any_some, bne_iff_ne] at h2
      simp [hx, h2]

theorem Ctx.tried_of_heldAs {c : Ctx} {why : Why} (h : c.heldAs why = true) (hw : why ≠ .withdrawn) : (c.hold.any fun h => h.why != .withdrawn) = true := by
  unfold Ctx.heldAs at h
  cases hh : c.hold with
  | none => simp [hh] at h
  | some x =>
    simp only [hh, beq_iff_eq] at h
    simpa [h] using hw

/-- One thread of an instruction that its path has gone past. -/
theorem State.threadsAt_late {s u : State} {c : Ctx} {l : Late} {f : Fields} {level : Nat} {one : State → Nat → Thr × State} {t : Nat} {rest : List Nat}
    {ws : List (RegKey × Word)} (hl : c.late = some l) (hsel : c.sel ≠ 0) (ht : c.todo f = t :: rest)
    (hp : performs one [t] (s.orderNow c f level) = some (ws, u)) :
    s.threadsAt c f level one = if rest = [] then u.finishLate c ws else (u.writeLate c ws).holdP c .late 0 (c.done ||| bitMask t) := by
  have hone : one (s.orderNow c f level) t = (.ok ws, u) := by
    simp only [performs] at hp
    split at hp
    · next ws1 s1 h1 =>
      simp only [Option.map_some, List.append_nil, Option.some.injEq, Prod.mk.injEq] at hp
      rw [h1, hp.1, hp.2]
    · cases hp
  unfold State.threadsAt Ctx.slice
  rw [if_neg fun he => hsel (beq_iff_eq.mp he), hl, ht]
  simp only [Option.isSome_some, if_true, List.take_succ_cons, List.take_zero, List.length_cons, List.length_nil, runThreads, hone, List.nil_append]
  cases rest with
  | nil => rfl
  | cons x xs => rfl

theorem exec_ld (f : Fields) (s : State) : exec (.ld f) s = issue .ld f (fun c s =>
    s.threadsAt c f (relLevel f) fun s t => s.loadThread c f (Machine.sizeOf (operandSub f.a)).1 (Machine.sizeOf (operandSub f.a)).2 t) s := rfl
theorem exec_st (f : Fields) (s : State) : exec (.st f) s = issue .st f (fun c s =>
    s.threadsAt c f (relLevel f) fun s t => s.storeThread c f (Machine.sizeOf (operandSub f.d)).1 (Machine.sizeOf (operandSub f.d)).2 t) s := rfl
theorem exec_lds (f : Fields) (s : State) : exec (.lds f) s = issue .lds f (fun c s =>
    s.threadsAt c f (relLevel f) fun s t => s.ldsThread c f (Machine.sizeOf (operandSub f.a)).1 (Machine.sizeOf (operandSub f.a)).2 t) s := rfl
theorem exec_sts (f : Fields) (s : State) : exec (.sts f) s = issue .sts f (fun c s =>
    s.threadsAt c f (min 1 (relLevel f)) fun s t => s.stsThread c f (Machine.sizeOf (operandSub f.d)).1 (Machine.sizeOf (operandSub f.d)).2 t) s := rfl

/-- The end of an instruction that its path has gone past takes its record from the weft. -/
theorem Weft.modRef_late (w : Weft) (n : Nat) :
    (w.modRef (16 + n) Path.onward).late = w.late.filter (fun l => l.n != n) ∧ (w.modRef (16 + n) Path.onward).paths = w.paths := by
  have hm : w.modRef (16 + n) Path.onward = w.modLate (16 + n) Path.onward := if_neg (by omega)
  refine ⟨?_, by rw [hm]; rfl⟩
  rw [hm]
  show w.late.filterMap (fun l => if (16 + l.n == 16 + n) = true then (Path.onward l.view).hold.map fun h => { l with path := Path.onward l.view, hold := h } else some l) = _
  rw [← List.filterMap_eq_filter]
  refine congrArg (List.filterMap · w.late) (funext fun l => ?_)
  by_cases h : l.n = n
  · simp [h, Path.onward, Option.guard]
  · simp [h, Option.guard]

/-- The frame of an issue, whatever the state holds of its weft. -/
theorem Frame.raise (s : State) {c : Ctx} (i : Form) (f : Fields) (ht : c.isTreadle = false) (hw : c.wf.wid = c.r.w) : Frame s (s.raise i f c).2 c := by
  rw [State.raise_eq ht]
  exact (Frame.fresh s c).trans ((Frame.modWeft _ c (fun _ => s.weftRaised i f c) fun _ _ => hw).trans ((Frame.modLane _ c _ _ _ _).trans (Frame.countIssue _ c _)))

/-- The weft that an issue leaves, whatever stood in its place. -/
theorem State.raise_weft? {s : State} {c : Ctx} (i : Form) (f : Fields) (ht : c.isTreadle = false) (hw : c.wf.wid = c.r.w)
    (hs : (s.weft? c.r.g c.r.w).isSome = true) : (s.raise i f c).2.weft? c.r.g c.r.w = some (s.raise i f c).1.wf := by
  obtain ⟨x, hx⟩ := Option.isSome_iff_exists.mp hs
  rw [State.raise_eq ht]
  refine (State.countIssue_weft? _ _ _ _).trans ((State.weft?_modWeft s.fresh.2 c.r.g c.r.w (fun _ => s.weftRaised i f c) fun _ _ => hw).trans ?_)
  rw [State.weft?_congr (State.fresh_groups s) (State.fresh_units s), hx]
  rfl

/-- The record of an instruction that its path goes past. -/
def Ctx.lateOf (c : Ctx) (i : Form) (f : Fields) (w : Weft) (tlb : List Tlb) : Late :=
  { n := c.out, form := i, f, path := c.p, hold := { why := .late, out := c.out, sel := c.sel }, v := w.v, s := w.s, p := w.p, young := w.young, tlb }

/-- The weft with one instruction more that a path has gone past. -/
def Weft.past (w : Weft) (l : Late) : Weft := { w with late := w.late ++ [l] }

/-- The weft once its path has gone past an instruction. -/
theorem State.putOff_weft? {s : State} {c : Ctx} (hw : s.weft? c.r.g c.r.w = some c.wf) (i : Form) (f : Fields) (tlb : List Tlb) :
    (s.putOff c i f tlb).weft? c.r.g c.r.w = some ((c.wf.past (c.lateOf i f c.wf tlb)).modRef c.r.t Path.onward) := by
  refine State.advance_weft? (w := c.wf.past (c.lateOf i f c.wf tlb)) ?_
  exact (State.weft?_modWeft s c.r.g c.r.w (fun w => w.past (c.lateOf i f w tlb)) fun x hx => hx).trans (by rw [hw]; rfl)

/-- The issuing path as its issue leaves it. -/
theorem State.weftRaised_path? {s : State} {i : Form} {f : Fields} {c : Ctx} (hp : c.wf.path? c.r.t = some c.p) :
    (s.weftRaised i f c).path? c.r.t = some (s.pathRaised i f c) := by
  have hm : (s.pathRaised i f c).mask.getLsbD c.r.t = true := (Weft.path?_mask hp : c.p.mask.getLsbD c.r.t = true)
  exact (find?_modIf (fun q : Path => q.mask.getLsbD c.r.t) (fun _ => s.pathRaised i f c) (fun _ _ => hm) c.wf.paths).trans
    (by rw [show c.wf.paths.find? _ = some c.p from hp]; rfl)

theorem Frame.putOff (s : State) (c : Ctx) (i : Form) (f : Fields) (tlb : List Tlb) : Frame s (s.putOff c i f tlb) c :=
  (Frame.modW s c (fun w => w.past (c.lateOf i f w tlb)) fun _ => rfl).trans (Frame.advance _ c)

theorem State.deferWord_some {s u : State} {i : Form} {f : Fields} {c : Ctx} (h : s.Issues i f c) (hsel : c.sel ≠ 0) (ht : c.isTreadle = false)
    (hd : c.defers i = true) (he : exec (i.mk f) s = .next u) (hu : u.goesOn c.r = true) :
    s.deferWord i f = some (((s.ticked.adopt u).raise i f c).2.putOff ((s.ticked.adopt u).raise i f c).1 i f (u.tlb.filter fun e => e.dev == c.dev && e.ctx == c.ctx)) := by
  obtain ⟨h1, h2, h3, h4⟩ := h
  have hsel : (c.sel != 0) = true := by simpa using hsel
  rw [State.deferWord, h1, Option.bind_some, hd, hsel, ht, h2, h3, h4, if_pos (by decide), he]
  exact if_pos hu

/-- Settles O31: what `raise` writes, what a settled register reads as, and what goes past an instruction. -/
theorem issueRaises : Obligations.IssueRaises := by
  refine ⟨?_, ?_, ?_, ?_, ?_, ?_⟩
  · intro s i f c h q u
    refine ⟨fun ht => ?_, fun ht => ⟨_, h.raised.weft, ?_⟩⟩
    · have hq : q = (c, s.ticked) := State.raise_treadle ht
      rw [hq]
      exact ⟨rfl, rfl⟩
    · have hq : q.1.wf = s.ticked.weftRaised i f c := congrArg (fun x : Ctx × State => x.1.wf) (State.raise_eq (s := s.ticked) ht)
      rw [show (s.issued i f c).1.wf = _ from hq]
      exact ⟨rfl, rfl, rfl, rfl, Ctx.raisedWeft_flags _ _ _ _ _ _, State.raise_lane (s := s.ticked) ht, h.raised.mem_eq⟩
  · intro s c k hl hk
    rw [Ctx.reg_settled hk, Ctx.held, hl]
  · intro s c l k hl hk
    rw [Ctx.reg_settled hk, Ctx.held, hl]
    dsimp only
    split
    · exact .inl rfl
    · exact .inr rfl
  · intro s u i f c h hsel ht hd he hu v n hv
    obtain ⟨-, -, hw, hp, -, hl⟩ := State.issuing_spec h.1
    have hwid := State.weft?_wid hw (by simpa [Ctx.isTreadle] using ht)
    have hwv : (v.raise i f c).2.weft? (v.raise i f c).1.r.g (v.raise i f c).1.r.w = some (v.raise i f c).1.wf := by
      have := State.raise_weft? i f ht hwid hv
      rw [State.raise_eq ht] at this ⊢
      exact this
    have hput := State.putOff_weft? hwv i f (u.tlb.filter fun e => e.dev == c.dev && e.ctx == c.ctx)
    have hframe := (Frame.raise v i f ht hwid).trans ((Frame.putOff (v.raise i f c).2 (v.raise i f c).1 i f
      (u.tlb.filter fun e => e.dev == c.dev && e.ctx == c.ctx)).congr (d := c) (by rw [State.raise_eq ht]))
    have hp := hp (hl h.2.1)
    refine ⟨_, _, (v.raise i f c).1.lateOf i f (v.raise i f c).1.wf (u.tlb.filter fun e => e.dev == c.dev && e.ctx == c.ctx),
      State.deferWord_some h hsel ht hd he hu, (by rw [State.raise_eq ht] at hput ⊢; exact hput), hframe, ?_, rfl, rfl, rfl, ?_⟩
    · rw [State.raise_eq ht, Weft.modRef_path _ (Weft.path?_lt hp)]
      rfl
    · simp only [n]
      rw [State.raise_eq ht]
      refine ⟨rfl, rfl, rfl, ?_, fun k => ⟨(Weft.modRef_reg _ _ _ k).trans (Weft.reg_congr rfl rfl rfl k), Weft.reg_congr rfl rfl rfl k⟩⟩
      exact (Weft.path?_modRef_onward _ _).trans (congrArg _ (State.weftRaised_path? (s := v) hp))
  · intro s f c l h hl hh hsel ends a d
    have htried := Ctx.tried_of_heldAs hh (by decide)
    have tried (i : Form) (level : Nat) (one : State → Nat → Thr × State)
        (hx : exec (i.mk f) s = .next (s.ticked.threadsAt c f level one)) : ends i level one :=
      fun t rest ws u ht hp => hx.trans (congrArg _ (State.threadsAt_late hl hsel ht hp))
    exact ⟨tried .ld _ _ ((exec_ld f s).trans (issue_tried h htried _)), tried .lds _ _ ((exec_lds f s).trans (issue_tried h htried _)),
      tried .st _ _ ((exec_st f s).trans (issue_tried h htried _)), tried .sts _ _ ((exec_sts f s).trans (issue_tried h htried _))⟩
  · intro s c w n hw ht
    obtain ⟨hlate, hpaths⟩ := w.modRef_late n
    rw [← ht] at hlate hpaths
    exact ⟨_, State.advance_weft? hw, hlate, hpaths, Weft.modRef_reg _ _ _⟩

end Sys2Proof.Machine
end

section
/-! PROOFS. Lines that nothing is pending for, and translation over them (R191, R211, R311, R324, R397). -/

namespace Sys2Proof.Machine

/-! ## Lines with no release record and no Accrue episode -/

/-- No release record stands at the line, and it is not in the Accrue state. -/
def State.Quiet (s : State) (a : Nat) : Prop := (s.line a).st ≠ .a ∧ (s.line a).recs = []

theorem State.quiet_of_no_lines {s : State} (h : s.lines = []) (a : Nat) : s.Quiet a := by
  have hl : s.line a = { addr := a } := by rw [State.line, h]; rfl
  rw [State.Quiet, hl]
  exact ⟨LineSt.noConfusion, rfl⟩

theorem State.mergeLine_quiet {s : State} {a : Nat} (h : (s.line a).st ≠ .a) : s.mergeLine a = s := if_pos (by simpa using h)

theorem State.force_quiet {s : State} {a : Nat} (h : (s.line a).recs = []) (d c : Nat) : s.force d c a = s := by
  rw [State.force, State.forceWith, h]
  rfl

theorem State.settleHome_quiet {s : State} {a : Nat} (h : s.Quiet (lineOf a)) (d : Nat) : s.settleHome d a = s := by
  rw [State.settleHome, State.force_quiet h.2, State.mergeLine_quiet h.1]

/-- A walk over quiet lines changes nothing. -/
theorem State.settleWalk_quiet {s : State} (h : ∀ a, s.Quiet a) (d : Nat) (x : DWord) (table k : Nat) : s.settleWalk d x table k = s := by
  induction k generalizing table with
  | zero => rfl
  | succ k ih =>
    rw [State.settleWalk, State.settleHome_quiet (h _)]
    split
    · rfl
    · exact ih _

/-- A translation over quiet lines is held in a TLB, and nothing else changes. -/
theorem State.translate_quiet {s : State} (h : ∀ a, s.Quiet a) (d c : Nat) (x : DWord) : ∃ l, (s.translate d c x).2 = { s with tlb := l } := by
  unfold State.translate
  split
  · exact ⟨s.tlb, rfl⟩
  · rw [State.settleWalk_quiet h]
    cases hw : s.walk d c x with
    | fault r => exact ⟨s.tlb, by simp only [hw]⟩
    | leaf bits e a =>
      exact ⟨s.tlb ++ [⟨d, c, x.toNat % 2 ^ 55 / 2 ^ bits * 2 ^ bits, bits, e, a⟩], by simp only [hw]⟩

/-- The answer of a translation that no TLB holds, over quiet lines. -/
def Walk.answer (x : DWord) : Walk → Except Nat Xlat
  | .fault r => .error r
  | .leaf bits e a => .ok (xlatOf x bits e a)

theorem State.translate_walks {s : State} (h : ∀ a, s.Quiet a) {d c : Nat} {x : DWord} (hm : s.tlbHit d c x = none) :
    (s.translate d c x).1 = (s.walk d c x).answer x := by
  unfold State.translate
  rw [hm]
  dsimp only
  rw [State.settleWalk_quiet h]
  cases s.walk d c x <;> rfl

/-! ## Queues and requests with nothing in them -/

theorem State.publishLine_idle {s : State} {d c a : Nat} (hq : (s.core d c).queue.find? (fun e => e.line == a) = none) (hr : s.reqs = []) :
    s.publishLine d c a = s := by
  unfold State.publishLine
  rw [hq]
  dsimp only
  split
  · rfl
  · rw [State.drainLine, State.drainLineWith, hr]
    rfl

theorem State.core_queue_nil {s : State} (h : ∀ k ∈ s.cores, k.queue = []) (d c : Nat) : (s.core d c).queue = [] := by
  unfold State.core
  cases hf : s.cores.find? fun x => x.dev == d && x.n == c with
  | none => rfl
  | some k => exact h k (List.mem_of_find?_eq_some hf)

/-! ## The walk level by level (R191, R194) -/

/-- What a walk over quiet lines answers at a level, from the entry that it reads there. -/
theorem Walk.answer_at {s : State} {x : DWord} {table k : Nat} :
    let e := s.entry (table + 8 * (x.toNat / 2 ^ (16 + 13 * k) % 8192))
    let r := (s.walkFrom x table (k + 1)).answer x
    (pteV e = false → r = .error 1) ∧ (pteV e = true → pteInvalid (2 - k) e = true → r = .error 2) ∧
    (pteV e = true → pteInvalid (2 - k) e = false → pteLeaf e = true →
      (fmtLegal (pteFmt e) (pteGeom e) = false → r = .error 3) ∧
      (fmtLegal (pteFmt e) (pteGeom e) = true → r = .ok (xlatOf x (16 + 13 * k) e (table + 8 * (x.toNat / 2 ^ (16 + 13 * k) % 8192))))) ∧
    (pteV e = true → pteInvalid (2 - k) e = false → pteLeaf e = false → r = (s.walkFrom x (pteFrame e) k).answer x) := by
  intro e r
  have hr : r = Walk.answer x (if !pteV e then .fault 1 else if pteInvalid (2 - k) e then .fault 2
      else if pteLeaf e then (if fmtLegal (pteFmt e) (pteGeom e) then .leaf (16 + 13 * k) e (table + 8 * (x.toNat / 2 ^ (16 + 13 * k) % 8192)) else .fault 3)
      else s.walkFrom x (pteFrame e) k) := rfl
  clear_value r e
  subst hr
  refine ⟨fun h => ?_, fun h hi => ?_, fun h hi hl => ⟨fun hf => ?_, fun hf => ?_⟩, fun h hi hl => ?_⟩
  · rw [h]; rfl
  · rw [h, hi]; rfl
  · rw [h, hi, hl, hf]; rfl
  · rw [h, hi, hl, hf]; rfl
  · rw [h, hi, hl]; rfl

/-- A leaf's frame that is aligned to its block takes the low bits of the address. -/
theorem xlatOf_pa {x : DWord} {bits : Nat} {pte : DWord} {a : Nat} (h : 2 ^ bits ∣ pteFrame pte) : (xlatOf x bits pte a).pa = pteFrame pte + x.toNat % 2 ^ bits := by
  rw [xlatOf, Nat.div_mul_cancel h]

/-- A field of zeros at the bottom of a number makes it a multiple. -/
theorem dvd_of_extract_zero {e : DWord} {m : Nat} (hm : m ≤ 40) (h : e.extractLsb' 16 m = 0) : 2 ^ (m + 16) ∣ pteFrame e := by
  have hz : e.toNat / 2 ^ 16 % 2 ^ m = 0 := by
    have := congrArg BitVec.toNat h
    rwa [BitVec.extractLsb'_toNat, Nat.shiftRight_eq_div_pow] at this
  have hf : pteFrame e = e.toNat / 2 ^ 16 % 2 ^ 40 * 2 ^ 16 := by
    rw [pteFrame, BitVec.extractLsb'_toNat, Nat.shiftRight_eq_div_pow, show (65536 : Nat) = 2 ^ 16 from rfl]
  rw [hf, Nat.pow_add]
  refine Nat.mul_dvd_mul_right (Nat.dvd_of_mod_eq_zero ?_) _
  rw [Nat.mod_mod_of_dvd _ (Nat.pow_dvd_pow 2 hm), hz]

/-- A valid leaf's frame is aligned to its level's block (R194). -/
theorem pteFrame_aligned {k : Nat} (hk : k ≤ 2) {e : DWord} (hi : pteInvalid (2 - k) e = false) (hl : pteLeaf e = true) : 2 ^ (16 + 13 * k) ∣ pteFrame e := by
  simp only [pteInvalid, hl, Bool.not_true, Bool.false_and, Bool.or_false, Bool.true_and, Bool.or_eq_false_iff] at hi
  obtain ⟨-, ⟨⟨⟨h0, h1⟩, -⟩, -⟩, -⟩ := hi
  obtain rfl | rfl | rfl : k = 0 ∨ k = 1 ∨ k = 2 := by omega
  · exact ⟨_, Nat.mul_comm _ _⟩
  · exact dvd_of_extract_zero (m := 13) (by decide) (by simpa using h1)
  · exact dvd_of_extract_zero (m := 26) (by decide) (by simpa using h0)

/-- No entry of the last level names another table. -/
theorem pteInvalid_last {e : DWord} (hl : pteLeaf e = false) : pteInvalid 2 e = true := by
  simp [pteInvalid, hl]

/-! ## A and D (R195) -/

theorem entry_setBytes_same {s : State} (h : Memory.wf s.mem = true) (a : Nat) (e : DWord) : (s.setBytes a (leBytes 8 e.toNat)).entry a = e := by
  have hb := bytes_setBytes_same h a (leBytes 8 e.toNat)
  rw [length_leBytes] at hb
  rw [State.entry, hb, leNat_leBytes, Nat.mod_eq_of_lt (by have := e.isLt; omega)]
  simp

/-- The flags that an access sets in its leaf. -/
def touchBits (write : Bool) : DWord := 0x80 ||| (if write then 0x100 else 0)

/-- A leaf that has its flags gains nothing. -/
theorem or_touchBits_of_set {p : DWord} {write : Bool} (h : (pteA p && (!write || pteD p)) = true) : p ||| touchBits write = p := by
  obtain ⟨ha, hd⟩ := Bool.and_eq_true_iff.mp h
  simp only [pteA, pteD] at ha hd
  apply BitVec.eq_of_getLsbD_eq
  intro i hi
  cases write with
  | false =>
    have : (touchBits false).getLsbD i = decide (i = 7) := by revert i; decide
    rw [BitVec.getLsbD_or, this]
    by_cases h7 : i = 7 <;> simp [h7, ha]
  | true =>
    simp only [Bool.not_true, Bool.false_or] at hd
    have : (touchBits true).getLsbD i = (decide (i = 7) || decide (i = 8)) := by revert i; decide
    rw [BitVec.getLsbD_or, this]
    by_cases h7 : i = 7
    · simp [h7, ha]
    · by_cases h8 : i = 8
      · simp [h8, hd]
      · simp [h7, h8]

/-- Whether an access leaves its leaf as it is. -/
def touched (s : State) (d c : Nat) (t : Xlat) (write : Bool) : Bool := (pteA t.pte && (!write || pteD t.pte)) || s.refused d c t.at_

theorem State.touch_done {s : State} {d c : Nat} {t : Xlat} {write : Bool} (h : touched s d c t write = true) : s.touch d c t write = (true, s) := if_pos h

/-- The leaf still stands: its flags are set in memory. -/
theorem State.touch_sets {s : State} {d c : Nat} {t : Xlat} {write : Bool} (h : touched s d c t write = false) (hq : s.Quiet (lineOf t.at_))
    (hs : pteV (s.entry t.at_) = true ∧ pteLeaf (s.entry t.at_) = true ∧ pteFrame (s.entry t.at_) = pteFrame t.pte) :
    (s.touch d c t write).1 = true ∧ (s.touch d c t write).2.mem = (s.setBytes t.at_ (leBytes 8 (s.entry t.at_ ||| touchBits write).toNat)).mem := by
  obtain ⟨hv, hl, hf⟩ := hs
  unfold touched at h
  unfold State.touch
  rw [if_neg (Bool.eq_false_iff.mp h), State.settleHome_quiet hq]
  dsimp only
  rw [hv, hl, hf]
  simp only [BEq.rfl, Bool.and_self, if_true]
  exact ⟨trivial, rfl⟩

/-- The leaf stands no longer: the TLB entries of it go. -/
theorem State.touch_drops {s : State} {d c : Nat} {t : Xlat} {write : Bool} (h : touched s d c t write = false) (hq : s.Quiet (lineOf t.at_))
    (hs : (pteV (s.entry t.at_) && pteLeaf (s.entry t.at_) && pteFrame (s.entry t.at_) == pteFrame t.pte) = false) :
    s.touch d c t write = (false, s.dropTlb d c t.at_) := by
  unfold touched at h
  unfold State.touch
  rw [if_neg (Bool.eq_false_iff.mp h), State.settleHome_quiet hq]
  dsimp only
  rw [hs]
  rfl

/-- Settles O41: the walk's levels one after another, and the three ends of the setting of A and D. -/
theorem translationWalk : Obligations.TranslationWalk := by
  refine ⟨?_, ?_⟩
  · intro s d c x hm hq r e0 e1 e2 ends goes
    have hr : r = (s.walkFrom x (s.ctx d c).ptbase.toNat 3).answer x := State.translate_walks hq hm
    have hdig (k : Nat) : (x.extractLsb' k 13).toNat = x.toNat / 2 ^ k % 8192 := by
      rw [BitVec.extractLsb'_toNat, Nat.shiftRight_eq_div_pow]
    have level {k table : Nat} {e : DWord} (hk : k ≤ 2) (he : e = s.entry (table + 8 * (x.toNat / 2 ^ (16 + 13 * k) % 8192)))
        (hw : r = (s.walkFrom x table (k + 1)).answer x) : ends (2 - k) e (16 + 13 * k) := by
      obtain ⟨h1, h2, h3, -⟩ := Walk.answer_at (s := s) (x := x) (table := table) (k := k)
      rw [← he, ← hw] at h1 h2 h3
      refine ⟨h1, h2, fun hv hi hl => ⟨(h3 hv hi hl).1, fun hf => ⟨_, (h3 hv hi hl).2 hf, rfl, xlatOf_pa (pteFrame_aligned hk hi hl)⟩⟩⟩
    have down {k table : Nat} {e : DWord} (he : e = s.entry (table + 8 * (x.toNat / 2 ^ (16 + 13 * k) % 8192)))
        (hw : r = (s.walkFrom x table (k + 1)).answer x) (hg : goes (2 - k) e) : r = (s.walkFrom x (pteFrame e) k).answer x := by
      obtain ⟨-, -, -, h4⟩ := Walk.answer_at (s := s) (x := x) (table := table) (k := k)
      rw [← he, ← hw] at h4
      exact h4 hg.1 hg.2.1 hg.2.2
    have he0 : e0 = s.entry ((s.ctx d c).ptbase.toNat + 8 * (x.toNat / 2 ^ (16 + 13 * 2) % 8192)) := by rw [← hdig]
    have he1 : e1 = s.entry (pteFrame e0 + 8 * (x.toNat / 2 ^ (16 + 13 * 1) % 8192)) := by rw [← hdig]
    have he2 : e2 = s.entry (pteFrame e1 + 8 * (x.toNat / 2 ^ (16 + 13 * 0) % 8192)) := by rw [← hdig]
    refine ⟨level (k := 2) (by decide) he0 hr, fun g0 => level (k := 1) (by decide) he1 (down he0 hr g0), fun g0 g1 => ?_, ?_⟩
    · have h2 := level (k := 0) (by decide) he2 (down he1 (down he0 hr g0) g1)
      exact ⟨h2, fun hv hl => h2.2.1 hv (pteInvalid_last hl)⟩
    · obtain ⟨l, hl⟩ := State.translate_quiet hq d c x
      rw [hl]
  · intro s d c x write hwf hst hrecs r
    have hq : s.Quiet (lineOf x.at_) := ⟨hst, hrecs⟩
    refine ⟨fun href => ?_, fun href he hv hl => ?_, fun href hunset hgone => ?_⟩
    · have hr : r = (true, s) := State.touch_done (by rw [touched, href, Bool.or_true])
      rw [hr]
    · rw [BitVec.or_assoc]
      cases ht : touched s d c x write with
      | true =>
        have hr : r = (true, s) := State.touch_done ht
        rw [touched, href, Bool.or_false] at ht
        rw [hr]
        exact ⟨rfl, he.trans (or_touchBits_of_set ht).symm, fun _ _ => rfl⟩
      | false =>
        obtain ⟨h1, hmem⟩ := State.touch_sets ht hq ⟨he ▸ hv, he ▸ hl, he ▸ rfl⟩
        refine ⟨h1, ?_, fun a ha => ?_⟩
        · rw [State.entry, State.bytes, hmem]
          exact (entry_setBytes_same hwf _ _).trans (congrArg (· ||| touchBits write) he)
        · rw [State.byte, hmem]
          exact byte_setBytes_outside hwf (by rwa [length_leBytes])
    · have ht : touched s d c x write = false := by
        rw [touched, href, Bool.or_false]
        rcases hunset with h | ⟨h1, h2⟩
        · rw [h, Bool.false_and]
        · rw [h1, h2]; exact Bool.and_false _
      have hr : r = (false, s.dropTlb d c x.at_) := State.touch_drops ht hq (by
        rcases hgone with h | h | h
        · rw [h]; rfl
        · rw [h, Bool.and_false]; rfl
        · rw [beq_eq_false_iff_ne.mpr h, Bool.and_false])
      rw [hr]
      refine ⟨rfl, rfl, fun t htm => ?_⟩
      have := (List.mem_filter.mp htm).2
      rintro ⟨rfl, rfl, hat⟩
      simp [hat] at this

end Sys2Proof.Machine
end

section
/-! PROOFS. Memory instructions: all their threads performed, or stopped by the first that cannot be (R205 to R211). -/

namespace Sys2Proof.Machine

/-! ## Their threads, one after another -/

/-- A word tried for the first time ends its issue once its threads are performed. -/
theorem State.threadsAt_performs {s u : State} {c : Ctx} {f : Fields} {level : Nat} {one : State → Nat → Thr × State} {ws : List (RegKey × Word)}
    (hsel : c.sel ≠ 0) (hh : c.hold = none) (hl : c.late = none) (h : performs one (accessing f c.sel) (s.orderNow c f level) = some (ws, u)) :
    s.threadsAt c f level one = u.finishLate c ws := by
  obtain ⟨htodo, hdone⟩ := Ctx.todo_fresh hh f
  have hslice : c.slice f = accessing f c.sel := by rw [Ctx.slice, hl, htodo]; rfl
  unfold State.threadsAt
  rw [if_neg fun he => hsel (beq_iff_eq.mp he), hslice, htodo, hdone]
  exact (if_neg (Nat.lt_irrefl _)).trans (runThreads_finish c h)

/-- The threads before one that stops, and the one that stops. -/
theorem runThreads_stops {one : State → Nat → Thr × State} {pre post : List Nat} {t : Nat} {u v : State} {e : Stop} {ws : List (RegKey × Word)} {r : Run}
    (h : performs one pre r.s = some (ws, u)) (ht : one u t = (.stop e, v)) :
    runThreads one (pre ++ t :: post) r = { r with s := v, done := pre.foldl (fun m t => m ||| bitMask t) r.done, ws := r.ws ++ ws, stop := some e } := by
  induction pre generalizing r ws with
  | nil =>
    simp only [performs, Option.some.injEq, Prod.mk.injEq] at h
    obtain ⟨rfl, rfl⟩ := h
    simp only [List.nil_append, runThreads, ht, List.foldl_nil, List.append_nil]
  | cons x xs ih =>
    simp only [performs] at h
    split at h
    · next ws1 s1 h1 =>
      obtain ⟨y, hy, hyw⟩ := Option.map_eq_some_iff.mp h
      simp only [Prod.mk.injEq] at hyw
      obtain ⟨rfl, rfl⟩ := hyw
      rw [List.cons_append, runThreads, h1]
      simp only [ih (r := { r with s := s1, done := r.done ||| bitMask x, ws := r.ws ++ ws1 }) hy, List.foldl_cons, List.append_assoc]
    · cases h

/-- A word tried for the first time stops at the first thread that cannot be performed. -/
theorem State.threadsAt_stops {s u v : State} {c : Ctx} {f : Fields} {level : Nat} {one : State → Nat → Thr × State} {pre post : List Nat} {t : Nat}
    {e : Stop} {ws : List (RegKey × Word)} (hsel : c.sel ≠ 0) (hh : c.hold = none) (hl : c.late = none) (ha : accessing f c.sel = pre ++ t :: post)
    (h : performs one pre (s.orderNow c f level) = some (ws, u)) (ht : one u t = (.stop e, v)) :
    s.threadsAt c f level one = ({ s := v, done := maskOf pre, ws, stop := some e } : Run).finish c := by
  obtain ⟨htodo, hdone⟩ := Ctx.todo_fresh hh f
  have hslice : c.slice f = accessing f c.sel := by rw [Ctx.slice, hl, htodo]; rfl
  unfold State.threadsAt
  rw [if_neg fun he => hsel (beq_iff_eq.mp he), hslice, htodo, hdone, ha]
  refine (if_neg (Nat.lt_irrefl _)).trans ?_
  rw [runThreads_stops h ht]
  rfl

theorem State.Issues.hold_none {s : State} {i : Form} {f : Fields} {c : Ctx} (h : s.Issues i f c) : (s.issued i f c).1.hold = none :=
  h.raised.same.2.2.2.2.trans h.2.1

theorem State.Issues.sel {s : State} {i : Form} {f : Fields} {c : Ctx} (h : s.Issues i f c) : (s.issued i f c).1.sel = c.sel := h.raised.same.2.1

section
variable {s : State} {i : Form} {f g : Fields} {c : Ctx} {level : Nat} {one : Ctx → State → Nat → Thr × State}

/-- An issued word whose body performs its threads, all of which are performed. -/
theorem exec_performs (h : s.Issues i f c) (hsel : c.sel ≠ 0) {body : Ctx → State → State} (hx : exec (i.mk f) s = issue i f body s)
    (hb : ∀ d t, d.late = none → d.sel ≠ 0 → body d t = t.threadsAt d g level (one d)) {ws : List (RegKey × Word)} {u : State}
    (hp : performs (one (s.issued i f c).1) (accessing g c.sel) ((s.issued i f c).2.orderNow (s.issued i f c).1 g level) = some (ws, u)) :
    exec (i.mk f) s = .next (u.finishLate (s.issued i f c).1 ws) := by
  have hs := h.sel
  rw [hx, issue_next h, hb _ _ h.late_none (hs ▸ hsel), State.threadsAt_performs (hs ▸ hsel) h.hold_none h.late_none (hs ▸ hp)]

/-- An issued word whose body performs its threads, one of which stops it. -/
theorem exec_stops (h : s.Issues i f c) (hsel : c.sel ≠ 0) {body : Ctx → State → State} (hx : exec (i.mk f) s = issue i f body s)
    (hb : ∀ d t, d.late = none → d.sel ≠ 0 → body d t = t.threadsAt d g level (one d)) {pre post : List Nat} {t : Nat} {ws : List (RegKey × Word)} {u v : State}
    (ha : accessing g c.sel = pre ++ t :: post)
    (hp : performs (one (s.issued i f c).1) pre ((s.issued i f c).2.orderNow (s.issued i f c).1 g level) = some (ws, u)) :
    (∀ cls reason va info, one (s.issued i f c).1 u t = (.stop (.trap cls reason va info), v) →
      exec (i.mk f) s = .next (v.trap (s.issued i f c).1 cls reason (maskOf pre) va info)) ∧
    (∀ va access reason, one (s.issued i f c).1 u t = (.stop (.stall va access reason), v) →
      exec (i.mk f) s = .next ((v.writeLate (s.issued i f c).1 ws).stall (s.issued i f c).1 va access reason (maskOf pre))) := by
  have hs := h.sel
  have run {e : Stop} (ht : one (s.issued i f c).1 u t = (.stop e, v)) :
      exec (i.mk f) s = .next (({ s := v, done := maskOf pre, ws, stop := some e } : Run).finish (s.issued i f c).1) := by
    rw [hx, issue_next h, hb _ _ h.late_none (hs ▸ hsel), State.threadsAt_stops (hs ▸ hsel) h.hold_none h.late_none (hs ▸ ha) hp ht]
  exact ⟨fun _ _ _ _ ht => run ht, fun _ _ _ ht => run ht⟩

end

/-! ## The order of an Accrue deposit (R335) -/

/-- What comes before the deposits of an `accr`: an acquire has no order of its own there. -/
def depositStart (f : Fields) (c : Ctx) (s : State) : State := if modOrder f.mod = 2 then s else s.orderNow c f (relLevel f)

theorem modOrder_cleared (m : BitVec 6) : modOrder (m &&& 0x0F ||| 0x10) = 1 := by revert m; decide

theorem orderNow_depositing (f : Fields) (c : Ctx) (s : State) : s.orderNow c (depositing f) (relLevel (depositing f)) = depositStart f c s := by
  unfold depositing depositStart
  by_cases h : modOrder f.mod = 2
  · rw [if_pos (beq_iff_eq.mpr h), if_pos h]
    simp only [State.orderNow, relLevel, modOrder_cleared]
    rfl
  · rw [if_neg fun he => h (beq_iff_eq.mp he), if_neg h]

theorem accessing_depositing (f : Fields) (m : Mask) : accessing (depositing f) m = accessing f m := by
  unfold depositing
  split <;> rfl

/-! ## The words that perform threads -/

theorem exec_atomv (f : Fields) (s : State) : exec (.atomv f) s = issue .atomv f (fun c s =>
    if c.late.isSome then s.atomNext c f else s.threads c f fun s t => s.atomThread c f (opOf f.a) 32 (32 / (opOf f.a).bytes) t) s := rfl
theorem exec_acctag (f : Fields) (s : State) : exec (.acctag f) s = issue .acctag f (fun c s =>
    let op := (c.once s f.a).toNat
    if c.sel == 0 then s.finishIdle c else if 11 < op then s.trap c .operand 24
    else s.threads c f fun s t => s.acctagThread c f (memOpOf op) t) s := rfl

theorem atomv_body {f : Fields} (d : Ctx) (t : State) (hl : d.late = none) (_ : d.sel ≠ 0) :
    (if d.late.isSome then t.atomNext d f else t.threads d f fun s t => s.atomThread d f (opOf f.a) 32 (32 / (opOf f.a).bytes) t) =
      t.threadsAt d f (relLevel f) fun s t => s.atomThread d f (opOf f.a) 32 (32 / (opOf f.a).bytes) t := by
  rw [hl]
  rfl

/-! ## pf and the cache operations (R210, R211) -/

/-- An operation on lines that changes nothing where nothing is pending. -/
def Idles (act : State → Nat → State) : Prop := ∀ (s : State) (a : Nat), s.lines = [] → s.reqs = [] → (∀ d c, (s.core d c).queue = []) → act s a = s

/-- The threads' addresses translated where nothing is pending: only the TLB changes. -/
theorem State.peekAll_idle {s : State} (hl : s.lines = []) (hr : s.reqs = []) (hq : ∀ d c, (s.core d c).queue = []) (c : Ctx) (f : Fields)
    {act : State → Nat → State} (ha : Idles act) : ∃ l, s.peekAll c f act = { s with tlb := l } := by
  unfold State.peekAll
  generalize threadsOf c.sel = ts
  suffices h : ∀ l0 : List Tlb, ∃ l, ts.foldl (fun s t =>
      let x := c.addr s f.a (offsetOf f.b) t
      if !canonical x then s
      else match s.translate c.dev c.ctx x with
        | (.ok y, s1) => if s1.unmapped y.pa then s1 else act s1 (lineOf y.pa)
        | (.error _, s1) => s1) { s with tlb := l0 } = { s with tlb := l } from h s.tlb
  induction ts with
  | nil => exact fun l0 => ⟨l0, rfl⟩
  | cons t ts ih =>
    intro l0
    rw [List.foldl_cons]
    dsimp only
    split
    · exact ih l0
    · obtain ⟨l1, h1⟩ := State.translate_quiet (s := { s with tlb := l0 }) (State.quiet_of_no_lines hl) c.dev c.ctx (c.addr { s with tlb := l0 } f.a (offsetOf f.b) t)
      split
      · next y s1 heq =>
        obtain rfl : s1 = { s with tlb := l1 } := by rw [heq] at h1; exact h1
        split
        · exact ih l1
        · rw [ha { s with tlb := l1 } _ hl hr hq]
          exact ih l1
      · next s1 heq =>
        obtain rfl : s1 = { s with tlb := l1 } := by rw [heq] at h1; exact h1
        exact ih l1

theorem idles_none : Idles fun s _ => s := fun _ _ _ _ _ => rfl

theorem idles_cleanLine (c : Ctx) : Idles fun s a => s.cleanLine c a := fun s a _ hr hq =>
  State.publishLine_idle (by rw [hq]; rfl) hr

theorem idles_flushLine (c : Ctx) : Idles fun s a => s.flushLine c a := fun s a hl hr hq => by
  show ({ s.cleanLine c a with lines := modIf _ _ (s.cleanLine c a).lines } : State) = s
  rw [show s.cleanLine c a = s from idles_cleanLine c s a hl hr hq, hl]
  show ({ s with lines := [] } : State) = s
  rw [← hl]

/-- An issue leaves the same over another TLB. -/
theorem Raised.with_tlb {s t : State} {c d : Ctx} (h : Raised s c d t) (l : List Tlb) : Raised { s with tlb := l } c d { t with tlb := l } where
  same := h.same
  weft := h.weft
  path := h.path
  pc := h.pc
  paths := h.paths
  reg := h.reg
  rest := h.rest
  out := h.out
  frame := { rest := congrArg (fun z : State => { z with tlb := l }) h.frame.rest, cores := h.frame.cores, groups := h.frame.groups, others := h.frame.others }

/-- An issued word that reaches lines where nothing is pending ends its issue, and the memory, the lines, the contexts and the regions stay. -/
theorem peeks_end {s : State} {i : Form} {f : Fields} {c : Ctx} {act : Ctx → State → Nat → State} (h : s.Issues i f c)
    (hx : exec (i.mk f) s = issue i f (fun c s => (s.peekAll c f (act c)).finish i c []) s) (ha : ∀ d, Idles (act d)) :
    exec (i.mk f) s = .next (((s.issued i f c).2.peekAll (s.issued i f c).1 f (act (s.issued i f c).1)).finish i (s.issued i f c).1 []) ∧
    (s.lines = [] → s.reqs = [] → (∀ k ∈ s.cores, k.queue = []) →
      ∃ t w, exec (i.mk f) s = .next t ∧ t.weft? c.r.g c.r.w = some w ∧ Ends i c [] (s.issued i f c).1.out w ∧ t.mem = s.mem ∧ t.lines = s.lines ∧
        t.ctxs = s.ctxs ∧ t.regions = s.regions) := by
  have hexec := hx.trans (issue_next h _)
  refine ⟨hexec, fun hl hr hq => ?_⟩
  have hR := h.raised
  have hlines : (s.issued i f c).2.lines = [] := ((congrArg State.lines hR.frame.rest :)).trans hl
  have hreqs : (s.issued i f c).2.reqs = [] := ((congrArg State.reqs hR.frame.rest :)).trans hr
  have hcores (d n : Nat) : ((s.issued i f c).2.core d n).queue = [] :=
    ((congrArg Core.queue (hR.frame.cores d n) :)).trans (State.core_queue_nil hq d n)
  obtain ⟨l, hpeek⟩ := State.peekAll_idle hlines hreqs hcores (s.issued i f c).1 f (ha (s.issued i f c).1)
  obtain ⟨w, hw, he, hf⟩ := State.finish_ends (hR.with_tlb l) i [] (fun _ hx => absurd hx List.not_mem_nil) fun _ => rfl
  rw [hpeek] at hexec
  exact ⟨_, w, hexec, hw, he, (congrArg State.mem hf.rest :), (congrArg State.lines hf.rest :), (congrArg State.ctxs hf.rest :), (congrArg State.regions hf.rest :)⟩

/-- Settles O34: every word of the group performs its threads after what its order puts before them. -/
theorem memoryCompletes : Obligations.MemoryCompletes := by
  refine ⟨?_, ?_, ?_⟩
  · intro s f c hsel endsFrom endsAt ends deposits a d
    have at_ {level : Nat} {i : Form} {one : Ctx → State → Nat → Thr × State}
        (hx : exec (i.mk f) s = issue i f (fun c s => s.threadsAt c f level (one c)) s) : endsAt level i one :=
      fun h ws u hp => exec_performs h hsel hx (fun _ _ _ _ => rfl) hp
    have own {i : Form} {one : Ctx → State → Nat → Thr × State}
        (hx : exec (i.mk f) s = issue i f (fun c s => s.threadsAt c f (relLevel f) (one c)) s) : ends i one := at_ hx
    have hatomv : ends .atomv fun c s t => s.atomThread c f (opOf f.a) 32 (32 / (opOf f.a).bytes) t :=
      fun h ws u hp => exec_performs h hsel (exec_atomv f s) atomv_body hp
    have haccr : endsFrom deposits .accr fun c s t => s.accrThread c f (opOf f.d) t := fun h ws u hp =>
      exec_performs (g := depositing f) (level := relLevel (depositing f)) (one := fun c s t => s.accrThread c f (opOf f.d) t) h hsel
        (body := fun c s => s.threads c (depositing f) fun s t => s.accrThread c f (opOf f.d) t) rfl (fun _ _ _ _ => rfl)
        (by rw [accessing_depositing, orderNow_depositing]; exact hp)
    clear_value ends endsAt endsFrom
    exact ⟨own rfl, own rfl, own rfl, at_ rfl, own rfl, own rfl, own rfl, own rfl, hatomv, own rfl, own rfl, own rfl, haccr, own rfl, own rfl, own rfl,
      own rfl, own rfl, own rfl, own rfl, own rfl⟩
  · intro s f c hsel h q op
    have hsel' : ¬(q.1.sel == 0) = true := fun he => hsel (h.sel.symm.trans (beq_iff_eq.mp he))
    have hexec := (exec_acctag f s).trans (issue_next h _)
    refine ⟨fun hop => ⟨q.1.info .operand 24 0 0 0, rfl, rfl, rfl, hexec.trans (congrArg _ ?_)⟩, fun hop ws u hp => hexec.trans (congrArg _ ?_)⟩
    · dsimp only
      rw [if_neg hsel', if_pos hop, State.trap, h.raised.same.1]
    · dsimp only
      rw [if_neg hsel', if_neg (Nat.not_lt.mpr hop)]
      exact State.threadsAt_performs (fun he => hsel' (beq_iff_eq.mpr he)) h.hold_none h.late_none (h.sel ▸ hp)
  · intro x hx s f c h
    simp only [List.mem_cons, List.not_mem_nil, or_false] at hx
    rcases hx with rfl | rfl | rfl | rfl
    · exact peeks_end h rfl fun _ => idles_none
    · exact peeks_end h rfl fun _ => idles_none
    · exact peeks_end h rfl idles_cleanLine
    · exact peeks_end h rfl idles_flushLine

/-- Settles O35: the run of the threads up to the one that stops, and the end of a stopped run. -/
theorem memoryStops : Obligations.MemoryStops := by
  intro s f c hsel stopsFrom stopsAt stops deposits a d
  have at_ {level : Nat} {i : Form} {one : Ctx → State → Nat → Thr × State}
      (hx : exec (i.mk f) s = issue i f (fun c s => s.threadsAt c f level (one c)) s) : stopsAt level i one :=
    fun h pre t post ws u v ha hp => exec_stops h hsel hx (fun _ _ _ _ => rfl) ha hp
  have own {i : Form} {one : Ctx → State → Nat → Thr × State}
      (hx : exec (i.mk f) s = issue i f (fun c s => s.threadsAt c f (relLevel f) (one c)) s) : stops i one := at_ hx
  have haccr : stopsFrom deposits .accr fun c s t => s.accrThread c f (opOf f.d) t := fun h pre t post ws u v ha hp =>
    exec_stops (g := depositing f) (level := relLevel (depositing f)) (one := fun c s t => s.accrThread c f (opOf f.d) t) h hsel
      (body := fun c s => s.threads c (depositing f) fun s t => s.accrThread c f (opOf f.d) t) rfl (fun _ _ _ _ => rfl)
      (by rw [accessing_depositing]; exact ha) (by rw [orderNow_depositing]; exact hp)
  clear_value stops stopsAt stopsFrom
  exact ⟨own rfl, own rfl, own rfl, at_ rfl, own rfl, own rfl, own rfl, own rfl, haccr, own rfl⟩

end Sys2Proof.Machine
end

section
/-! PROOFS. The checks of an access, and what a core reads (R205, R309). -/

namespace Sys2Proof.Machine

/-! ## The checks of one unscaled element (R205) -/

theorem findSome?_single {α β : Type} (f : α → Option β) (a : α) : [a].findSome? f = f a := by
  cases h : f a <;> simp [h]

theorem map_find?_single {α β : Type} (p : α → Bool) (g : α → β) (a : α) : ([a].find? p).map g = if p a then some (g a) else none := by
  cases h : p a <;> simp [h]

/-- What stops an access of one unscaled element that translates, in the order of R205. -/
def stopOf (c : Ctx) (q : Query) (x : DWord) (y : Xlat) (s1 : State) : Option Stop :=
  permStop c.priv q.read q.write x y
  <|> (if q.accrue && !pteAccrue y.pte then some (.trap .memoryAccess 16 x 0) else none)
  <|> (if !q.raw && (pteFmt y.pte != 0 && !q.pair (pteFmt y.pte)) then some (.trap .memoryAccess 7 x 0) else none)
  <|> (if s1.unmapped y.pa then some (.trap .memoryAccess 9 x 0) else none)

section
variable {s s1 : State} {c : Ctx} {q : Query} {x : DWord} {k : Nat} (hn : q.n = 1)
include hn

theorem single_vas : ((List.range q.n).map fun i => x + BitVec.ofNat 64 (i * q.z)) = [x] := by
  rw [hn]
  simp

theorem checkElems_noncanonical (h : canonical x = false) : s.checkElems c q x (k + 1) = (.error (.trap .memoryAccess 1 x 0), s) := by
  unfold State.checkElems
  simp only [single_vas hn, List.find?_cons, h, Bool.not_false]

theorem checkElems_misaligned (h : canonical x = true) (ha : x.toNat % q.z ≠ 0 ∨ x.toNat % q.align ≠ 0) :
    s.checkElems c q x (k + 1) = (.error (.trap .memoryAccess 2 x 0), s) := by
  unfold State.checkElems
  simp only [single_vas hn, List.find?_cons, h, Bool.not_true, List.find?_nil]
  by_cases hz : x.toNat % q.z = 0
  · have ha : (x.toNat % q.align != 0) = true := by simpa using ha.resolve_left (not_not_intro hz)
    simp only [hz, bne_self_eq_false, ha, if_true]
  · have hz : (x.toNat % q.z != 0) = true := by simpa using hz
    simp only [hz]

theorem checkElems_untranslated (h : canonical x = true) (hz : x.toNat % q.z = 0) (ha : x.toNat % q.align = 0) {e : Nat}
    (ht : s.translate c.dev c.ctx x = (.error e, s1)) : s.checkElems c q x (k + 1) = (.error (.stall x q.code e), s1) := by
  unfold State.checkElems
  simp only [single_vas hn, List.find?_cons, h, Bool.not_true, List.find?_nil, hz, ha, bne_self_eq_false, Bool.false_eq_true, if_false, State.lookups, ht]

theorem checkElems_translated (h : canonical x = true) (hz : x.toNat % q.z = 0) (ha : x.toNat % q.align = 0) {y : Xlat}
    (ht : s.translate c.dev c.ctx x = (.ok y, s1)) (hs : scaledFor q.raw y = false) :
    s.checkElems c q x (k + 1) = match stopOf c q x y s1 with
      | some e => (.error e, s1)
      | none => match s1.touch c.dev c.ctx y q.write with
        | (false, s3) => s3.checkElems c q x k
        | (true, s3) => (.ok [{ va := x, x := y }], s3) := by
  rw [State.checkElems.eq_2]
  simp only [single_vas hn, List.find?_cons, h, Bool.not_true, List.find?_nil, hz, ha, bne_self_eq_false, Bool.false_eq_true, if_false, State.lookups, ht]
  rw [List.zip_cons_cons, List.zip_nil_right, List.filter_cons, hs, if_neg Bool.false_ne_true, List.filter_nil, List.map_nil, List.find?_nil]
  rw [show s1.lookups c.dev c.ctx 0 [] = (.ok [], s1) from rfl]
  simp only [List.zip_nil_left, List.append_nil, findSome?_single, List.findSome?_nil, map_find?_single, hs, Bool.false_eq_true, if_false, ite_self,
    List.map_nil, List.map_cons, List.foldl_cons, List.foldl_nil, List.nil_append, State.touchAll]
  have hstop : (permStop c.priv q.read q.write x y <|> (none : Option Stop) <|>
      (if q.accrue = true then if (!pteAccrue y.pte) = true then some (.trap .memoryAccess 16 x 0) else none else none) <|> (none : Option Stop) <|>
      (if q.raw = true then none else if (pteFmt y.pte != 0 && !q.pair (pteFmt y.pte)) = true then some (.trap .memoryAccess 7 x 0) else none) <|>
      if s1.unmapped y.pa = true then some (.trap .memoryAccess 9 x 0) else none) = stopOf c q x y s1 := by
    unfold stopOf
    cases permStop c.priv q.read q.write x y <;> cases q.accrue <;> cases q.raw <;> simp
  rw [hstop]
  cases stopOf c q x y s1 with
  | some e => rfl
  | none =>
    obtain ⟨b, s3⟩ := s1.touch c.dev c.ctx y q.write
    cases b <;> rfl

end

theorem stopOf_none {c : Ctx} {q : Query} {x : DWord} {y : Xlat} {s1 : State} (hp : permStop c.priv q.read q.write x y = none)
    (ha : (q.accrue && !pteAccrue y.pte) = false) (hf : (!q.raw && (pteFmt y.pte != 0 && !q.pair (pteFmt y.pte))) = false) :
    stopOf c q x y s1 = if s1.unmapped y.pa then some (.trap .memoryAccess 9 x 0) else none := by
  simp [stopOf, hp, ha, hf]

/-- Settles O37: the checks of one unscaled element, one after another. -/
theorem accessChecks : Obligations.AccessChecks := by
  intro s c q x k hn _ stops r
  refine ⟨fun h => ⟨s, checkElems_noncanonical hn h⟩, fun h ha => ⟨s, checkElems_misaligned hn h ha⟩, fun h hz ha => ⟨fun e ht => ?_, fun y ht hs => ?_⟩⟩
  · exact ⟨(s.translate c.dev c.ctx x).2, checkElems_untranslated hn h hz ha (Prod.ext ht rfl)⟩
  · intro p sup perm fmt
    generalize hs1 : (s.translate c.dev c.ctx x).2 = s1
    have hr : r = _ := checkElems_translated (k := k) hn h hz ha (Prod.ext ht hs1) hs
    have stopped {e : Stop} (he : stopOf c q x y s1 = some e) : stops r e := ⟨s1, by rw [hr, he]⟩
    have hperm (hp : perm = false) : permStop c.priv q.read q.write x y = none := by
      simp only [perm, Bool.or_eq_false_iff] at hp
      obtain ⟨⟨h1, h2⟩, h3⟩ := hp
      rw [permStop, if_neg (Bool.eq_false_iff.mp h1), if_neg (Bool.eq_false_iff.mp h2), if_neg (Bool.eq_false_iff.mp h3)]
    have hfmt (hf : fmt = false) : (!q.raw && (pteFmt y.pte != 0 && !q.pair (pteFmt y.pte))) = false := by rw [← Bool.and_assoc]; exact hf
    refine ⟨fun hsup => stopped ?_, fun hsup hrd hR => stopped ?_, fun hsup hrd hw hW => stopped ?_, fun hp hac hA => stopped ?_, fun hp hac hf => stopped ?_,
      fun hp hac hf hu => stopped ?_, fun hp hac hf hu hA hD => ?_⟩
    · rw [stopOf, permStop, if_pos hsup]; rfl
    · rw [stopOf, permStop, if_neg (Bool.eq_false_iff.mp hsup), if_pos (by rw [hrd, hR]; rfl)]; rfl
    · rw [stopOf, permStop, if_neg (Bool.eq_false_iff.mp hsup), if_neg (by simpa using hrd), if_pos (by rw [hw, hW]; rfl)]; rfl
    · rw [stopOf, hperm hp, if_pos (by rw [hac, hA]; rfl)]; rfl
    · rw [stopOf, hperm hp, if_neg (Bool.eq_false_iff.mp hac), if_pos (by rw [← Bool.and_assoc]; exact hf)]; rfl
    · rw [stopOf_none (hperm hp) hac (hfmt hf), if_pos hu]
    · rw [hr, stopOf_none (hperm hp) hac (hfmt hf), if_neg (Bool.eq_false_iff.mp hu)]
      have ht : touched s1 c.dev c.ctx y q.write = true := by
        rw [touched, hA]
        cases hw : q.write with
        | false => rfl
        | true => rw [hD hw]; rfl
      simp only [State.touch_done ht]

/-! ## What a core reads (R309) -/

/-- A core's queue holds nothing for a line of its own device, or only stores: reading it changes nothing where the line is quiet. -/
theorem State.reach_quiet {s : State} {d c a : Nat} (hd : devOf a = d) (hq : s.Quiet a)
    (hown : ∀ e, (s.core d c).queue.find? (fun e => e.line == a) = some e → ∀ k ∈ e.conts, ∃ off bs, k = .bytes off bs) : s.reach d c a = s := by
  have hrest : ((s.force d c a).mergeLine a).noteSharer d c a = s := by
    rw [State.force_quiet hq.2, State.mergeLine_quiet hq.1, State.noteSharer, hd, BEq.rfl, Bool.true_or, if_pos rfl]
  unfold State.reach
  cases hf : (s.core d c).queue.find? fun e => e.line == a with
  | none =>
    dsimp only
    rw [hd, bne_self_eq_false, if_neg Bool.false_ne_true, hrest]
  | some e =>
    dsimp only
    rw [hd, bne_self_eq_false, Bool.false_or, if_neg, hrest]
    rw [List.any_eq_true]
    rintro ⟨k, hk, ht⟩
    obtain ⟨off, bs, rfl⟩ := hown e hf k hk
    cases ht

theorem State.readBytes_memory {s : State} {d c pa n : Nat} (hm : mmioOff pa = none) (hr : s.reach d c (lineOf pa) = s) :
    s.readBytes d c pa n = (s.coreBytes d c pa n, s) := by
  unfold State.readBytes
  rw [hm]
  simp only [hr]

theorem State.coreBytes_home {s : State} {d c pa : Nat} (n : Nat) (h : s.pendingConts d c (lineOf pa) = []) : s.coreBytes d c pa n = s.bytes pa n := by
  rw [State.coreBytes, h]

/-- Bytes put on a line read back. -/
theorem contOnLine_bytes_same {l bs : List Byte} {off : Nat} (h : off ≤ l.length) : ((contOnLine l (.bytes off bs)).drop off).take bs.length = bs := by
  simp only [contOnLine, List.append_assoc]
  rw [List.drop_append_of_le_length (by rw [List.length_take]; omega), List.drop_take, Nat.sub_self, List.take_zero, List.nil_append, List.take_left]

theorem devOf_lineOf (pa : Nat) : devOf (lineOf pa) = devOf pa := by
  unfold devOf lineOf
  omega

/-- A core with one contribution more in its queue, as one without a release leaves it. -/
def Core.accepted (x : Core) (clk a : Nat) (k : Contrib) (u : QUser) (recs : List RelRec) : Core :=
  { x with queue := upsert (fun e => e.line == a) { line := a, at_ := clk, epoch := x.epoch } (fun e => { e with conts := e.conts ++ [k], users := e.users ++ [u], recs := addRecs e.recs recs, sync := e.sync || false }) x.queue }

/-- A queue that is not full takes a contribution as it is. -/
theorem State.enqueue_eq {s : State} {d n : Nat} (hlen : (s.core d n).queue.length < 64) (a : Nat) (k : Contrib) (u : QUser) :
    s.enqueue d n a k u 0 = s.modCore d n fun x => x.accepted s.clk a k u ((s.core d n).records 0) := by
  unfold State.enqueue
  dsimp only
  rw [if_neg (by simp; omega)]
  rfl

/-- What a core has of a line that it has nothing for, once it has accepted one store. -/
theorem State.enqueue_first {s : State} {d n a : Nat} (hlen : (s.core d n).queue.length < 64) (hq : ∀ e ∈ (s.core d n).queue, e.line ≠ a) (k : Contrib) (u : QUser) :
    ∃ e, ((s.enqueue d n a k u 0).core d n).queue.find? (fun e => e.line == a) = some e ∧ e.conts = [k] := by
  have hnone : (s.core d n).queue.find? (fun e => e.line == a) = none := List.find?_eq_none.mpr fun e he => by simpa using hq e he
  rw [State.enqueue_eq hlen, State.core_modCore _ _ _ (fun x => x.accepted s.clk a k u ((s.core d n).records 0)) fun _ => ⟨rfl, rfl⟩, Core.accepted]
  dsimp only
  rw [find?_upsert, hnone]
  · exact ⟨_, rfl, rfl⟩
  · exact beq_iff_eq.mpr rfl
  · exact fun _ hx => hx

theorem State.enqueue_mem {s : State} {d n a : Nat} (hlen : (s.core d n).queue.length < 64) (k : Contrib) (u : QUser) :
    (s.enqueue d n a k u 0).mem = s.mem ∧ (s.enqueue d n a k u 0).lines = s.lines := by
  rw [State.enqueue_eq hlen]
  exact ⟨rfl, rfl⟩

/-- Settles O38: nothing is pending for the line, and then one store. -/
theorem coreReads : Obligations.CoreReads := by
  intro s d n pa bs u hd hm hfit hst hrecs _ hlen hq
  have hdl : devOf (lineOf pa) = d := (devOf_lineOf pa).trans hd
  have hnone : (s.core d n).queue.find? (fun e => e.line == lineOf pa) = none := List.find?_eq_none.mpr fun e he => by simpa using hq e he
  refine ⟨?_, ?_, (State.enqueue_mem hlen _ u).1⟩
  · rw [State.readBytes_memory hm (State.reach_quiet hdl ⟨hst, hrecs⟩ fun e he => by rw [hnone] at he; cases he), State.coreBytes_home]
    rw [State.pendingConts, hnone]
    rfl
  · obtain ⟨e, he, hconts⟩ := State.enqueue_first hlen hq (.bytes (pa % 128) bs) u
    have hlines := (State.enqueue_mem hlen (a := lineOf pa) (.bytes (pa % 128) bs) u).2
    generalize s.enqueue d n (lineOf pa) (.bytes (pa % 128) bs) u 0 = t at he hlines
    have hquiet : t.Quiet (lineOf pa) := by
      rw [State.Quiet, State.line, hlines]
      exact ⟨hst, hrecs⟩
    rw [State.readBytes_memory hm (State.reach_quiet hdl hquiet fun e' he' k hk => by
      rw [he] at he'
      cases he'
      rw [hconts, List.mem_singleton] at hk
      exact ⟨_, _, hk⟩)]
    have hpend : t.pendingConts d n (lineOf pa) = [.bytes (pa % 128) bs] := by rw [State.pendingConts, he]; exact hconts
    rw [State.coreBytes, hpend]
    exact contOnLine_bytes_same (by rw [length_bytes]; omega)

end Sys2Proof.Machine
end

section
/-! PROOFS. The window and the Beam: what a thread's access reads and stores (R200, R201). -/

namespace Sys2Proof.Machine

/-! ## Stores to a window -/

/-- A store to a window keeps the canonical form of memory, and no byte but its own changes. -/
theorem State.storeSpad_outside (G : Group) (bs : List Byte) {s : State} {x : Nat} (h : Memory.wf s.mem = true) :
    Memory.wf (s.storeSpad G x bs).mem = true ∧
    ∀ a, (∀ b, b < bs.length → G.headByte (x + b) = false → a ≠ G.spadAddr (x + b)) → (s.storeSpad G x bs).byte a = s.byte a := by
  induction bs generalizing s x with
  | nil => exact ⟨h, fun _ _ => rfl⟩
  | cons v vs ih =>
    have rest (a : Nat) (ha : ∀ b, b < (v :: vs).length → G.headByte (x + b) = false → a ≠ G.spadAddr (x + b)) :
        ∀ b, b < vs.length → G.headByte (x + 1 + b) = false → a ≠ G.spadAddr (x + 1 + b) := fun b hb hh => by
      rw [Nat.add_assoc, Nat.add_comm 1 b] at hh ⊢
      exact ha (b + 1) (by simpa using hb) hh
    cases hx : G.headByte x with
    | true =>
      rw [State.storeSpad, if_pos hx]
      exact ⟨(ih h).1, fun a ha => (ih h).2 a (rest a ha)⟩
    | false =>
      rw [State.storeSpad, if_neg (Bool.eq_false_iff.mp hx)]
      have hw : Memory.wf (s.setBytes (G.spadAddr x) [v]).mem = true := Sparse.wf_setRange h _ _
      refine ⟨(ih hw).1, fun a ha => ((ih hw).2 a (rest a ha)).trans (byte_setBytes_outside h ?_)⟩
      have := ha 0 (by simp) hx
      rw [Nat.add_zero] at this
      rw [List.length_singleton]
      omega

/-- The bytes of a store to a window whose addresses differ stand there, but for the read-only ones. -/
theorem State.storeSpad_same (G : Group) (bs : List Byte) {s : State} {x : Nat} (h : Memory.wf s.mem = true)
    (hinj : ∀ i j, i < j → j < bs.length → G.spadAddr (x + i) ≠ G.spadAddr (x + j)) {b : Nat} (hb : b < bs.length) (hh : G.headByte (x + b) = false) :
    (s.storeSpad G x bs).byte (G.spadAddr (x + b)) = bs.getD b 0 := by
  induction bs generalizing s x b with
  | nil => exact absurd hb (Nat.not_lt_zero _)
  | cons v vs ih =>
    cases b with
    | zero =>
      rw [Nat.add_zero] at hh ⊢
      rw [State.storeSpad, if_neg (Bool.eq_false_iff.mp hh)]
      have hw : Memory.wf (s.setBytes (G.spadAddr x) [v]).mem = true := Sparse.wf_setRange h _ _
      refine ((State.storeSpad_outside G vs hw).2 _ fun k hk _ => ?_).trans ?_
      · have := hinj 0 (k + 1) (Nat.succ_pos _) (by simpa using hk)
        rwa [Nat.add_zero, Nat.add_comm k 1, ← Nat.add_assoc] at this
      · have := bytes_setBytes_same h (G.spadAddr x) [v]
        simpa [State.bytes, Sparse.range, State.byte] using this
    | succ b =>
      have hx : x + (b + 1) = x + 1 + b := by omega
      rw [hx] at hh ⊢
      rw [State.storeSpad]
      have hw : Memory.wf (if G.headByte x then s else s.setBytes (G.spadAddr x) [v]).mem = true := by
        split
        · exact h
        · exact Sparse.wf_setRange h _ _
      exact ih hw (fun i j hij hj => by
        have := hinj (i + 1) (j + 1) (by omega) (by simpa using hj)
        rwa [Nat.add_comm i 1, ← Nat.add_assoc, Nat.add_comm j 1, ← Nat.add_assoc] at this) (by simpa using hb) hh

/-- Bytes of one granule stand at addresses that differ. -/
theorem Group.spadAddr_ne (G : Group) {x i j : Nat} (hij : i < j) (hx : x / 4096 = (x + j) / 4096) : G.spadAddr (x + i) ≠ G.spadAddr (x + j) := by
  have hi : (x + i) / 4096 = (x + j) / 4096 := by omega
  unfold Group.spadAddr Machine.spadAddr
  rw [hi]
  omega

/-- An aligned element lies within one granule. -/
theorem aligned_granule {x z j : Nat} (hz : z ∣ 4096) (hx : x % z = 0) (hj : j < z) : x / 4096 = (x + j) / 4096 := by
  obtain ⟨k, hk⟩ := hz
  have hz0 : 0 < z := by omega
  rw [hk, ← Nat.div_div_eq_div_mul, ← Nat.div_div_eq_div_mul]
  congr 1
  obtain ⟨q, rfl⟩ := Nat.dvd_of_mod_eq_zero hx
  rw [Nat.mul_add_div hz0, Nat.div_eq_of_lt hj, Nat.mul_div_cancel_left _ hz0, Nat.add_zero]

/-- The elements of a store to a window put there one after another: no byte changes but theirs. -/
theorem foldl_storeSpad_outside (G : Group) (x z n : Nat) (val : State → (Nat × Nat) × Nat → Nat) (es : List ((Nat × Nat) × Nat)) (hes : ∀ e ∈ es, e.2 < n)
    {s : State} (h : Memory.wf s.mem = true) :
    Memory.wf (es.foldl (fun s e => s.storeSpad G (x + e.2 * z) (leBytes z (val s e))) s).mem = true ∧
    ∀ a, (∀ b, b < n * z → G.headByte (x + b) = false → a ≠ G.spadAddr (x + b)) →
      (es.foldl (fun s e => s.storeSpad G (x + e.2 * z) (leBytes z (val s e))) s).byte a = s.byte a := by
  induction es generalizing s with
  | nil => exact ⟨h, fun _ _ => rfl⟩
  | cons e es ih =>
    obtain ⟨hw, hout⟩ := State.storeSpad_outside G (leBytes z (val s e)) (x := x + e.2 * z) h
    obtain ⟨hw', hout'⟩ := ih (fun y hy => hes y (List.mem_cons_of_mem _ hy)) hw
    refine ⟨hw', fun a ha => (hout' a ha).trans (hout a fun b hb hh => ?_)⟩
    rw [length_leBytes] at hb
    rw [Nat.add_assoc] at hh ⊢
    refine ha (e.2 * z + b) ?_ hh
    have := Nat.mul_le_mul_right z (Nat.succ_le_of_lt (hes e List.mem_cons_self))
    rw [Nat.succ_mul] at this
    omega

/-! ## Checks of a window access -/

section
variable {c : Ctx} {s : State} {o off : Operand} {z n t : Nat}

theorem Ctx.spadAt_outside (h : ¬(c.addr s o (offsetOf off) t).toNat % 2 ^ 32 + n * z ≤ c.G.spadsz) :
    c.spadAt s o off z n t = .error (.trap .memoryAccess 10 (BitVec.ofNat 64 ((c.addr s o (offsetOf off) t).toNat % 2 ^ 32)) 0) := if_pos (Nat.not_le.mp h)

theorem Ctx.spadAt_misaligned (h : (c.addr s o (offsetOf off) t).toNat % 2 ^ 32 + n * z ≤ c.G.spadsz) (ha : (c.addr s o (offsetOf off) t).toNat % 2 ^ 32 % z ≠ 0) :
    c.spadAt s o off z n t = .error (.trap .memoryAccess 2 (BitVec.ofNat 64 ((c.addr s o (offsetOf off) t).toNat % 2 ^ 32)) 0) :=
  (if_neg (Nat.not_lt.mpr h)).trans (if_pos (bne_iff_ne.mpr ha))

theorem Ctx.spadAt_ok (h : (c.addr s o (offsetOf off) t).toNat % 2 ^ 32 + n * z ≤ c.G.spadsz) (ha : (c.addr s o (offsetOf off) t).toNat % 2 ^ 32 % z = 0) :
    c.spadAt s o off z n t = .ok ((c.addr s o (offsetOf off) t).toNat % 2 ^ 32) :=
  (if_neg (Nat.not_lt.mpr h)).trans (if_neg (by rw [ha]; decide))

end

section
variable {s : State} {c : Ctx} {f : Fields} {z w t : Nat}

theorem State.ldsThread_stops {e : Stop} (h : c.spadAt s f.a f.b z (elemCount f w) t = .error e) : s.ldsThread c f z w t = (.stop e, s) := by
  rw [State.ldsThread, h]

theorem State.ldsThread_reads {x : Nat} (h : c.spadAt s f.a f.b z (elemCount f w) t = .ok x) : s.ldsThread c f z w t =
    (.ok (elemWrites f w (c.targets f t) ((List.range (elemCount f w)).map fun k => rawWords w (s.spadBytes c.G (x + k * z) z))), s) := by
  rw [State.ldsThread, h]

theorem State.stsThread_stops {e : Stop} (h : c.spadAt s f.d f.b z (elemCount f w) t = .error e) : s.stsThread c f z w t = (.stop e, s) := by
  rw [State.stsThread, h]

/-- The state that a `.rel` store starts from: its core's epoch has risen (R310). -/
def State.storeStart (s : State) (c : Ctx) (f : Fields) : State := if relLevel f == 0 then s else s.raiseEpoch c.dev c.core

theorem State.storeStart_mem (s : State) (c : Ctx) (f : Fields) : (s.storeStart c f).mem = s.mem := by
  unfold State.storeStart
  split <;> rfl

/-- A core's epoch is no operand. -/
theorem Ctx.elem_storeStart (s : State) (c : Ctx) (f : Fields) (m : Widen) (w : Nat) (o : Operand) (t i j : Nat) :
    c.elem (s.storeStart c f) m w o t i j = c.elem s m w o t i j := by
  unfold State.storeStart
  split
  · rfl
  · cases o <;> rfl

theorem State.stsThread_stores {x : Nat} (h : c.spadAt s f.d f.b z (elemCount f w) t = .ok x) : s.stsThread c f z w t =
    (.ok [], ((blockElems f w).zipIdx.foldl (fun s e => s.storeSpad c.G (x + e.2 * z) (leBytes z (c.elem s .int w f.a t e.1.1 e.1.2))) (s.storeStart c f)).lowerOwn c (c.shares f)) := by
  rw [State.stsThread, h]
  rfl

end

theorem getD_leBytes {z b : Nat} (hb : b < z) (v : Nat) : (leBytes z v).getD b 0 = BitVec.ofNat 8 (v / 2 ^ (8 * b)) := by
  induction z generalizing v b with
  | zero => exact absurd hb (Nat.not_lt_zero _)
  | succ z ih =>
    cases b with
    | zero => rw [Nat.mul_zero, Nat.pow_zero, Nat.div_one]; rfl
    | succ b =>
      refine (ih (Nat.lt_of_succ_lt_succ hb) (v / 256)).trans ?_
      rw [Nat.div_div_eq_div_mul, show (256 : Nat) = 2 ^ 8 from rfl, ← Nat.pow_add, Nat.mul_succ, Nat.add_comm]

/-! ## The Beam -/

/-- Some element of a Beam load reaches past its 2 GiB (R201). -/
def pastBeam (x : DWord) (n z : Nat) : Bool := (List.range n).any fun k => 2 ^ 31 ≤ (x + BitVec.ofNat 64 (k * z)).toNat

theorem pastBeam_iff {x : DWord} {n z : Nat} : pastBeam x n z = true ↔ ∃ k, k < n ∧ 2 ^ 31 ≤ (x + BitVec.ofNat 64 (k * z)).toNat := by
  unfold pastBeam
  simp only [List.any_eq_true, List.mem_range, decide_eq_true_eq]

theorem State.ldbThread_eq (s : State) (c : Ctx) (f : Fields) (z w t : Nat) :
    let x := c.addr s f.a (offsetOf f.b) t
    s.ldbThread c f z w t =
      if pastBeam x (elemCount f w) z then (.stop (.trap .memoryAccess 11 x 0), s)
      else if !c.R.beam then (.stop (.trap .memoryAccess 12 x 0), s)
      else if x.toNat % z != 0 then (.stop (.trap .memoryAccess 2 x 0), s)
      else if (List.range (elemCount f w)).any fun k => s.poison.contains (lineOf (beamAddr c.dev (x.toNat + k * z))) then (.stop (poisonStop x), s)
      else (.ok (elemWrites f w (c.targets f t) ((List.range (elemCount f w)).map fun k => rawWords w (s.bytes (beamAddr c.dev (x.toNat + k * z)) z))), s) := rfl

theorem beamAddr_eq (d x k : Nat) : beamAddr d (x + k) = d * 2 ^ 44 + 2 ^ 42 + x + k := by
  rw [beamAddr, ← Nat.add_assoc, show (0x40000000000 : Nat) = 2 ^ 42 from rfl]

/-- Settles O39: the window's checks and bytes, then those of the Beam. -/
theorem windowAccess : Obligations.WindowAccess := by
  refine ⟨?_, ?_⟩
  · intro s c f sub t hsub z w n x inside at_ written
    refine ⟨fun hin ha => ?_, fun hin => ?_, fun hin ha => ?_, fun hin => ?_, fun hin ha => ?_, fun hwf hin ha => ?_⟩
    · rw [State.ldsThread_reads (Ctx.spadAt_ok hin ha)]
      simp only [rawWords, State.spadBytes, Nat.add_assoc]
      rfl
    · exact State.ldsThread_stops (Ctx.spadAt_outside hin)
    · exact State.ldsThread_stops (Ctx.spadAt_misaligned hin ha)
    · exact State.stsThread_stops (Ctx.spadAt_outside hin)
    · exact State.stsThread_stops (Ctx.spadAt_misaligned hin ha)
    · have hwf' : Memory.wf (s.storeStart c f).mem = true := (State.storeStart_mem s c f).symm ▸ hwf
      have hes : ∀ e ∈ (blockElems f w).zipIdx, e.2 < n := fun e he => by
        have := List.snd_lt_of_mem_zipIdx he
        exact this
      obtain ⟨-, hout⟩ := foldl_storeSpad_outside c.G (x f.d) z n (fun s e => c.elem s .int w f.a t e.1.1 e.1.2) _ hes hwf'
      refine ⟨_, State.stsThread_stores (Ctx.spadAt_ok hin ha), fun a h => ?_, fun hone b hb hh => ?_⟩
      · rw [State.byte, State.lowerOwn, State.modW_mem]
        refine (hout a h).trans ?_
        rw [State.byte, State.storeStart_mem]
        rfl
      · rw [State.byte, State.lowerOwn, State.modW_mem, hone]
        simp only [List.zipIdx_cons, List.zipIdx_nil, List.foldl_cons, List.foldl_nil, Nat.zero_mul, Nat.add_zero]
        have hz : z ∣ 4096 := ⟨2 ^ (12 - sub), by show 2 ^ 12 = 2 ^ sub * 2 ^ (12 - sub); rw [← Nat.pow_add]; congr 1; omega⟩
        refine (State.storeSpad_same c.G (leBytes z (c.elem (s.storeStart c f) .int w f.a t 0 0)) hwf' (fun i j hij hj => ?_) (by rwa [length_leBytes]) hh).trans ?_
        · rw [length_leBytes] at hj
          exact c.G.spadAddr_ne hij (aligned_granule hz ha hj)
        · rw [getD_leBytes hb, Ctx.elem_storeStart]
  · intro s c f z w t hz x n out
    have heq := s.ldbThread_eq c f z w t
    have hin (h : ¬out) : ¬pastBeam x n z = true := fun hp => h (pastBeam_iff.mp hp)
    refine ⟨fun h => ?_, fun h hb => ?_, fun h hb ha => ?_, fun h hb ha hp => ?_⟩
    · exact heq.trans (if_pos (pastBeam_iff.mpr h))
    · refine heq.trans ((if_neg (hin h)).trans (if_pos ?_))
      rw [hb]
      rfl
    · refine heq.trans ((if_neg (hin h)).trans ((if_neg ?_).trans (if_pos (bne_iff_ne.mpr ha))))
      rw [hb]
      decide
    · refine heq.trans ((if_neg (hin h)).trans ((if_neg ?_).trans ((if_neg ?_).trans ((if_neg ?_).trans ?_))))
      · rw [hb]
        decide
      · rw [show (c.addr s f.a (offsetOf f.b) t).toNat % z = 0 from ha]
        decide
      · rw [hp]
        simp
      · simp only [rawWords, beamAddr_eq]
        rfl

end Sys2Proof.Machine
end

section
/-! PROOFS. Atomics at bytes of the core's own device with nothing pending (R276 to R283). -/

namespace Sys2Proof.Machine

/-! ## One element read, changed and written back -/

/-- Nothing is pending for a line of the core's own device: it is quiet, and the core's queue and the requests are empty. -/
structure State.AtRest (s : State) (c : Ctx) (f : Fields) (pa : Nat) : Prop where
  dev : devOf pa = c.dev
  plain : mmioOff pa = none
  order : modOrder f.mod ≠ 3
  wf : Memory.wf s.mem = true
  quiet : s.Quiet (lineOf pa)
  reqs : s.reqs = []
  queue : (s.core c.dev c.core).queue = []
  fenced : (s.core c.dev c.core).fenced = 0

section
variable {s : State} {c : Ctx} {f : Fields} {pa : Nat}

/-- The element at `pa` is `new`, and every other byte is as in `s`. -/
def State.StoredAt (s : State) (pa : Nat) (u : State) (z new : Nat) : Prop :=
  u.bytes pa z = leBytes z new ∧ ∀ a, (a < pa ∨ pa + z ≤ a) → u.byte a = s.byte a

theorem State.AtRest.brought (h : s.AtRest c f pa) : (s.publishLine c.dev c.core (lineOf pa)).reach c.dev c.core (lineOf pa) = s := by
  have hnone : (s.core c.dev c.core).queue.find? (fun e => e.line == lineOf pa) = none := by rw [h.queue]; rfl
  rw [State.publishLine_idle hnone h.reqs]
  exact State.reach_quiet ((devOf_lineOf pa).trans h.dev) h.quiet fun e he => by rw [hnone] at he; cases he

theorem State.AtRest.relLevel (h : s.AtRest c f pa) : Machine.relLevel f = 0 := if_neg (by simpa using h.order)

/-- No record is left at a line by a core that has fenced nothing. -/
theorem State.recordAt_none {t : State} (h : (t.core c.dev c.core).fenced = 0) (a : Nat) : t.recordAt c a 0 = t := by
  have : (t.core c.dev c.core).records 0 = [] := by
    unfold Core.records
    rw [h]
    rfl
  rw [State.recordAt, this]

theorem State.AtRest.rmw (h : s.AtRest c f pa) (z : Nat) (g : Nat → Option Nat) :
    s.rmw c f pa z g = (leNat (s.bytes pa z), match g (leNat (s.bytes pa z)) with | some v => (s.setBytes pa (leBytes z v)).uncache (lineOf pa) | none => s) := by
  unfold State.rmw
  rw [h.plain]
  simp only [h.brought, h.relLevel]
  cases hg : g (leNat (s.bytes pa z)) with
  | none => rfl
  | some v =>
    dsimp only
    rw [State.recordAt_none]
    exact h.fenced

theorem State.AtRest.stored (h : s.AtRest c f pa) (z v : Nat) : s.StoredAt pa ((s.setBytes pa (leBytes z v)).uncache (lineOf pa)) z v := by
  refine ⟨?_, fun a ha => byte_setBytes_outside h.wf (by rwa [length_leBytes])⟩
  have := bytes_setBytes_same h.wf pa (leBytes z v)
  rwa [length_leBytes] at this

theorem State.AtRest.atomElem (h : s.AtRest c f pa) (op : MemOp) (v : Nat) :
    s.atomElem c f op false pa v =
      (leNat (s.bytes pa op.bytes), (s.setBytes pa (leBytes op.bytes (op.apply (leNat (s.bytes pa op.bytes)) v))).uncache (lineOf pa)) := by
  rw [State.atomElem, if_neg Bool.false_ne_true, h.rmw]

theorem State.AtRest.atHome (h : s.AtRest c f pa) (hp : s.poison = []) : s.atHome c pa = (false, s) := by
  unfold State.atHome
  rw [h.plain]
  simp only [h.brought, hp]
  rfl

/-- Work at the core's own device goes over no link and is refused by none. -/
theorem State.overRight_own {xs : List (DWord × Nat)} (h : ∀ x ∈ xs, devOf x.2 = c.dev) (t : Nat) (go : State → Thr × State) : s.overRight c t xs go = go s := by
  have haway : (xs.find? fun x => s.away c.dev x.2) = none := List.find?_eq_none.mpr fun x hx => by simp [State.away, h x hx]
  have hfail : s.failAt c t xs = none := List.findSome?_eq_none_iff.mpr fun x hx => by simp [State.failTo, State.failOver, h x hx]
  have hdenied : s.deniedAt c xs = none := Option.map_eq_none_iff.mpr (List.find?_eq_none.mpr fun x hx => by simp [State.refused, h x hx])
  rw [State.overRight, State.overFabric, haway]
  dsimp only
  rw [hfail]
  dsimp only
  rw [hdenied]

/-! ## atom and cas -/

theorem elemPlaces_one (f : Fields) (w : Nat) : elemPlaces f w 1 = [(0, (blockElems f w).getD 0 (0, 0))] := rfl

theorem State.AtRest.atomThread (h : s.AtRest c f pa) (hp : s.poison = []) {q : State} {e : Elem} {t : Nat} (he : e.x.pa = pa) {op : MemOp}
    (hdet : (c.R.det && op.exact) = false) (hq : q.checkAccess c (atomQuery f op op.bytes 1 false) (c.addr q f.a 0 t) = (.ok [e], s)) :
    q.atomThread c f op op.bytes 1 t =
      (.ok (elemWrites f op.cols (c.targets f t) [rawWords op.cols (leBytes op.bytes (leNat (s.bytes pa op.bytes)))]),
       (s.setBytes pa (leBytes op.bytes (op.apply (leNat (s.bytes pa op.bytes)) (c.vecElem s op f.b t 0 ((blockElems f op.cols).getD 0 (0, 0)))))).uncache (lineOf pa)) := by
  unfold State.atomThread
  simp only [hdet, hq]
  rw [State.overRight_own (by simp only [List.map_cons, List.map_nil, List.mem_singleton, forall_eq, Elem.at_, he, h.dev])]
  simp only [elemPlaces_one, List.map_cons, List.map_nil, List.zip_cons_cons, List.zip_nil_right, State.atomElems, he, h.atHome hp, h.atomElem]
  rfl

theorem State.AtRest.casThread (h : s.AtRest c f pa) (hp : s.poison = []) {q : State} {e : Elem} {t : Nat} (he : e.x.pa = pa) {z : Nat}
    (hq : q.checkAccess c (casQuery f z) (c.addr q f.a 0 t) = (.ok [e], s)) :
    let b := c.elem s .int (z / 2) f.b t 0 0
    let old := leNat (s.bytes pa z)
    q.casThread c f z t = (.ok (elemWrites f (z / 2) (c.targets f t)
        [rawWords (z / 4) (leBytes z old) ++ (if old == b % 2 ^ (8 * z) then 1 else 0) :: if z == 8 then [0] else []]),
      if old == b % 2 ^ (8 * z) then (s.setBytes pa (leBytes z (b / 2 ^ (8 * z)))).uncache (lineOf pa) else s) := by
  intro b old
  unfold State.casThread
  simp only [hq]
  rw [State.overRight_own (by simp only [List.mem_singleton, forall_eq, Elem.at_, he, h.dev])]
  simp only [he, h.atHome hp, h.rmw]
  by_cases hh : (leNat (s.bytes pa z) == c.elem s .int (z / 2) f.b t 0 0 % 2 ^ (8 * z)) = true
  · simp only [hh, if_true, b, old]
  · simp only [hh, Bool.false_eq_true, if_false, b, old]

end

/-! ## The integer operators (R280) -/

theorem minI32_apply (x y : BitVec 32) : MemOp.minI32.apply x.toNat y.toNat = (if y.slt x then y else x).toNat := by
  simp only [MemOp.apply, BitVec.ofNat_toNat, BitVec.setWidth_eq, BitVec.slt, decide_eq_true_eq]
  by_cases h : x.toInt ≤ y.toInt
  · rw [if_pos h, if_neg (Int.not_lt.mpr h)]
  · rw [if_neg h, if_pos (Int.not_le.mp h)]

theorem maxI32_apply (x y : BitVec 32) : MemOp.maxI32.apply x.toNat y.toNat = (if x.slt y then y else x).toNat := by
  simp only [MemOp.apply, BitVec.ofNat_toNat, BitVec.setWidth_eq, BitVec.slt, decide_eq_true_eq]
  rcases Int.lt_trichotomy x.toInt y.toInt with h | h | h
  · rw [if_pos (Int.le_of_lt h), if_pos h]
  · rw [BitVec.eq_of_toInt_eq h, if_pos (Int.le_refl _), if_neg (Int.lt_irrefl _)]
  · rw [if_neg (Int.not_le.mpr h), if_neg (Int.not_lt.mpr (Int.le_of_lt h))]

theorem minN32_apply (x y : BitVec 32) : MemOp.minN32.apply x.toNat y.toNat = (if y.ult x then y else x).toNat := by
  simp only [MemOp.apply, BitVec.ofNat_toNat, BitVec.setWidth_eq, BitVec.ult, decide_eq_true_eq]
  by_cases h : y.toNat < x.toNat
  · rw [if_pos h]; omega
  · rw [if_neg h]; omega

theorem maxN32_apply (x y : BitVec 32) : MemOp.maxN32.apply x.toNat y.toNat = (if x.ult y then y else x).toNat := by
  simp only [MemOp.apply, BitVec.ofNat_toNat, BitVec.setWidth_eq, BitVec.ult, decide_eq_true_eq]
  by_cases h : x.toNat < y.toNat
  · rw [if_pos h]; omega
  · rw [if_neg h]; omega

/-- Settles O40: the element at rest, `atom` and `cas` over it, and the operators. -/
theorem readModifyWrite : Obligations.ReadModifyWrite := by
  refine ⟨?_, fun x y a b => ⟨?_, ?_, minI32_apply x y, maxI32_apply x y, minN32_apply x y, maxN32_apply x y, ?_, ?_, ?_, ?_, Nat.mod_eq_of_lt b.isLt⟩⟩
  · intro s c f pa hdev hplain horder hwf hst hrecs hreqs hqueue hfenced stored old
    have h : s.AtRest c f pa := ⟨hdev, hplain, horder, hwf, ⟨hst, hrecs⟩, hreqs, hqueue, hfenced⟩
    refine ⟨fun z g => ?_, fun op v => ?_, fun hp q e t he => ⟨fun op hdet hq => ?_, fun z hz hq => ?_⟩⟩
    · intro r
      have hr : r = _ := h.rmw z g
      rw [hr]
      refine ⟨rfl, fun hg => ?_, fun v hg => ?_⟩
      · simp only [old] at hg
        simp only [hg]
      · simp only [old] at hg
        simp only [hg]
        exact h.stored z v
    · intro r
      have hr : r = _ := h.atomElem op v
      rw [hr]
      refine ⟨rfl, h.stored _ _, ?_⟩
      rw [State.atomElem, if_pos rfl]
      dsimp only
      rw [h.brought]
    · exact ⟨_, h.atomThread hp he hdet hq, h.stored _ _⟩
    · intro b hit
      have hcas := h.casThread hp he hq
      simp only [beq_iff_eq] at hcas
      refine ⟨_, hcas, fun hh => ?_, fun hh => if_neg hh⟩
      rw [if_pos hh]
      exact h.stored _ _
  all_goals simp [MemOp.apply, BitVec.toNat_add]

end Sys2Proof.Machine
end


section
/-! PROOFS. The words on windows, pinned lines and bobbins (R121, R122, R225, R229 to R231, R388). -/

namespace Sys2Proof.Machine

/-! ## A word by its meaning's definition -/

section
variable {i : Form} {body : Fields → Ctx → State → State} (x : Fields → State → Host.Outcome State Fault Refusal)
  (he : ∀ f s, exec (i.mk f) s = x f s) (hx : ∀ f s, x f s = issue i f (body f) s)
include he hx

/-- `Does.of`, of a word whose meaning has a name. -/
theorem Does.of_def {P : Fields → Ctx → State → Prop} {g : Fields → Ctx → State → State}
    (hb : ∀ f c s, c.sel ≠ 0 → c.hold = none → P f c s → body f c s = g f c s) : Does i P g :=
  Does.of (fun f s => (he f s).trans (hx f s)) hb

/-- `DoesThreads.of`, of a word whose meaning has a name. -/
theorem DoesThreads.of_def {ts : Fields → Mask → List Nat} {P : Fields → Ctx → State → Prop} {start : Fields → Ctx → State → State}
    {one : Fields → Ctx → State → Nat → Thr × State} {g : Ctx → List (RegKey × Word) → State → State}
    (hb : ∀ f c s, c.sel ≠ 0 → c.hold = none → P f c s → ∀ ws u, performs (one f c) (ts f c.sel) (start f c s) = some (ws, u) → body f c s = g c ws u) :
    DoesThreads i ts P start one g :=
  DoesThreads.of (fun f s => (he f s).trans (hx f s)) hb

/-- A held word whose meaning has a name runs its body again. -/
theorem exec_resumes {s : State} {f : Fields} {c : Ctx} (h : s.Resumes f c) : exec (i.mk f) s = .next (body f c s.ticked) :=
  (he f s).trans ((hx f s).trans (issue_resume h _))

end

theorem selected_eq {α : Type} {c : Ctx} (h : c.sel ≠ 0) (a b : α) : (if c.sel == 0 then a else b) = b := if_neg fun he => h (beq_iff_eq.mp he)

/-! ## What the words share -/

section
variable {s : State} {c : Ctx} {f : Fields}

theorem State.spgrow_rigid {tried : Bool} {go : Group → Nat → State} (h : c.R.elastic = false) : s.spgrow c f tried go = s.trap c .operand 30 := by
  simp [State.spgrow, h]

theorem State.spgrow_size {tried : Bool} {go : Group → Nat → State} (h : c.R.elastic = true) (hn : (c.once s f.a).toNat = 0 ∨ 256 < (c.once s f.a).toNat) :
    s.spgrow c f tried go = s.trap c .operand 31 := by
  simp only [State.spgrow, h, Bool.not_true, Bool.false_eq_true, if_false]
  exact if_pos (by simpa using hn)

/-- A window of a size that may be asked for: it is large enough already, or has to grow. -/
theorem State.spgrow_sized {tried : Bool} {go : Group → Nat → State} (hs : c.sel ≠ 0)
    (h : c.R.elastic = true ∧ 0 < (c.once s f.a).toNat ∧ (c.once s f.a).toNat ≤ 256) :
    s.spgrow c f tried go = if (c.once s f.a).toNat ≤ (s.groupNow c).grans.length then s.finishLate c (if tried then c.laneWrites f.d fun _ => 1 else [])
      else go (s.groupNow c) (c.once s f.a).toNat := by
  obtain ⟨he, h0, h256⟩ := h
  have hn : ((c.once s f.a).toNat == 0 || decide (256 < (c.once s f.a).toNat)) = false := by
    rw [Bool.or_eq_false_iff, beq_eq_false_iff_ne, decide_eq_false_iff_not]
    omega
  simp only [State.spgrow, he, hn, beq_false_of_ne hs, Bool.not_true, Bool.false_eq_true, if_false]
  rfl

theorem State.onLines_over {go : List Nat → State} (hs : c.sel ≠ 0) (h : 4096 < (c.once s f.b).toNat) : s.onLines c f go = s.trap c .operand 10 := by
  exact (selected_eq hs _ _).trans (if_pos h)

theorem State.onLines_within {go : List Nat → State} (hs : c.sel ≠ 0) (h : (c.once s f.b).toNat ≤ 4096) : s.onLines c f go = go (c.codeLines s f) := by
  exact (selected_eq hs _ _).trans (if_neg (Nat.not_lt.mpr h))

theorem Ctx.not_heldAs {c : Ctx} (h : c.hold = none) {why : Why} : ¬c.heldAs why = true := by simp [Ctx.heldAs_none h]

/-- The number of the bobbin that a word names at its issue. -/
theorem State.withBobbin_over {go : Nat → Bobbin → State} (hs : c.sel ≠ 0) (hh : c.hold = none) (h : 63 < (c.once s f.a).toNat) :
    s.withBobbin c f go = s.trap c .operand 11 := by
  simp only [State.withBobbin, Ctx.heldAs_none hh, Bool.false_eq_true, if_false]
  exact (selected_eq hs _ _).trans (if_pos h)

theorem State.withBobbin_issued {go : Nat → Bobbin → State} (hs : c.sel ≠ 0) (hh : c.hold = none) (h : (c.once s f.a).toNat ≤ 63) :
    s.withBobbin c f go = go (c.once s f.a).toNat ((s.groupNow c).bobs.getD (c.once s f.a).toNat {}) := by
  simp only [State.withBobbin, Ctx.heldAs_none hh, Bool.false_eq_true, if_false]
  exact (selected_eq hs _ _).trans (if_neg (Nat.not_lt.mpr h))

theorem State.withBobbin_held {go : Nat → Bobbin → State} (hs : c.sel ≠ 0) (hh : c.heldAs .bwait = true) (h : c.arg ≤ 63) :
    s.withBobbin c f go = go c.arg ((s.groupNow c).bobs.getD c.arg {}) := by
  simp only [State.withBobbin, hh, if_true]
  exact (selected_eq hs _ _).trans (if_neg (Nat.not_lt.mpr h))

end

/-! ## Windows and code lines -/

theorem pinLimit_eq (f : Fields) : pinLimit f = if f.mod.getLsbD 0 then 2048 else 128 := rfl

/-- Settles O50: each of the words makes its checks by the operation it shares with its kin, and then does what its clause says. -/
theorem windowAndCodeWords : Obligations.WindowAndCodeWords := by
  unfold Obligations.WindowAndCodeWords
  intro n done sized count fresh up down
  refine ⟨?checks, ?grown, ?grow, ?tryGrown, ?tryGrow, ?many, ?ipf, ?pin, ?full, ?unpin⟩
  case checks =>
    intro i hi
    simp only [List.mem_cons, List.not_mem_nil, or_false] at hi
    rcases hi with rfl | rfl
    · exact ⟨Does.of_def execSpgrow (fun _ _ => rfl) (fun _ _ => rfl) fun _ _ _ _ hh h => (if_neg (Ctx.not_heldAs hh)).trans (State.spgrow_rigid h),
        Does.of_def execSpgrow (fun _ _ => rfl) (fun _ _ => rfl) fun _ _ _ _ hh h => (if_neg (Ctx.not_heldAs hh)).trans (State.spgrow_size h.1 h.2)⟩
    · exact ⟨Does.of_def execSpgrowTry (fun _ _ => rfl) (fun _ _ => rfl) fun _ _ _ _ _ h => State.spgrow_rigid h,
        Does.of_def execSpgrowTry (fun _ _ => rfl) (fun _ _ => rfl) fun _ _ _ _ _ h => State.spgrow_size h.1 h.2⟩
  case grown =>
    refine Does.of_def execSpgrow (fun _ _ => rfl) (fun _ _ => rfl) fun f c s hs hh h => (if_neg (Ctx.not_heldAs hh)).trans ?_
    rw [State.spgrow_sized hs h.1, if_pos h.2]
    rfl
  case grow =>
    refine Does.of_def execSpgrow (fun _ _ => rfl) (fun _ _ => rfl) fun f c s hs hh h => (if_neg (Ctx.not_heldAs hh)).trans ?_
    rw [State.spgrow_sized hs h.1, if_neg (Nat.not_le.mpr h.2)]
  case tryGrown =>
    refine Does.of_def execSpgrowTry (fun _ _ => rfl) (fun _ _ => rfl) fun f c s hs _ h => ?_
    rw [State.spgrow_sized hs h.1, if_pos h.2]
    rfl
  case tryGrow =>
    refine Does.of_def execSpgrowTry (fun _ _ => rfl) (fun _ _ => rfl) fun f c s hs _ h => ?_
    rw [State.spgrow_sized hs h.1, if_neg (Nat.not_le.mpr h.2)]
    simp only [Bool.and_eq_true, List.isEmpty_iff, n, done]
  case many =>
    intro i hi
    simp only [List.mem_cons, List.not_mem_nil, or_false] at hi
    rcases hi with rfl | rfl | rfl
    · exact Does.of_def execIpf (fun _ _ => rfl) (fun _ _ => rfl) fun _ _ _ hs _ h => State.onLines_over hs h
    · exact Does.of_def execIpin (fun _ _ => rfl) (fun _ _ => rfl) fun _ _ _ hs _ h => State.onLines_over hs h
    · exact Does.of_def execIunpin (fun _ _ => rfl) (fun _ _ => rfl) fun _ _ _ hs _ h => State.onLines_over hs h
  case ipf => exact Does.of_def execIpf (fun _ _ => rfl) (fun _ _ => rfl) fun _ _ _ hs _ h => State.onLines_within hs h
  case pin =>
    refine Does.of_def execIpin (fun _ _ => rfl) (fun _ _ => rfl) fun f c s hs _ h => ?_
    exact (State.onLines_within hs h.1).trans (if_neg (Nat.not_lt.mpr (pinLimit_eq f ▸ h.2)))
  case full =>
    refine Does.of_def execIpin (fun _ _ => rfl) (fun _ _ => rfl) fun f c s hs _ h => ?_
    exact (State.onLines_within hs h.1).trans (if_pos (pinLimit_eq f ▸ h.2))
  case unpin => exact Does.of_def execIunpin (fun _ _ => rfl) (fun _ _ => rfl) fun _ _ _ hs _ h => State.onLines_within hs h

/-! ## Bobbins -/

/-- Settles O44: each of the words checks the bobbin's number first, and then acts by the state of the bobbin. -/
theorem bobbinWords : Obligations.BobbinWords := by
  unfold Obligations.BobbinWords
  intro n B arg fits
  refine ⟨?number, ?faulted, ?meets, ?waits, ?resumed, ?set, ?busy, ?exp, ?unfit, ?stat⟩
  case number =>
    intro i hi
    simp only [List.mem_cons, List.not_mem_nil, or_false] at hi
    rcases hi with rfl | rfl | rfl | rfl
    · exact Does.of_def execBwait (fun _ _ => rfl) (fun _ _ => rfl) fun _ _ _ hs hh h => State.withBobbin_over hs hh h
    · exact Does.of_def execBset (fun _ _ => rfl) (fun _ _ => rfl) fun _ _ _ hs hh h => State.withBobbin_over hs hh h
    · exact Does.of_def execBexp (fun _ _ => rfl) (fun _ _ => rfl) fun _ _ _ hs hh h => State.withBobbin_over hs hh h
    · exact Does.of_def execBstat (fun _ _ => rfl) (fun _ _ => rfl) fun _ _ _ hs hh h => State.withBobbin_over hs hh h
  case faulted =>
    intro i hi
    simp only [List.mem_cons, List.not_mem_nil, or_false] at hi
    rcases hi with rfl | rfl
    · exact Does.of_def execBwait (fun _ _ => rfl) (fun _ _ => rfl) fun _ _ _ hs hh h => (State.withBobbin_issued hs hh h.1).trans (if_pos (beq_iff_eq.mpr h.2))
    · exact Does.of_def execBset (fun _ _ => rfl) (fun _ _ => rfl) fun _ _ _ hs hh h => (State.withBobbin_issued hs hh h.1).trans (if_pos (beq_iff_eq.mpr h.2))
  case meets =>
    refine Does.of_def execBwait (fun _ _ => rfl) (fun _ _ => rfl) fun f c s hs hh h => (State.withBobbin_issued hs hh h.1).trans ?_
    exact (if_neg fun he => h.2.1 (beq_iff_eq.mp he)).trans (if_pos (beq_iff_eq.mpr h.2.2))
  case waits =>
    refine Does.of_def execBwait (fun _ _ => rfl) (fun _ _ => rfl) fun f c s hs hh h => (State.withBobbin_issued hs hh h.1).trans ?_
    exact (if_neg fun he => h.2.1 (beq_iff_eq.mp he)).trans (if_neg fun he => h.2.2 (beq_iff_eq.mp he))
  case resumed =>
    intro s f c hr hs hh ha hst
    refine (exec_resumes execBwait (fun _ _ => rfl) (fun _ _ => rfl) hr).trans (congrArg _ ((State.withBobbin_held hs hh ha).trans ?_))
    have hnf : bobStateOf f ≠ .faulted := by unfold bobStateOf; split <;> simp
    exact (if_neg fun he => hnf (hst ▸ beq_iff_eq.mp he)).trans (if_pos (beq_iff_eq.mpr hst))
  case set =>
    refine Does.of_def execBset (fun _ _ => rfl) (fun _ _ => rfl) fun f c s hs hh ⟨hn, hd, hst⟩ => (State.withBobbin_issued hs hh hn).trans ?_
    have hd' : ((s.groupNow c).bobs.getD (c.once s f.a).toNat {}).holder = none := hd
    rcases hst with hst | hst
    all_goals
      have hst' : ((s.groupNow c).bobs.getD (c.once s f.a).toNat {}).st = _ := hst
      simp only [hd', hst']
      rfl
  case busy =>
    refine Does.of_def execBset (fun _ _ => rfl) (fun _ _ => rfl) fun f c s hs hh ⟨hn, hf, hb⟩ => (State.withBobbin_issued hs hh hn).trans ?_
    refine (if_neg fun he => hf (beq_iff_eq.mp he)).trans (if_pos ?_)
    simp only [Bool.or_eq_true, beq_iff_eq, or_assoc, Option.isSome_iff_ne_none]
    exact hb
  case exp =>
    refine Does.of_def execBexp (fun _ _ => rfl) (fun _ _ => rfl) fun f c s hs hh ⟨hn, hf, hd⟩ => (State.withBobbin_issued hs hh hn).trans ?_
    have hd' : ((s.groupNow c).bobs.getD (c.once s f.a).toNat {}).holder = none := hd
    refine (if_neg (Nat.not_lt.mpr hf)).trans (if_neg ?_)
    rw [hd']
    exact Bool.false_ne_true
  case unfit =>
    refine Does.of_def execBexp (fun _ _ => rfl) (fun _ _ => rfl) fun f c s hs hh h => (State.withBobbin_issued hs hh h.1).trans ?_
    exact if_pos (Nat.lt_of_not_le h.2)
  case stat =>
    refine Does.of_def execBstat (fun _ _ => rfl) (fun _ _ => rfl) fun f c s hs hh h => (State.withBobbin_issued hs hh h).trans ?_
    simp only [Bobbin.word, Bool.and_eq_true, beq_iff_eq, B, n]

end Sys2Proof.Machine
end

section
/-! PROOFS. Parking, the end of a round, the ranking of rivals, and the start and decisions of a Jacquard (R361, R366, R368, R379 to R382). -/

namespace Sys2Proof.Machine

/-! ## Ranking -/

/-- The score that a rival is ranked by. -/
def Rival.rankScore (r : Rival) : Int := (r.score.getD leastScore).toInt

theorem Rival.beats_iff (x y : Rival) : x.beats y = true ↔
    (x.st ≠ y.st ∧ x.st = 1) ∨ (x.st = y.st ∧ (y.rankScore < x.rankScore ∨ x.rankScore = y.rankScore ∧ x.idx < y.idx)) := by
  unfold Rival.beats Rival.rankScore
  by_cases h : x.st = y.st
  · by_cases ha : (x.score.getD leastScore).toInt = (y.score.getD leastScore).toInt <;> simp [h, ha]
  · simp [h]

theorem Rival.beats_asymm {x y : Rival} (h : x.beats y = true) : y.beats x = false := by
  rw [Bool.eq_false_iff, ne_eq, Rival.beats_iff]
  rw [Rival.beats_iff] at h
  omega

theorem Rival.beats_trans {x y z : Rival} (h1 : x.beats y = true) (h2 : y.beats z = true) :
    x.beats z = true := by
  rw [Rival.beats_iff] at *
  omega

theorem insertRival_perm (x : Rival) (ys : List Rival) : (insertRival x ys).Perm (x :: ys) := by
  induction ys with
  | nil => exact .refl _
  | cons y ys ih =>
    unfold insertRival
    split
    · exact .refl _
    · exact (ih.cons y).trans (.swap x y ys)

/-- No rival stands behind a worse one. -/
def InRank (rs : List Rival) : Prop := rs.Pairwise fun a b => b.beats a = false

theorem insertRival_inRank {x : Rival} {ys : List Rival} (h : InRank ys) : InRank (insertRival x ys) := by
  induction ys with
  | nil => exact List.pairwise_singleton ..
  | cons y ys ih =>
    obtain ⟨h1, h2⟩ := List.pairwise_cons.mp h
    unfold insertRival
    split
    · rename_i hb
      refine List.pairwise_cons.mpr ⟨List.forall_mem_cons.mpr ⟨Rival.beats_asymm hb, fun z hz => ?_⟩, h⟩
      rw [Bool.eq_false_iff]
      intro hz2
      exact Bool.false_ne_true ((h1 z hz).symm.trans (Rival.beats_trans hz2 hb))
    · rename_i hb
      refine List.pairwise_cons.mpr ⟨fun z hz => ?_, ih h2⟩
      rcases List.mem_cons.mp ((insertRival_perm x ys).mem_iff.mp hz) with rfl | hz
      · exact Bool.eq_false_iff.mpr hb
      · exact h1 z hz

theorem ranking_perm (rs : List Rival) : (rs.foldr insertRival []).Perm rs := by
  induction rs with
  | nil => exact .refl _
  | cons r rs ih => exact (insertRival_perm r _).trans (ih.cons r)

theorem ranking_inRank (rs : List Rival) : InRank (rs.foldr insertRival []) := by
  induction rs with
  | nil => exact List.Pairwise.nil
  | cons r rs ih => exact insertRival_inRank ih

theorem Rival.beats_of_score {a b : Rival} (hst : a.st = b.st) (h : (b.score.getD leastScore).slt (a.score.getD leastScore) = true) :
    a.beats b = true ∧ b.beats a = false := by
  have hlt : b.rankScore < a.rankScore := BitVec.slt_iff_toInt_lt.mp h
  rw [Bool.eq_false_iff, ne_eq, Rival.beats_iff, Rival.beats_iff]
  omega

theorem State.roundOver_iff (s : State) (T : Tourn) :
    s.roundOver T = true ↔ T.st = 1 ∧ ∀ r ∈ T.rivals, r.live = true → r.still = true ∧ s.rivalBusy T r = false := by
  simp only [State.roundOver, Bool.and_eq_true, beq_iff_eq, List.all_eq_true, Bool.or_eq_true, Bool.not_eq_true']
  refine and_congr_right' (forall_congr' fun r => forall_congr' fun _ => ?_)
  cases r.live <;> simp

/-- A reserved start that runs, or pauses on a page. -/
theorem State.jacqRunStart_tries {s t : State} {d jq : Nat} {r : JqStart} (hw : (s.cluster d jq).jqWait = true) (hp : (s.cluster d jq).jqPause = none)
    (h : s.jqTry d jq (s.cluster d jq).jqCtx (s.cluster d jq).jqPat = (r, t)) : match r with
      | .ran | .waits => s.jacqRunStart d jq = t
      | .paused page => s.jacqRunStart d jq = t.modCluster d jq fun C => { C with jqPause := some page }
      | .failed .. => True := by
  cases r <;> simp [State.jacqRunStart, hw, hp, h]

/-- Settles O57: the steps by the rival, round or Jacquard that they find, and the ranking as an insertion of rivals into their order. -/
theorem scopeEvents : Obligations.ScopeEvents := by
  intro s x i d jq
  refine ⟨?parks, ?stays, ?round, fun rs _ _ => ⟨ranking_perm rs, ranking_inRank rs⟩, fun a b h hs => Rival.beats_of_score h hs, ?_⟩
  case parks =>
    intro T r h
    refine ⟨congrArg Host.Outcome.next (by rw [h]), congrArg Host.Outcome.next ?_⟩
    simp only [h, State.rivalIdle, Bool.or_eq_true, decide_eq_true_eq]
  case stays =>
    intro h
    exact ⟨congrArg Host.Outcome.next (by rw [h]), congrArg Host.Outcome.next (by rw [h])⟩
  case round =>
    intro T h
    refine congrArg Host.Outcome.next ?_
    simp only [h, State.roundOver_iff]
  · refine ⟨fun h => congrArg Host.Outcome.next (if_pos ?_), fun t hw hp h => congrArg Host.Outcome.next ?_,
      fun t page hw hp h => congrArg Host.Outcome.next ?_, fun D y h => congrArg Host.Outcome.next ?_⟩
    · rwa [Bool.or_eq_true, Bool.not_eq_true']
    · exact State.jacqRunStart_tries hw hp h
    · exact State.jacqRunStart_tries hw hp h
    · simp only [h, Bool.and_eq_true, beq_iff_eq]

end Sys2Proof.Machine
end

section
/-! PROOFS. The steps that a core makes by itself (R112, R115, R248, R251, R312, R349, R388, R393, R414, R418). -/

namespace Sys2Proof.Machine

section
variable {s : State} {d k n : Nat} {r : PathRef} {rs : List PathRef} {c : Ctx} {G : Group} {w : Weft}

/-- The head of the queue for register blocks. -/
theorem State.regHead_cons (hc : s.ctxAt r = some c) (hq : (s.core d k).regq = r :: rs) (hw : s.weftNow r = some (G, w)) :
    s.regHead d k = if s.regFits G w c.arg then (((s.modCore d k fun x => { x with regq := rs }).modW c fun w => w.hold (max c.arg w.held)).finishLate c []) else s := by
  unfold State.regHead
  simp only [hq, hc, hw]
  rfl

/-- The head of the queue for window granules. -/
theorem State.spadHead_cons (hc : s.ctxAt r = some c) (hq : (s.core d k).spq = r :: rs) (hG : s.group? r.g = some G) :
    s.spadHead d k =
      if s.spadFits G c.arg then (((s.modCore d k fun x => { x with spq := rs }).growSpad G c.arg).finishLate c []).coverSpad d k else s := by
  unfold State.spadHead
  simp only [hq, hc, hG]

/-- The operation at the head of its tiles acts by its form; any other does nothing. -/
theorem State.opStep_found {g : Nat} {o : TileOp} (hG : s.group? g = some G) (ho : (s.core G.dev G.core).ops.find? (fun o => o.n == n) = some o) :
    (opTurn (s.core G.dev G.core).ops o = false → s.opStep g n = s) ∧
    (opTurn (s.core G.dev G.core).ops o = true → o.form = .tzero →
      s.opStep g n = ((s.modTiles g o.tiles fun x => { x with cells := [], nar := false }).putOp G.dev G.core n none).opDone o) ∧
    (opTurn (s.core G.dev G.core).ops o = true → o.form = .mma ∨ o.form = .mmap → s.opStep g n = s.ticked.macStep G o) ∧
    (opTurn (s.core G.dev G.core).ops o = true → o.form = .tdrain → s.opStep g n = s.ticked.drainNext G o) ∧
    (opTurn (s.core G.dev G.core).ops o = true → o.form = .tdadd → s.opStep g n = s.ticked.sendTile G o) := by
  unfold State.opStep
  simp only [hG, ho]
  refine ⟨fun ht => ?_, fun ht hf => ?_, fun ht hf => ?_, fun ht hf => ?_, fun ht hf => ?_⟩
  · simp [ht]
  · simp [ht, hf]
  · rcases hf with hf | hf <;> simp [ht, hf]
  · simp [ht, hf]
  · simp [ht, hf]

/-- A delivery as it stands once it has arrived. -/
def Delivery.here (e : Delivery) (clk : Nat) : Delivery := { e with arrived := some (e.arrived.getD clk) }

/-- The state that holds a delivery that has arrived. -/
def State.withArrival (s : State) (n : Nat) (e : Delivery) : State := { s with deliveries := modIf (fun x => x.n == n) (fun _ => e) s.deliveries }

/-- A delivery to a tile that is open on a placed group. -/
theorem State.deliver_open {e : Delivery} {H : Group} {x : Tile} {m top : Nat} (he : s.deliveries.find? (fun e => e.n == n) = some e)
    (hH : (s.withArrival n (e.here s.clk)).target? (e.here s.clk) = some H) (hl : H.life = .placed) (hx : H.tile? e.tile = some x)
    (ho : x.open_ = some (m, top)) :
    s.deliver n =
      if m ≤ e.op.src ∨ e.op.src ∈ x.added then (s.withArrival n (e.here s.clk)).deliveryTrap (e.here s.clk) 10
      else if ∃ o ∈ ((s.withArrival n (e.here s.clk)).core H.dev H.core).ops, o.n = top ∧ o.tag ≠ e.op.tag then
        (s.withArrival n (e.here s.clk)).deliveryTrap (e.here s.clk) 1
      else if ¬∃ o ∈ ((s.withArrival n (e.here s.clk)).core H.dev H.core).ops,
          o.n = top ∧ opTurn ((s.withArrival n (e.here s.clk)).core H.dev H.core).ops o = true then s.withArrival n (e.here s.clk)
      else if ((s.withArrival n (e.here s.clk)).regionOf H).det = true ∧ ¬(List.range e.op.src).all (fun j => x.added.contains j) = true then
        s.withArrival n (e.here s.clk)
      else (s.withArrival n (e.here s.clk)).addSource (e.here s.clk) H x m top := by
  unfold State.withArrival Delivery.here at *
  unfold State.deliver
  simp only [he, hH, hl, hx, ho, bne_self_eq_false, Bool.false_eq_true, if_false, Bool.or_eq_true, decide_eq_true_eq, List.contains_iff_mem, List.any_eq_true,
    Bool.and_eq_true, beq_iff_eq, bne_iff_ne, Bool.not_eq_true', ← Bool.not_eq_true]

end

/-- Settles O54: each step by the head of the queue, the operation or the delivery that it finds. -/
theorem coreEvents : Obligations.CoreEvents := by
  intro s d k g n
  refine ⟨?twin, ?queues, ?store, congrArg Host.Outcome.next rfl, ?trap, ?op, ?delivery⟩
  case twin =>
    intro c hc ha
    refine ⟨congrArg Host.Outcome.next ?_, congrArg Host.Outcome.next ?_⟩
    · simp only [hc, ha, if_true]
    · simp only [hc, ha, Bool.true_and, decide_eq_true_eq]
  case queues =>
    intro r rs c G w hc
    refine ⟨fun hq hw => congrArg Host.Outcome.next (State.regHead_cons hc hq hw), fun hq hG => congrArg Host.Outcome.next (State.spadHead_cons hc hq hG),
      fun since hs hq hp => congrArg Host.Outcome.next ?_⟩
    simp only [hs, hq, List.foldl_cons, List.foldl_nil, hc, hp, if_true, Bool.and_eq_true, decide_eq_true_eq]
  case store =>
    intro e es hq
    refine congrArg Host.Outcome.next ?_
    simp only [hq]
  case trap =>
    intro G t hG
    refine congrArg Host.Outcome.next ?_
    unfold State.deferredTrap
    simp only [hG, beq_iff_eq]
  case op =>
    intro G o hG ho
    obtain ⟨h1, h2, h3, h4, h5⟩ := State.opStep_found hG ho
    exact ⟨fun ht => congrArg _ (h1 ht), fun ht hf => congrArg _ (h2 ht hf), fun ht hf => congrArg _ (h3 ht hf), fun ht hf => congrArg _ (h4 ht hf),
      fun ht hf => congrArg _ (h5 ht hf)⟩
  case delivery =>
    intro e he
    refine ⟨fun due hd => congrArg Host.Outcome.next ?_, ?_⟩
    · simp only [he, hd]
    · intro e1 s1 H x m top hH hl hx ho
      exact congrArg Host.Outcome.next (State.deliver_open he hH hl hx ho)

end Sys2Proof.Machine
end

section
/-! PROOFS. The words on register blocks (R110 to R115). -/

namespace Sys2Proof.Machine

/-! ## The registers of the blocks that a weft holds -/

theorem Weft.hold_reg {w : Weft} {k r t : Nat} (ht : t < 16) : (w.hold k).reg (.v r t) = if r < 64 * (min k w.held + 1) then w.reg (.v r t) else 0 := by
  simp only [Weft.hold, Weft.reg, Sparse.get_drop]
  by_cases h : r < 64 * (min k w.held + 1)
  · rw [if_pos h, if_neg (by simp only [decide_eq_true_eq]; omega)]
  · rw [if_neg h, if_pos (by simp only [decide_eq_true_eq]; omega)]

theorem Weft.hold_young {w : Weft} {k r t : Nat} (h : 64 * (min k w.held + 1) ≤ r) {y : Young} (hy : y ∈ (w.hold k).young) : y.key ≠ .v r t := by
  obtain ⟨-, hb⟩ := List.mem_filter.mp hy
  intro he
  rw [he] at hb
  simp [RegKey.above, h] at hb

/-- The record of an issue names the highest vector register of its word. -/
theorem Ctx.raisedWeft_top (c : Ctx) (clk n : Nat) (i : Form) (f : Fields) (p : Path) :
    ∃ o ∈ (c.raisedWeft clk n i f p).outs, o.n = n ∧ o.top = max (topReg f f.d) (max (topReg f f.a) (topReg f f.b)) :=
  ⟨_, List.mem_append_right _ (List.mem_singleton_self _), rfl, rfl⟩

section
variable {s : State} {c : Ctx} {f : Fields} {G : Group} {w : Weft}

theorem State.regacq_size {tried : Bool} {go : Group → Weft → Nat → State} (hs : c.sel ≠ 0) (h : (c.once s f.a).toNat = 0 ∨ 3 < (c.once s f.a).toNat) :
    s.regacq c f tried go = s.trap c .operand 2 :=
  (selected_eq hs _ _).trans (if_pos (by simpa using h))

/-- Blocks of a number that may be asked for: the weft holds them already, or asks for more. -/
theorem State.regacq_sized {tried : Bool} {go : Group → Weft → Nat → State} (hs : c.sel ≠ 0)
    (h : 0 < (c.once s f.a).toNat ∧ (c.once s f.a).toNat ≤ 3 ∧ s.weftNow c.r = some (G, w)) :
    s.regacq c f tried go = if (c.once s f.a).toNat ≤ w.held then s.finishLate c (if tried then c.laneWrites f.d fun _ => 1 else [])
      else go G w (c.once s f.a).toNat := by
  obtain ⟨h0, h3, hw⟩ := h
  refine (selected_eq hs _ _).trans ((if_neg ?_).trans ?_)
  · rw [Bool.or_eq_true, beq_iff_eq, decide_eq_true_eq]
    omega
  · simp only [hw]

/-- What `regrel` does with the blocks that it is given. -/
def State.regrelTo (s : State) (c : Ctx) (k : Nat) : State :=
  if 3 < k then s.trap c .operand 2
  else match s.weftNow c.r with
    | none => s
    | some (_, w) =>
      if c.busyAbove w k then s.holdP c .regrel k 0
      else ((s.modW c fun w => w.hold (min k w.held)).finishLate c []).regHead c.dev c.core

/-- The meaning of `regrel`. -/
def regrelBody (f : Fields) (c : Ctx) (s : State) : State :=
  if c.sel == 0 then s.finishIdle c else s.regrelTo c (if c.heldAs .regrel then c.arg else (c.once s f.a).toNat)

theorem execRegrel_eq (f : Fields) (s : State) : execRegrel f s = issue .regrel f (regrelBody f) s := rfl

theorem regrelBody_issued (hs : c.sel ≠ 0) (hh : c.hold = none) : regrelBody f c s = s.regrelTo c (c.once s f.a).toNat :=
  (selected_eq hs _ _).trans (by rw [if_neg (Ctx.not_heldAs hh)])

theorem regrelBody_held (hs : c.sel ≠ 0) (hh : c.heldAs .regrel = true) : regrelBody f c s = s.regrelTo c c.arg :=
  (selected_eq hs _ _).trans (by rw [if_pos hh])

theorem Ctx.busyAbove_iff (c : Ctx) (w : Weft) (k : Nat) : c.busyAbove w k = true ↔ ∃ o ∈ w.outs, o.n ≠ c.out ∧ 64 * (k + 1) ≤ o.top := by
  simp [Ctx.busyAbove]

theorem State.regrelTo_within {k : Nat} (hk : k ≤ 3) (hw : s.weftNow c.r = some (G, w)) :
    s.regrelTo c k = if c.busyAbove w k then s.holdP c .regrel k 0 else ((s.modW c fun w => w.hold (min k w.held)).finishLate c []).regHead c.dev c.core := by
  unfold State.regrelTo
  rw [if_neg (Nat.not_lt.mpr hk), hw]

end

/-- Settles O49: what a weft reads and writes of its blocks, the record of each issue, and the three words by the weft that they find. -/
theorem allocWords : Obligations.AllocWords := by
  unfold Obligations.AllocWords
  intro n done
  refine ⟨fun w k => ⟨rfl, fun r t ht => ⟨fun h => ?_, fun h => ?_⟩⟩, fun w k r t h y hy => Weft.hold_young h hy, fun s i f c h ht => ?record, ?size, ?many, fun G w => ?_⟩
  · rw [Weft.hold_reg ht, if_pos h]
  · rw [Weft.hold_reg ht, if_neg (Nat.not_lt.mpr h)]
  case record =>
    refine ⟨_, h.raised.weft, ?_⟩
    rw [State.issued, State.raise_eq ht]
    exact Ctx.raisedWeft_top ..
  case size =>
    intro i hi
    simp only [List.mem_cons, List.not_mem_nil, or_false] at hi
    rcases hi with rfl | rfl
    · exact Does.of_def execRegacq (fun _ _ => rfl) (fun _ _ => rfl) fun _ _ _ hs hh h => (if_neg (Ctx.not_heldAs hh)).trans (State.regacq_size hs h)
    · exact Does.of_def execRegacqTry (fun _ _ => rfl) (fun _ _ => rfl) fun _ _ _ hs _ h => State.regacq_size hs h
  case many =>
    exact Does.of_def execRegrel (fun _ _ => rfl) execRegrel_eq fun _ _ _ hs hh h => (regrelBody_issued hs hh).trans (if_pos h)
  · intro sized
    refine ⟨?held, ?asks, ?tryHeld, ?try_, ?_⟩
    case held =>
      refine Does.of_def execRegacq (fun _ _ => rfl) (fun _ _ => rfl) fun f c s hs hh h => (if_neg (Ctx.not_heldAs hh)).trans ?_
      exact (State.regacq_sized hs h.1).trans (if_pos h.2)
    case asks =>
      refine Does.of_def execRegacq (fun _ _ => rfl) (fun _ _ => rfl) fun f c s hs hh h => (if_neg (Ctx.not_heldAs hh)).trans ?_
      exact (State.regacq_sized hs h.1).trans (if_neg (Nat.not_le.mpr h.2))
    case tryHeld =>
      refine Does.of_def execRegacqTry (fun _ _ => rfl) (fun _ _ => rfl) fun f c s hs hh h => ?_
      exact (State.regacq_sized hs h.1).trans (if_pos h.2)
    case try_ =>
      refine Does.of_def execRegacqTry (fun _ _ => rfl) (fun _ _ => rfl) fun f c s hs hh h => ?_
      refine (State.regacq_sized hs h.1).trans ((if_neg (Nat.not_le.mpr h.2)).trans ?_)
      simp only [Bool.and_eq_true, List.isEmpty_iff]
      rfl
    intro busy gives
    refine ⟨?waits, ?gives, fun s f c hr hs hh hk hw hb => ?resumed⟩
    case waits =>
      refine Does.of_def execRegrel (fun _ _ => rfl) execRegrel_eq fun f c s hs hh ⟨hk, hw, hb⟩ => (regrelBody_issued hs hh).trans ?_
      exact (State.regrelTo_within hk hw).trans (if_pos ((Ctx.busyAbove_iff ..).mpr hb))
    case gives =>
      refine Does.of_def execRegrel (fun _ _ => rfl) execRegrel_eq fun f c s hs hh ⟨hk, hw, hb⟩ => (regrelBody_issued hs hh).trans ?_
      exact (State.regrelTo_within hk hw).trans (if_neg fun h => hb ((Ctx.busyAbove_iff ..).mp h))
    case resumed =>
      refine (exec_resumes execRegrel (fun _ _ => rfl) execRegrel_eq hr).trans (congrArg _ ((regrelBody_held hs hh).trans ?_))
      exact (State.regrelTo_within hk hw).trans (if_neg fun h => hb ((Ctx.busyAbove_iff ..).mp h))

end Sys2Proof.Machine
end

section
/-! PROOFS. `jqstart`, `jqdone` and `jqstat` (R361, R366, R370 to R373). -/

namespace Sys2Proof.Machine

/-! ## Words that perform their threads one after another -/

/-- What such a word does, from a state that its order leaves. -/
theorem runThreads_fresh {one : State → Nat → Thr × State} {c : Ctx} {f : Fields} {s u : State} {ws : List (RegKey × Word)} (hh : c.hold = none)
    (h : performs one (accessing f c.sel) s = some (ws, u)) : (runThreads one (c.todo f) { s, done := c.done }).finish c = u.finishLate c ws :=
  runThreads_finish c (by rwa [(Ctx.todo_fresh hh f).1])

/-! ## jqstart -/

section
variable {s : State} {c : Ctx} {f : Fields}

/-- What a `jqstart` that is not taken back does: it answers, waits, or tries to start the run. -/
def jqstartBody (f : Fields) (c : Ctx) (s : State) : State :=
  if c.heldAs .jqstart && c.arg == 1 then s.jqstartWait c f
  else if !c.heldAs .jqstart && !(s.cluster c.dev c.jq).jqFree then s.finishLate c (c.laneWrites f.d fun _ => 0)
  else if (s.cluster c.dev c.jq).jqPause.isSome then s.holdP c .jqstart 0 0
  else match (s.releaseAt c 2).jqTry c.dev c.jq c.ctx (c.addr s f.a 0 (lowThread c.sel)) with
    | (.ran, s1) => (s1.modCluster c.dev c.jq fun C => { C with jqPath := some c.r, jqOwner := none, jqRid := c.G.rid }).holdP c .jqstart 1 0
    | (.waits, s1) => (s1.modCluster c.dev c.jq fun C => { C with jqPath := some c.r, jqCtx := c.ctx }).holdP c .jqstart 0 0
    | (.paused page, s1) => (s1.modCluster c.dev c.jq fun C => { C with jqPath := some c.r, jqPause := some page, jqCtx := c.ctx }).holdP c .jqstart 0 0
    | (.failed cls reason va, s1) => (s1.modCluster c.dev c.jq fun C => { C with jqPath := none }).trap c cls reason 0 va

theorem execJqstart_eq (f : Fields) (s : State) : execJqstart f s = issue .jqstart f (whereSelected (jqstartBody f)) s := rfl

theorem jqstartBody_taken (hh : c.hold = none) (h : (s.cluster c.dev c.jq).jqFree = false) :
    jqstartBody f c s = s.finishLate c (c.laneWrites f.d fun _ => 0) := by
  simp [jqstartBody, Ctx.heldAs_none hh, h]

/-- The tries of a free Jacquard. -/
theorem jqstartBody_free (hh : c.hold = none) (h : (s.cluster c.dev c.jq).jqFree = true ∧ (s.cluster c.dev c.jq).jqPause = none) {r : JqStart} {t : State}
    (ht : (s.releaseAt c 2).jqTry c.dev c.jq c.ctx (c.addr s f.a 0 (lowThread c.sel)) = (r, t)) :
    (r = .ran → jqstartBody f c s =
      (t.modCluster c.dev c.jq fun C => { C with jqPath := some c.r, jqOwner := none, jqRid := c.G.rid }).holdP c .jqstart 1 0) ∧
    ∀ cls reason va, r = .failed cls reason va → jqstartBody f c s = (t.modCluster c.dev c.jq fun C => { C with jqPath := none }).trap c cls reason 0 va := by
  obtain ⟨hf, hp⟩ := h
  simp only [jqstartBody, Ctx.heldAs_none hh, hf, hp, ht, Bool.not_true, Bool.and_false, Bool.false_and, Option.isSome_none, Bool.false_eq_true, if_false]
  exact ⟨fun h => by rw [h], fun _ _ _ h => by rw [h]⟩

theorem jqstartBody_resumed (hh : c.heldAs .jqstart = true) (ha : c.arg = 1) : jqstartBody f c s = s.jqstartWait c f := by
  simp [jqstartBody, hh, ha]

end

theorem Cluster.beginRun_ns (C : Cluster) (x : DWord) (buf : List Byte) : (C.beginRun x buf).ns = leNat (buf.take 4) / 2 ^ 16 % 2 ^ 9 := by
  show (BitVec.ofNat 32 (leNat (buf.take 4))).toNat / 2 ^ 16 % 2 ^ (24 + 1 - 16) = _
  rw [BitVec.toNat_ofNat]
  omega

theorem Cluster.beginRun_samples (C : Cluster) (x : DWord) (buf : List Byte) :
    (C.beginRun x buf).samples = (List.range ((C.beginRun x buf).ns + 1)).map fun i => { idx := i } := rfl

/-- Settles O52: `jqstart` by its cases, the state of a run that begins, and two words whose threads answer one after another. -/
theorem jacquardWords : Obligations.JacquardWords := by
  unfold Obligations.JacquardWords
  intro start free
  refine ⟨?taken, ?ran, fun cls reason va => ?failed, fun s f c hr hs hh ha => ?resumed, fun C x buf => ?begin_, ?done, ?stat⟩
  case taken =>
    exact Does.of_def execJqstart (fun _ _ => rfl) execJqstart_eq fun _ _ _ hs hh h => (whereSelected_of_ne hs).trans (jqstartBody_taken hh h)
  case ran =>
    exact Does.of_def execJqstart (fun _ _ => rfl) execJqstart_eq fun _ _ _ hs hh h =>
      (whereSelected_of_ne hs).trans ((jqstartBody_free hh h.1 (Prod.eta _).symm).1 h.2)
  case failed =>
    exact Does.of_def execJqstart (fun _ _ => rfl) execJqstart_eq fun _ _ _ hs hh h =>
      (whereSelected_of_ne hs).trans ((jqstartBody_free hh h.1 (Prod.eta _).symm).2 _ _ _ h.2)
  case resumed =>
    intro C
    refine (exec_resumes execJqstart (fun _ _ => rfl) execJqstart_eq hr).trans (congrArg _ ((whereSelected_of_ne hs).trans ((jqstartBody_resumed hh ha).trans ?_)))
    simp only [State.jqstartWait, Bool.and_eq_true, List.any_eq_true, beq_iff_eq]
    rfl
  case begin_ =>
    intro D
    refine ⟨rfl, rfl, rfl, ?_, fun i h => ?_⟩
    · rw [show D.samples.length = D.ns + 1 by simp [D, Cluster.beginRun_samples], Cluster.beginRun_ns]
    · simp [D, Cluster.beginRun_samples]
  case done =>
    exact DoesThreads.of_def execJqdone (fun _ _ => rfl) (fun _ _ => rfl) fun _ _ _ hs hh _ ws u h => (selected_eq hs _ _).trans (runThreads_fresh hh h)
  case stat =>
    exact DoesThreads.of_def execJqstat (fun _ _ => rfl) (fun _ _ => rfl) fun _ _ _ hs hh _ ws u h => (selected_eq hs _ _).trans (runThreads_fresh hh h)

end Sys2Proof.Machine
end

section
/-! PROOFS. `tlbi.all` that waits (R403). -/

namespace Sys2Proof.Machine

/-- A weft whose path issues, and that has gone past an instruction which keeps a translation. -/
def shotWeft : Weft :=
  { wid := 0, priv := true, seg := 0x20000, paths := [{ mask := 1 }],
    late := [{ n := 9, path := { mask := 2 }, hold := { why := .late }, tlb := [⟨0, 0, 0, 42, 0x19F, 0⟩] }] }

/-- The group of that weft alone on its device. -/
def shotState : State :=
  { devs := [{ id := 0, st := 6 }], issuer := some ⟨1, 0, 0⟩, uid := 2,
    groups := [{ uid := 1, dev := 0, core := 0, ctx := 0, rid := 1, node := 0, ngroups := 1, wefts := [shotWeft] }],
    regions := [{ rid := 1, dev := 0, rcb := 0x3000, ctx := 0, st := 1, seen := true, nodes := [{ idx := 0, st := 2, len := 1, wefts := 1, inFlight := 1 }] }],
    tlb := [⟨0, 0, 0, 42, 0x19F, 0⟩] }

theorem shotState_issuing : (shotState.issuing {}).isSome = true := by decide +kernel

/-- The path that issues there. -/
def shotCtx : Ctx := (shotState.issuing {}).get shotState_issuing

/-- The number that the hold of that path keeps. -/
def shotArg : Host.Outcome State Fault Refusal → Option Nat
  | .next t => (((t.weft? 1 0).bind fun w => w.path? 0).bind fun p => p.hold).map fun h => h.arg
  | _ => none

theorem shotState_issues : shotState.Issues .tlbiAll {} shotCtx :=
  ⟨(Option.some_get shotState_issuing).symm, by decide +kernel, by decide +kernel, by decide +kernel⟩

/-- Refutes O53: the hold of a `tlbi.all` that has to wait keeps 1, by which it names every context, and not 0 as the clause that it shares with `tlbi.ctx` and
`tlbi.page` says. -/
theorem not_supervisorWords : ¬ Obligations.SupervisorWords := by
  unfold Obligations.SupervisorWords
  intro h
  dsimp only at h
  obtain ⟨-, ⟨-, hwaits, -⟩, -⟩ := h
  have hexec := hwaits shotState {} shotCtx shotState_issues (by decide +kernel) (by decide +kernel)
  exact absurd (congrArg shotArg hexec) (by decide +kernel)

end Sys2Proof.Machine
end

section
/-! PROOFS. Barriers and the fence (R246, R286 to R293). -/

namespace Sys2Proof.Machine

/-! ## Arrivals -/

/-- A party that arrives, by whether it has arrived before and whether it is the last. -/
theorem Barrier.arriveWith_eq (x : Barrier) (who : Nat × Nat) (acq : List Nat) (gone : List (Nat × Nat)) :
    x.arriveWith who acq gone =
      if x.here.contains who then { x with carry := (x.carry ++ acq).eraseDups }
      else if x.expect ≤ x.arrived + 1 then
        { x with phase := x.phase + 1, arrived := gone.length, here := gone, party := none, past := (x.past ++ (x.carry ++ acq).eraseDups).eraseDups, carry := [] }
      else { x with arrived := x.arrived + 1, here := x.here ++ [who], carry := (x.carry ++ acq).eraseDups } := by
  by_cases h : x.here.contains who = true
  · rw [if_pos h]
    exact if_pos h
  · rw [if_neg h]
    unfold Barrier.arriveWith Barrier.arrive Barrier.join
    simp only [h, Bool.false_eq_true, if_false]
    rfl

/-! ## Words on barriers -/

section
variable {s : State} {c : Ctx} {f : Fields}

theorem State.bar_eq (s : State) (c : Ctx) (n : Nat) : s.bar c n = (s.groupNow c).bars.getD n {} := rfl

/-- The number that a word names at its issue. -/
theorem Ctx.barNo_issued (hh : c.hold = none) (why : Why) (o : Operand) : c.barNo s why o = (c.once s o).toNat := by
  rw [Ctx.barNo, hh]

/-- The number that a held word keeps. -/
theorem Ctx.barNo_held {h : Hold} (hh : c.hold = some h) (o : Operand) : c.barNo s h.why o = h.va.toNat := by
  simp [Ctx.barNo, hh]

theorem Ctx.heldAs_of_hold {h : Hold} (hh : c.hold = some h) : c.heldAs h.why = true := by
  simp [Ctx.heldAs, hh]

theorem Ctx.arg_of_hold {h : Hold} (hh : c.hold = some h) : c.arg = h.arg := by
  simp [Ctx.arg, hh]

/-- What a word that waits for a phase does: it is held, or goes on as an acquire. -/
theorem State.awaitPhase_eq (s : State) (c : Ctx) (why : Why) (p n : Nat) (b : Barrier) :
    s.awaitPhase c why p n b = if b.phase.toNat = p then s.holdP c why p 0 (BitVec.ofNat 64 n)
      else (s.modW c fun w => { w with acq := (w.acq ++ b.past).eraseDups }).finishLate c [] := by
  simp only [State.awaitPhase, beq_iff_eq]
  rfl

theorem State.awaitPhase_over {why : Why} {p n : Nat} {b : Barrier} (h : b.phase.toNat ≠ p) :
    s.awaitPhase c why p n b = (s.modW c fun w => { w with acq := (w.acq ++ b.past).eraseDups }).finishLate c [] := by
  rw [State.awaitPhase_eq, if_neg h]

/-- The meaning of `barw`. -/
def barwBody (f : Fields) (c : Ctx) (s : State) : State :=
  if 15 < c.barNo s .barw f.a then s.trap c .operand 11
  else if c.heldAs .barw then s.awaitPhase c .barw c.arg (c.barNo s .barw f.a) (s.bar c (c.barNo s .barw f.a))
  else (s.arriveGroup c (c.barNo s .barw f.a)).awaitPhase c .barw (s.bar c (c.barNo s .barw f.a)).phase.toNat (c.barNo s .barw f.a)
    ((s.arriveGroup c (c.barNo s .barw f.a)).bar c (c.barNo s .barw f.a))

theorem execBarw_eq (f : Fields) (s : State) : execBarw f s = issue .barw f (whereSelected (barwBody f)) s := rfl

/-- The party of a cluster's barrier that arrives, and what it then waits for. -/
def State.arriveCbar (s : State) (c : Ctx) (P : Party) (n k : Nat) : State :=
  let s1 := (s.releaseAt c 2).modParty P.uid fun P1 =>
    { P1 with cbars := modAt (fun b => Barrier.arriveWith { b with party := some k, expect := s.partyWefts P + k } c.who (c.acq s) (s.partyGone P)) n P1.cbars }
  match s1.party? P.uid with
  | some P1 => s1.awaitPhase c .cbar (P.cbars.getD n {}).phase.toNat n (P1.cbars.getD n {})
  | none => s1

/-- A cluster's barrier that expects another number of parties. -/
def Barrier.refuses (b : Barrier) (c : Ctx) (k : Nat) : Bool := (match b.party with | some x => x != k | none => false) || (c.isTreadle && k == 0)

/-- The meaning of `cbar`. -/
def cbarBody (f : Fields) (c : Ctx) (s : State) : State :=
  if 3 < c.barNo s .cbar f.a then s.trap c .operand 11
  else if !c.heldAs .cbar && 1 < (c.once s f.b).toNat then s.trap c .operand 22
  else match c.G.unit.bind s.party? with
    | none => s.trap c .operand 23
    | some P =>
      if c.heldAs .cbar then s.awaitPhase c .cbar c.arg (c.barNo s .cbar f.a) (P.cbars.getD (c.barNo s .cbar f.a) {})
      else if (P.cbars.getD (c.barNo s .cbar f.a) {}).refuses c (c.once s f.b).toNat then s.trap c .operand 22
      else s.arriveCbar c P (c.barNo s .cbar f.a) (c.once s f.b).toNat

theorem execCbar_eq (f : Fields) (s : State) : execCbar f s = issue .cbar f (whereSelected (cbarBody f)) s := rfl

/-- The party of a grid's barrier that arrives, and what it then waits for. -/
def State.arriveGbar (s : State) (c : Ctx) (P : Party) : State :=
  let s1 := (s.releaseAt c 2).modParty P.uid fun P1 => { P1 with gbar := P1.gbar.arriveWith c.who (c.acq s) (s.partyGone P) }
  match s1.party? P.uid with
  | some P1 => s1.awaitPhase c .gbar P.gbar.phase.toNat 0 P1.gbar
  | none => s1

/-- The meaning of `gbar`. -/
def gbarBody (c : Ctx) (s : State) : State :=
  match c.G.grid.bind s.party? with
  | none => s.trap c .operand 23
  | some P => if c.heldAs .gbar then s.awaitPhase c .gbar c.arg 0 P.gbar else s.arriveGbar c P

theorem execGbar_eq (f : Fields) (s : State) : execGbar f s = issue .gbar f (whereSelected gbarBody) s := rfl

theorem barwBody_issued (hh : c.hold = none) (hn : (c.once s f.a).toNat ≤ 15) :
    barwBody f c s = (s.arriveGroup c (c.once s f.a).toNat).awaitPhase c .barw (s.bar c (c.once s f.a).toNat).phase.toNat (c.once s f.a).toNat
      ((s.arriveGroup c (c.once s f.a).toNat).bar c (c.once s f.a).toNat) := by
  simp only [barwBody, Ctx.barNo_issued hh]
  exact (if_neg (Nat.not_lt.mpr hn)).trans (if_neg (Ctx.not_heldAs hh))

theorem barwBody_held {h : Hold} (hh : c.hold = some h) (hw : h.why = .barw) (hn : h.va.toNat ≤ 15) :
    barwBody f c s = s.awaitPhase c .barw h.arg h.va.toNat (s.bar c h.va.toNat) := by
  have hk : c.barNo s .barw f.a = h.va.toNat := hw ▸ Ctx.barNo_held hh f.a
  simp only [barwBody, hk, Ctx.arg_of_hold hh]
  exact (if_neg (Nat.not_lt.mpr hn)).trans (if_pos (hw ▸ Ctx.heldAs_of_hold hh))

theorem Barrier.not_refuses {b : Barrier} {k : Nat} (ht : c.isTreadle = true → k = 1) (hp : b.party = none ∨ b.party = some k) : b.refuses c k = false := by
  have h1 : (c.isTreadle && k == 0) = false := by
    rw [Bool.and_eq_false_iff]
    rcases hc : c.isTreadle with _ | _
    · exact .inl rfl
    · exact .inr (by rw [ht hc]; rfl)
  rcases hp with hp | hp <;> simp [Barrier.refuses, hp, h1]

theorem cbarBody_issued (hh : c.hold = none) (hn : (c.once s f.a).toNat ≤ 3) (hk : (c.once s f.b).toNat ≤ 1) :
    cbarBody f c s = match c.G.unit.bind s.party? with
      | none => s.trap c .operand 23
      | some P => if (P.cbars.getD (c.once s f.a).toNat {}).refuses c (c.once s f.b).toNat then s.trap c .operand 22
        else s.arriveCbar c P (c.once s f.a).toNat (c.once s f.b).toNat := by
  simp only [cbarBody, Ctx.barNo_issued hh, Ctx.heldAs_none hh, Bool.false_eq_true, if_false, Bool.not_false, Bool.true_and, decide_eq_true_eq,
    if_neg (Nat.not_lt.mpr hn), if_neg (Nat.not_lt.mpr hk)]

theorem cbarBody_held {h : Hold} {P : Party} (hh : c.hold = some h) (hw : h.why = .cbar) (hn : h.va.toNat ≤ 3) (hP : c.G.unit.bind s.party? = some P) :
    cbarBody f c s = s.awaitPhase c .cbar h.arg h.va.toNat (P.cbars.getD h.va.toNat {}) := by
  have hk : c.barNo s .cbar f.a = h.va.toNat := hw ▸ Ctx.barNo_held hh f.a
  have ha : c.heldAs .cbar = true := hw ▸ Ctx.heldAs_of_hold hh
  simp only [cbarBody, hk, ha, hP, Ctx.arg_of_hold hh, if_neg (Nat.not_lt.mpr hn), Bool.not_true, Bool.false_and, Bool.false_eq_true, if_false, if_true]

end

/-- Settles O48: an arrival by its three cases, each word by its checks and the barrier that it finds, and a held one by the phase that it waits for. -/
theorem barrierWords : Obligations.BarrierWords := by
  unfold Obligations.BarrierWords
  intro n b bar settle
  refine ⟨fun x who acq gone => ?arrive, ?number, ?barv, ?barw, ?parties, ?bars, fun P => ⟨?cbar, ?gbar⟩, ?noUnit, ?noGrid, fun s f c h hr hs hh => ?held, ?acq, ?rel⟩
  case arrive =>
    intro y
    have hy : y = _ := Barrier.arriveWith_eq x who acq gone
    refine ⟨fun hw => ?_, fun hw hl => ?_, fun hw hl => ?_⟩
    · rw [hy, if_pos hw]
      exact ⟨rfl, rfl, rfl⟩
    · rw [hy, if_neg (Bool.eq_false_iff.mp hw), if_neg (Nat.not_le.mpr hl)]
      exact ⟨rfl, rfl, rfl, rfl⟩
    · rw [hy, if_neg (Bool.eq_false_iff.mp hw), if_pos hl]
      exact ⟨rfl, rfl, rfl, rfl, fun k => by simp only [List.mem_eraseDups, List.mem_append]⟩
  case number =>
    intro i hi
    simp only [List.mem_cons, List.not_mem_nil, or_false] at hi
    rcases hi with rfl | rfl | rfl
    · exact Does.of_def execBarv (fun _ _ => rfl) (fun _ _ => rfl) fun _ _ _ hs _ h => (selected_eq hs _ _).trans (if_pos h)
    · refine Does.of_def execBarw (fun _ _ => rfl) execBarw_eq fun f c s hs hh h => (whereSelected_of_ne hs).trans (if_pos ?_)
      rw [Ctx.barNo_issued hh]
      exact h
    · exact Does.of_def execBars (fun _ _ => rfl) (fun _ _ => rfl) fun _ _ _ hs _ h => (selected_eq hs _ _).trans (if_pos h)
  case barv =>
    exact Does.of_def execBarv (fun _ _ => rfl) (fun _ _ => rfl) fun _ _ _ hs _ h => (selected_eq hs _ _).trans (if_neg (Nat.not_lt.mpr h))
  case barw =>
    refine Does.of_def execBarw (fun _ _ => rfl) execBarw_eq fun f c s hs hh h => (whereSelected_of_ne hs).trans ?_
    exact (barwBody_issued hh h).trans (State.awaitPhase_eq ..)
  case parties =>
    refine Does.of_def execBars (fun _ _ => rfl) (fun _ _ => rfl) fun f c s hs hh ⟨hn, hb⟩ => (selected_eq hs _ _).trans ((if_neg (Nat.not_lt.mpr hn)).trans (if_pos ?_))
    rw [Bool.or_eq_true, beq_iff_eq, decide_eq_true_eq]
    exact hb
  case bars =>
    refine Does.of_def execBars (fun _ _ => rfl) (fun _ _ => rfl) fun f c s hs hh ⟨hn, h0, h33⟩ =>
      (selected_eq hs _ _).trans ((if_neg (Nat.not_lt.mpr hn)).trans (if_neg ?_))
    rw [Bool.or_eq_true, beq_iff_eq, decide_eq_true_eq]
    exact fun he => he.elim (fun he => Nat.ne_of_gt h0 he) (Nat.not_lt.mpr h33)
  case cbar =>
    refine Does.of_def execCbar (fun _ _ => rfl) execCbar_eq fun f c s hs hh ⟨hn, hk, hP, ht, hp⟩ => (whereSelected_of_ne hs).trans ?_
    have hr := Barrier.not_refuses (c := c) ht hp
    rw [cbarBody_issued hh hn hk, hP]
    refine (if_neg (Bool.eq_false_iff.mp hr)).trans ?_
    simp only [State.arriveCbar, State.awaitPhase_eq]
    rfl
  case gbar =>
    refine Does.of_def execGbar (fun _ _ => rfl) execGbar_eq fun f c s hs hh hP => (whereSelected_of_ne hs).trans ?_
    rw [gbarBody, hP]
    refine (if_neg (Ctx.not_heldAs hh)).trans ?_
    simp only [State.arriveGbar, State.awaitPhase_eq]
    rfl
  case noUnit =>
    refine Does.of_def execCbar (fun _ _ => rfl) execCbar_eq fun f c s hs hh ⟨hn, hk, hP⟩ => (whereSelected_of_ne hs).trans ?_
    rw [cbarBody_issued hh hn hk, hP]
  case noGrid =>
    refine Does.of_def execGbar (fun _ _ => rfl) execGbar_eq fun f c s hs hh hP => (whereSelected_of_ne hs).trans ?_
    rw [gbarBody, hP]
  case held =>
    intro k acquires
    refine ⟨fun hw hk hp => ?_, fun P hP hw hk hp => ?_, fun P hP hw hp => ?_⟩
    · refine (exec_resumes execBarw (fun _ _ => rfl) execBarw_eq hr).trans (congrArg _ ((whereSelected_of_ne hs).trans ?_))
      exact (barwBody_held hh hw hk).trans (State.awaitPhase_over hp)
    · refine (exec_resumes execCbar (fun _ _ => rfl) execCbar_eq hr).trans (congrArg _ ((whereSelected_of_ne hs).trans ?_))
      exact (cbarBody_held hh hw hk hP).trans (State.awaitPhase_over hp)
    · refine (exec_resumes execGbar (fun _ _ => rfl) execGbar_eq hr).trans (congrArg _ ((whereSelected_of_ne hs).trans ?_))
      rw [gbarBody, hP]
      refine (if_pos (hw ▸ Ctx.heldAs_of_hold hh)).trans ?_
      rw [Ctx.arg_of_hold hh, State.awaitPhase_over hp]
  case acq =>
    exact Does.of_def execFence (fun _ _ => rfl) (fun _ _ => rfl) fun _ _ _ hs _ h => (selected_eq hs _ _).trans (if_pos (beq_iff_eq.mpr h))
  case rel =>
    refine Does.of_def execFence (fun _ _ => rfl) (fun _ _ => rfl) fun f c s hs hh h => (selected_eq hs _ _).trans ((if_neg fun he => h (beq_iff_eq.mp he)).trans ?_)
    rw [if_neg (Ctx.not_heldAs hh)]
    simp only [Bool.and_eq_true, beq_iff_eq]

end Sys2Proof.Machine
end

section
/-! PROOFS. Tile moves, batches, loop counters and the treadle (R236, R244, R246, R252, R254, R255). -/

namespace Sys2Proof.Machine

section
variable {s : State} {c : Ctx} {f : Fields}

/-- A tile move whose tile passes its checks performs its threads. -/
theorem State.cellMove_moves {o : Operand} {one : Tile → State → Nat → Thr × State} {x : Tile} {ts : List Nat} {u : State} {ws : List (RegKey × Word)}
    (hs : c.sel ≠ 0) (ht : c.tiles s o 1 = .ok ts) (hx : ((s.group? c.r.g).getD c.G).tile? (ts.headD 0) = some x)
    (hc : c.ordered x = true → cellTag f x.tag = true) (hp : performs (one x) (threadsOf c.sel) s = some (ws, u)) : s.cellMove c f o one = u.finishLate c ws := by
  have hn : (c.ordered x && !cellTag f x.tag) = false := by
    cases ho : c.ordered x with
    | false => rfl
    | true => rw [hc ho]; rfl
  unfold State.cellMove
  rw [selected_eq hs, ht]
  simp only [hx, hn, Bool.false_eq_true, if_false]
  exact runThreads_finish c hp

theorem Ctx.named_eq (c : Ctx) (f : Fields) : c.named f = if f.mod.getLsbD 0 = true ∨ c.r.w = clusterWid then clusterWid else treadleWid := by
  simp only [Ctx.named, Ctx.isCluster, Bool.or_eq_true, beq_iff_eq]

/-- The treadle that a word names. -/
def State.namedTreadle (s : State) (c : Ctx) (f : Fields) : Treadle := (s.treadle? c.r.g (c.named f)).getD {}

/-- What a `twait` does with the batch that it waits for. -/
def State.waitBatch (s : State) (c : Ctx) (f : Fields) (n : Nat) : State :=
  if f.mod.getLsbD 0 && c.G.unit.isNone then s.trap c .tile 3
  else if 15 < n then s.trap c .operand 11
  else if s.inFlight (s.namedTreadle c f) n then s.holdP c .twait n 0
  else (s.acquireOps c ((s.namedTreadle c f).batch n)).finishLate c []

/-- The meaning of `twait`. -/
def twaitBody (f : Fields) (c : Ctx) (s : State) : State := s.waitBatch c f (if c.heldAs .twait then c.arg else (c.once s f.a).toNat)

theorem execTwait_eq (f : Fields) (s : State) : execTwait f s = issue .twait f (whereSelected (twaitBody f)) s := rfl

theorem State.waitBatch_within {n : Nat} (hu : f.mod.getLsbD 0 = true → c.G.unit.isSome = true) (hn : n ≤ 15) :
    s.waitBatch c f n = if s.inFlight (s.namedTreadle c f) n then s.holdP c .twait n 0
      else (s.acquireOps c ((s.namedTreadle c f).batch n)).finishLate c [] := by
  refine (if_neg ?_).trans (if_neg (Nat.not_lt.mpr hn))
  rw [Bool.and_eq_true, Option.isNone_iff_eq_none]
  rintro ⟨h1, h2⟩
  have := hu h1
  rw [h2] at this
  exact Bool.false_ne_true this

end

/-- What a `tstop` does with a treadle that does not run, from its weft's stream and from the treadle's own. -/
def State.stopTreadleOf (s : State) (c : Ctx) (w : Nat) (T : Treadle) : State :=
  if !T.running then s.finishLate c []
  else
    let s1 := if c.isTreadle then s
      else s.modTreadle c.r.g w fun T => { T with stopping := true, weft := { T.weft with paths := T.weft.paths.map fun p => { p with hold := none } } }
    if T.issued.any s.opLive then s1.holdP c .tstop 0 0
    else
      let s2 := s1.stopTreadle c.r.g w
      if c.isTreadle then s2 else (s2.acquireOps c T.issued).finishLate c []

/-- The meaning of `tstop`. -/
def tstopBody (f : Fields) (c : Ctx) (s : State) : State :=
  s.stopTreadleOf c (if c.isTreadle then c.r.w else c.named f) ((s.treadle? c.r.g (if c.isTreadle then c.r.w else c.named f)).getD {})

theorem execTstop_eq (f : Fields) (s : State) : execTstop f s = issue .tstop f (whereSelected (tstopBody f)) s := rfl

/-- Settles O47: each of the words by its checks and the treadle, batch or tile that it finds. -/
theorem treadleWords : Obligations.TreadleWords := by
  unfold Obligations.TreadleWords
  intro n tile named T live
  have hT : ∀ f c s, s.namedTreadle c f = T f c s := fun f c s => by rw [State.namedTreadle, Ctx.named_eq]
  refine ⟨fun x => ⟨?tread, ?twrite⟩, ?fence, ?wait, fun s f c hr hs hh hu hn hl => ?resumed, ?tlc, ?forbidden, fun w hw => ?run, ?idle, ?stop, ?self⟩
  case tread =>
    exact DoesThreads.of_def execTread (fun _ _ => rfl) (fun _ _ => rfl) fun _ _ _ hs _ ⟨⟨_, ht, hx⟩, hc⟩ _ _ hp => State.cellMove_moves hs ht hx hc hp
  case twrite =>
    exact DoesThreads.of_def execTwrite (fun _ _ => rfl) (fun _ _ => rfl) fun _ _ _ hs _ ⟨⟨_, ht, hx⟩, hc⟩ _ _ hp => State.cellMove_moves hs ht hx hc hp
  case fence =>
    refine Does.of_def execTfence (fun _ _ => rfl) (fun _ _ => rfl) fun f c s hs hh ⟨ht, hn, hl, hb⟩ => (selected_eq hs _ _).trans ?_
    rw [if_neg (by rw [ht]; exact Bool.false_ne_true)]
    refine (if_neg (Nat.not_lt.mpr hn)).trans (if_neg ?_)
    rw [Bool.or_eq_true, Bool.and_eq_true, decide_eq_true_eq]
    rintro (h | ⟨h8, hu⟩)
    · exact Bool.false_ne_true (hl.symm.trans h)
    · exact hb.elim (Nat.not_lt.mpr h8) fun h => Bool.false_ne_true (h.symm.trans hu)
  case wait =>
    refine Does.of_def execTwait (fun _ _ => rfl) execTwait_eq fun f c s hs hh ⟨hu, hn⟩ => (whereSelected_of_ne hs).trans ?_
    rw [twaitBody, if_neg (Ctx.not_heldAs hh), State.waitBatch_within hu hn, hT]
    rfl
  case resumed =>
    refine (exec_resumes execTwait (fun _ _ => rfl) execTwait_eq hr).trans (congrArg _ ((whereSelected_of_ne hs).trans ?_))
    rw [twaitBody, if_pos hh, State.waitBatch_within hu hn, hT]
    exact if_neg (Bool.eq_false_iff.mp hl)
  case tlc =>
    refine Does.of_def execTlc (fun _ _ => rfl) (fun _ _ => rfl) fun f c s hs hh ⟨ht, hr, hn, h32⟩ => (selected_eq hs _ _).trans ?_
    rw [if_neg (by rw [ht]; exact Bool.false_ne_true)]
    refine if_neg ?_
    rw [Bool.or_eq_true, Bool.or_eq_true, Bool.or_eq_true, beq_iff_eq, decide_eq_true_eq, decide_eq_true_eq, decide_eq_true_eq]
    change n f c s < _ at hr
    change n f c s ≤ 31 at hn
    change ¬(((31 < n f c s ∨ _) ∨ _) ∨ _ ≤ n f c s)
    omega
  case forbidden =>
    intro i hi
    simp only [List.mem_cons, List.not_mem_nil, or_false] at hi
    rcases hi with rfl | rfl
    · exact Does.of_def execTfence (fun _ _ => rfl) (fun _ _ => rfl) fun _ _ _ hs _ h => (selected_eq hs _ _).trans (if_pos (by rw [h]; rfl))
    · exact Does.of_def execTlc (fun _ _ => rfl) (fun _ _ => rfl) fun _ _ _ hs _ h => (selected_eq hs _ _).trans (if_pos (by rw [h]; rfl))
  case run =>
    refine Does.of_def execTrun (fun _ _ => rfl) (fun _ _ => rfl) fun f c s hs hh ⟨hw, hu, hi, hx⟩ => (selected_eq hs _ _).trans ?_
    subst hw
    refine (if_neg ?_).trans ((if_neg (Bool.eq_false_iff.mp hi)).trans (if_neg ?_))
    · rw [Bool.and_eq_true, Bool.or_eq_true, Option.isNone_iff_eq_none, bne_iff_ne]
      rintro ⟨h1, h2 | h2⟩
      · exact Option.isSome_iff_ne_none.mp (hu h1).1 h2
      · exact h2 (hu h1).2
    · rw [bne_iff_ne]
      exact fun h => h hx
  case idle =>
    refine Does.of_def execTstop (fun _ _ => rfl) execTstop_eq fun f c s hs hh ⟨ht, hi⟩ => (whereSelected_of_ne hs).trans ?_
    have hi' : ((s.treadle? c.r.g (c.named f)).getD {}).running = false := (congrArg Treadle.running (hT f c s)).trans hi
    simp only [tstopBody, State.stopTreadleOf, ht, Bool.false_eq_true, if_false, hi', Bool.not_false, if_true]
  case stop =>
    refine Does.of_def execTstop (fun _ _ => rfl) execTstop_eq fun f c s hs hh ⟨ht, hr⟩ => (whereSelected_of_ne hs).trans ?_
    have hr' : ((s.treadle? c.r.g (c.named f)).getD {}).running = true := (congrArg Treadle.running (hT f c s)).trans hr
    simp only [tstopBody, State.stopTreadleOf, ht, Bool.false_eq_true, if_false, hr', Bool.not_true]
    rw [Ctx.named_eq]
    rfl
  case self =>
    refine Does.of_def execTstop (fun _ _ => rfl) execTstop_eq fun f c s hs hh ⟨ht, hr⟩ => (whereSelected_of_ne hs).trans ?_
    have hr' : ((s.treadle? c.r.g c.r.w).getD {}).running = true := hr
    simp only [tstopBody, State.stopTreadleOf, ht, if_true, hr', Bool.not_true, Bool.false_eq_true, if_false]
    rfl

end Sys2Proof.Machine
end

section
/-! PROOFS. The issue of the matrix instructions (R235, R242, R247, R248, R251, R253). -/

namespace Sys2Proof.Machine

section
variable {s : State} {c : Ctx} {f : Fields}

/-- The number of tiles that a product fills. -/
def Ctx.macBlocks (c : Ctx) (s : State) (f : Fields) : Nat := (refTn (c.refVal s f.a) + 1) * (refTn (c.refVal s f.b) + 1)

/-- A reference that names whole K blocks. -/
def WholeRef (x : DWord) : Prop := refKn x = 3 ∧ (refSrc x = 0 → refCk x % 128 = 0)

/-- The test of `issueMac` for a reference that does not. -/
theorem looseRef_iff (x : DWord) : (refKn x != 3 || (refSrc x == 0 && refCk x % 128 != 0)) = true ↔ ¬WholeRef x := by
  simp only [WholeRef, Bool.or_eq_true, Bool.and_eq_true, bne_iff_ne, beq_iff_eq, Classical.not_and_iff_not_or_not, Classical.not_imp, ne_eq]

/-- A product that is accepted: the operation that each group takes on, and the loop counter. -/
def State.acceptMac (s : State) (c : Ctx) (f : Fields) (i : Form) (ts : List Nat) : State :=
  (s.acceptAll c (if i = .mmap then some .x128 else none) none fun H =>
    { n := 0, g := H.uid, w := 0, form := i, mod := f.mod, tag := tagOf (modHi f.mod), tiles := ts, refA := c.refVal s f.a, refB := c.refVal s f.b,
      rowOff := if c.isCluster then H.member / gridCols c.clusterSize * (32 * (refTn (c.refVal s f.a) + 1)) else 0,
      colOff := if c.isCluster then H.member % gridCols c.clusterSize * (32 * (refTn (c.refVal s f.b) + 1)) else 0 }).countTiles c f.d (c.macBlocks s f)

/-- The references of a product that pass the checks of each. -/
def Ctx.RefsOk (c : Ctx) (s : State) (f : Fields) : Prop :=
  refOk c.isCluster (c.refVal s f.a) = true ∧ refOk c.isCluster (c.refVal s f.b) = true

theorem State.issueMac_form {i : Form} (h : refOk c.isCluster (c.refVal s f.a) = false ∨ refOk c.isCluster (c.refVal s f.b) = false) :
    s.issueMac c f i = s.trap c .tile 5 := by
  refine if_pos ?_
  rwa [Bool.or_eq_true, Bool.not_eq_true', Bool.not_eq_true']

theorem State.issueMac_blocks {i : Form} (h : c.RefsOk s f)
    (hk : refKn (c.refVal s f.a) ≠ refKn (c.refVal s f.b) ∨ i = .mmap ∧ ¬(WholeRef (c.refVal s f.a) ∧ WholeRef (c.refVal s f.b))) :
    s.issueMac c f i = s.trap c .tile 6 := by
  refine (if_neg ?_).trans (if_pos ?_)
  · rw [h.1, h.2]
    exact Bool.false_ne_true
  · rw [Bool.or_eq_true, Bool.and_eq_true, Bool.or_eq_true, looseRef_iff, looseRef_iff, bne_iff_ne, beq_iff_eq, ← Classical.not_and_iff_not_or_not]
    exact hk

/-- A product whose references pass every check takes on its tiles. -/
theorem State.issueMac_refs {i : Form} (h : c.RefsOk s f) (hk : refKn (c.refVal s f.a) = refKn (c.refVal s f.b))
    (hw : i = .mmap → WholeRef (c.refVal s f.a) ∧ WholeRef (c.refVal s f.b)) :
    s.issueMac c f i = match c.tiles s f.d (c.macBlocks s f) with
      | .error e => s.trap c .tile e
      | .ok ts => if i == .mma && s.someTile c ts (fun x => x.tag != tagOf (modHi f.mod)) then s.trap c .tile 1 else s.acceptMac c f i ts := by
  refine (if_neg ?_).trans ((if_neg ?_).trans ?_)
  · rw [h.1, h.2]
    exact Bool.false_ne_true
  · rw [Bool.or_eq_true, Bool.and_eq_true, Bool.or_eq_true, looseRef_iff, looseRef_iff, bne_iff_ne, beq_iff_eq, ← Classical.not_and_iff_not_or_not]
    rintro (hn | ⟨hi, hn⟩)
    · exact hn hk
    · exact hn (hw hi)
  · simp only [State.acceptMac, beq_iff_eq]
    rfl

/-- A mask word all of whose bits name a group: `tdadd` accepts it. -/
theorem masked_iff (s : State) (H : Group) (d : Word) :
    (d.toNat % 65536 < 256 ∧ ∀ k, k < 8 → d.getLsbD k = true → ∃ T ∈ s.maskTargets H (d.toNat % 65536), T.core % 8 = k) ↔
      (decide (256 ≤ d.toNat % 65536) ||
        (List.range 8).any fun k => (d.toNat % 65536).testBit k && !(s.maskTargets H (d.toNat % 65536)).any fun T => T.core % 8 == k) = false := by
  have hbit : ∀ k, k < 8 → (d.toNat % 65536).testBit k = d.getLsbD k := by
    intro k hk
    rw [show (65536 : Nat) = 2 ^ 16 from rfl, Nat.testBit_mod_two_pow, decide_eq_true (show k < 16 by omega), Bool.true_and]
    rfl
  rw [Bool.or_eq_false_iff, decide_eq_false_iff_not, Nat.not_le, List.any_eq_false]
  refine and_congr_right' (forall_congr' fun k => ?_)
  rw [List.mem_range]
  refine forall_congr' fun hk => ?_
  rw [hbit k hk, Bool.and_eq_true, Bool.not_eq_true', List.any_eq_false]
  simp only [beq_iff_eq, not_and, Classical.not_forall, Classical.not_not, exists_prop]

end

/-- Settles O46: each of the words by its checks, in their order, and the tiles that it names. -/
theorem matrixWords : Obligations.MatrixWords := by
  unfold Obligations.MatrixWords
  intro a b d n blocks refs whole mac masked one
  have hmac : ∀ {i : Form} {f : Fields} {c : Ctx} {s : State} {ts : List Nat}, c.tiles s f.d (c.macBlocks s f) = .ok ts → s.acceptMac c f i ts = mac i f c s := by
    intro i f c s ts ht
    show _ = State.countTiles (State.acceptAll _ _ _ _ _) _ _ _
    rw [show c.tiles s f.d (blocks f c s) = .ok ts from ht]
    rfl
  refine ⟨fun i hi => ?macs, ?mma, ?tag, ?mmap, ?split, ?zeroNo, ?zero, ?openNo, ?open_, ?opened, ?drain, ?dadd⟩
  case macs =>
    simp only [List.mem_cons, List.not_mem_nil, or_false] at hi
    rcases hi with rfl | rfl
    · exact ⟨Does.of_def execMma (fun _ _ => rfl) (fun _ _ => rfl) fun _ _ _ hs _ h => (selected_eq hs _ _).trans (State.issueMac_form h),
        Does.of_def execMma (fun _ _ => rfl) (fun _ _ => rfl) fun _ _ _ hs _ ⟨h1, h2, hk⟩ => (selected_eq hs _ _).trans (State.issueMac_blocks ⟨h1, h2⟩ (.inl hk)),
        fun e => Does.of_def execMma (fun _ _ => rfl) (fun _ _ => rfl) fun _ _ _ hs _ ⟨⟨h1, h2, hk⟩, hw, ht⟩ =>
          (selected_eq hs _ _).trans ((State.issueMac_refs ⟨h1, h2⟩ hk hw).trans (by rw [show Ctx.tiles _ _ _ (Ctx.macBlocks _ _ _) = _ from ht]))⟩
    · exact ⟨Does.of_def execMmap (fun _ _ => rfl) (fun _ _ => rfl) fun _ _ _ hs _ h => (selected_eq hs _ _).trans (State.issueMac_form h),
        Does.of_def execMmap (fun _ _ => rfl) (fun _ _ => rfl) fun _ _ _ hs _ ⟨h1, h2, hk⟩ => (selected_eq hs _ _).trans (State.issueMac_blocks ⟨h1, h2⟩ (.inl hk)),
        fun e => Does.of_def execMmap (fun _ _ => rfl) (fun _ _ => rfl) fun _ _ _ hs _ ⟨⟨h1, h2, hk⟩, hw, ht⟩ =>
          (selected_eq hs _ _).trans ((State.issueMac_refs ⟨h1, h2⟩ hk hw).trans (by rw [show Ctx.tiles _ _ _ (Ctx.macBlocks _ _ _) = _ from ht]))⟩
  case mma =>
    refine Does.of_def execMma (fun _ _ => rfl) (fun _ _ => rfl) fun f c s hs hh ⟨⟨h1, h2, hk⟩, ts, ht, hn⟩ => (selected_eq hs _ _).trans ?_
    rw [State.issueMac_refs (i := .mma) ⟨h1, h2⟩ hk (fun h => nomatch h), show c.tiles s f.d (c.macBlocks s f) = .ok ts from ht]
    exact (if_neg (by rw [hn]; exact Bool.false_ne_true)).trans (hmac ht)
  case tag =>
    refine Does.of_def execMma (fun _ _ => rfl) (fun _ _ => rfl) fun f c s hs hh ⟨⟨h1, h2, hk⟩, ts, ht, hn⟩ => (selected_eq hs _ _).trans ?_
    rw [State.issueMac_refs (i := .mma) ⟨h1, h2⟩ hk (fun h => nomatch h), show c.tiles s f.d (c.macBlocks s f) = .ok ts from ht]
    exact if_pos (by rw [hn]; rfl)
  case mmap =>
    refine Does.of_def execMmap (fun _ _ => rfl) (fun _ _ => rfl) fun f c s hs hh ⟨⟨h1, h2, hk⟩, ha, hb, ts, ht⟩ => (selected_eq hs _ _).trans ?_
    rw [State.issueMac_refs ⟨h1, h2⟩ hk (fun _ => ⟨ha, hb⟩), show c.tiles s f.d (c.macBlocks s f) = .ok ts from ht]
    exact (if_neg Bool.false_ne_true).trans (hmac ht)
  case split =>
    exact Does.of_def execMmap (fun _ _ => rfl) (fun _ _ => rfl) fun _ _ _ hs _ ⟨⟨h1, h2, _⟩, hw⟩ =>
      (selected_eq hs _ _).trans (State.issueMac_blocks ⟨h1, h2⟩ (.inr ⟨rfl, hw⟩))
  case zeroNo =>
    exact Does.of_def execTzero (fun _ _ => rfl) (fun _ _ => rfl) fun _ _ _ hs _ h =>
      (selected_eq hs _ _).trans (if_pos (by rwa [Bool.or_eq_true, beq_iff_eq, decide_eq_true_eq]))
  case zero =>
    refine Does.of_def execTzero (fun _ _ => rfl) (fun _ _ => rfl) fun f c s hs hh ⟨h0, hn, ts, ht⟩ => (selected_eq hs _ _).trans ((if_neg ?_).trans ?_)
    · rw [Bool.or_eq_true, beq_iff_eq, decide_eq_true_eq]
      exact fun h => h.elim (Nat.ne_of_gt h0) (Nat.not_lt.mpr hn)
    · have ht' : c.tiles s f.d (c.once s f.a).toNat = .ok ts := ht
      simp only [n, ht']
      rfl
  case openNo =>
    exact Does.of_def execTopen (fun _ _ => rfl) (fun _ _ => rfl) fun _ _ _ hs _ h =>
      (selected_eq hs _ _).trans (if_pos (by rwa [Bool.or_eq_true, beq_iff_eq, decide_eq_true_eq]))
  case open_ =>
    refine Does.of_def execTopen (fun _ _ => rfl) (fun _ _ => rfl) fun f c s hs hh ⟨h0, hn, ts, ht, ho⟩ => (selected_eq hs _ _).trans ((if_neg ?_).trans ?_)
    · rw [Bool.or_eq_true, beq_iff_eq, decide_eq_true_eq]
      exact fun h => h.elim (Nat.ne_of_gt h0) (Nat.not_lt.mpr hn)
    · simp only [ht, ho, Bool.false_eq_true, if_false]
      rfl
  case opened =>
    refine Does.of_def execTopen (fun _ _ => rfl) (fun _ _ => rfl) fun f c s hs hh ⟨h0, hn, ts, ht, ho⟩ => (selected_eq hs _ _).trans ((if_neg ?_).trans ?_)
    · rw [Bool.or_eq_true, beq_iff_eq, decide_eq_true_eq]
      exact fun h => h.elim (Nat.ne_of_gt h0) (Nat.not_lt.mpr hn)
    · simp only [ht, ho, if_true]
  case drain =>
    refine Does.of_def execTdrain (fun _ _ => rfl) (fun _ _ => rfl) fun f c s hs hh ⟨hr, h2, hk, htn, ts, ht, hm⟩ => (selected_eq hs _ _).trans ((if_neg ?_).trans ?_)
    · have h1 : (refSrc (c.refVal s f.d) == 2) = false := beq_false_of_ne h2
      have h3 : refOk c.isCluster (c.refVal s f.d) = true := hr
      have h4 : refKn (c.refVal s f.d) = 0 := hk
      have h5 : refTn (c.refVal s f.d) = 0 := htn
      rw [h1, h3, h4, h5]
      exact Bool.false_ne_true
    · simp only [one, ht, hm, Bool.false_eq_true, if_false]
      rfl
  case dadd =>
    refine Does.of_def execTdadd (fun _ _ => rfl) (fun _ _ => rfl) fun f c s hs hh ⟨hb, hd, hm, ts, ht⟩ =>
      (selected_eq hs _ _).trans ((if_neg (Nat.not_lt.mpr hb)).trans ((if_neg ?_).trans ((if_neg ?_).trans ?_)))
    · rw [Nat.div_eq_of_lt hd]
      exact Bool.false_ne_true
    · rw [Bool.and_eq_true, List.any_eq_true]
      rintro ⟨hf, H, hH, hbad⟩
      exact Bool.false_ne_true (((masked_iff s H (c.once s f.d)).mp (hm hf H hH)).symm.trans hbad)
    · simp only [one, ht]
      rfl

end Sys2Proof.Machine
end

section
/-! PROOFS. `launch`, `post`, `relh`, `countb`, `score` and `trnd` (R94 to R96, R386, R387). -/

namespace Sys2Proof.Machine

/-! ## Regions and nodes -/

theorem State.region?_rid {s : State} {r : Nat} {R : Region} (h : s.region? r = some R) : R.rid = r := by
  simpa using List.find?_some h

theorem State.node?_of_region {s : State} {r n : Nat} {R : Region} (h : s.region? r = some R) : s.node? r n = R.node? n := by
  rw [State.node?, h]

theorem State.region_of_node {s : State} {r n : Nat} {N : Node} (h : s.node? r n = some N) : ∃ R, s.region? r = some R ∧ R.node? n = some N := by
  unfold State.node? at h
  split at h
  · cases h
  · exact ⟨_, ‹_›, h⟩

/-! ## Count slots -/

/-- The value that a count slot's word is read as. -/
theorem State.slotWord_value {s u : State} {c : Ctx} {d k v : Nat} {va : DWord} {x : Xlat} (h : s.slotWord c d k va = (.ok (v, x), u)) :
    v = leNat (u.bytes x.pa 4) := by
  unfold State.slotWord at h
  split at h
  · cases h
  · simp only at h
    split at h
    · cases h
    · cases h
      rfl

theorem State.putSlot_mem (s : State) (pa v : Nat) : (s.putSlot pa v).mem = (s.setBytes pa (leBytes 4 v)).mem := rfl

/-- A count slot's word after it has been written, and every other byte. -/
theorem State.putSlot_bytes {u : State} (h : Memory.wf u.mem = true) (pa k : Nat) :
    leNat ((u.putSlot pa k).bytes pa 4) = k % 2 ^ 32 ∧ ∀ a, (a < pa ∨ pa + 4 ≤ a) → (u.putSlot pa k).byte a = u.byte a := by
  have hb : (u.putSlot pa k).bytes pa 4 = leBytes 4 k := by
    have := bytes_setBytes_same h pa (leBytes 4 k)
    rwa [length_leBytes] at this
  exact ⟨by rw [hb, leNat_leBytes], fun a ha => byte_setBytes_outside h (by rwa [length_leBytes])⟩

/-! ## The words -/

section
variable {s : State} {c : Ctx} {f : Fields}

/-- A `relh` whose slot can be written. -/
theorem State.relhNode_takes {u : State} {R : Region} {n slot v : Nat} {x : Xlat}
    (h : s.slotWord c R.dev R.ctx (R.cslots + BitVec.ofNat 64 (4 * slot)) = (.ok (v, x), u)) (hx : u.refused R.dev R.ctx x.pa = false) :
    s.relhNode c R n slot =
      ((((((u.putSlot x.pa 0).modNode R.rid n fun N => { N with len := v, held := false }).dput R.dev R.ctx (R.nodeAddr n + 0x10) 31 0 v).dput R.dev R.ctx
        (R.nodeAddr n) 4 4 0).readyCheck R.rid n).finishLate c []) := by
  unfold State.relhNode
  simp only [h, hx, Bool.false_eq_true, if_false]

/-- The meaning of `launch`. -/
def launchBody (f : Fields) (c : Ctx) (s : State) : State :=
  match s.nodeInTree c.R.rid (c.nodeRef s f) with
  | none => (s.unstarted c.R (c.nodeRef s f)).2.trap c .operand (if (s.unstarted c.R (c.nodeRef s f)).1.isSome then 4 else 3)
  | some (r, n) => match s.region? r, s.node? r n with
    | some R, some N =>
      if R.killed || R.st != 1 || N.st != 0 || N.pending == 0 then s.trap c .operand 4
      else ((s.releaseAt c 2).decrement r n).finishLate c []
    | _, _ => s.trap c .operand 4

theorem execLaunch_eq (f : Fields) (s : State) : execLaunch f s = issue .launch f (whereSelected (launchBody f)) s := rfl

theorem launchBody_node {r n : Nat} {R : Region} {N : Node} (hr : s.nodeInTree c.R.rid (c.nodeRef s f) = some (r, n)) (hR : s.region? r = some R)
    (hN : s.node? r n = some N) :
    launchBody f c s = if R.killed = true ∨ R.st ≠ 1 ∨ N.st ≠ 0 ∨ N.pending = 0 then s.trap c .operand 4
      else ((s.releaseAt c 2).decrement r n).finishLate c [] := by
  simp only [launchBody, hr, hR, hN, Bool.or_eq_true, bne_iff_ne, beq_iff_eq, or_assoc]

/-- The meaning of `relh`. -/
def relhBody (f : Fields) (c : Ctx) (s : State) : State :=
  match s.nodeInTree c.R.rid (c.nodeRef s f) with
  | none => match (s.unstarted c.R (c.nodeRef s f)).1 with
    | none => (s.unstarted c.R (c.nodeRef s f)).2.trap c .operand 3
    | some (R, n) => (s.unstarted c.R (c.nodeRef s f)).2.relhUnread c R n
  | some (r, n) => match s.region? r with
    | none => s.trap c .operand 3
    | some R => match R.node? n with
      | none => s.relhUnread c R n
      | some N => if R.killed || !N.held || N.st != 0 then s.trap c .operand 9 else s.relhNode c R n N.slot

theorem execRelh_eq (f : Fields) (s : State) : execRelh f s = issue .relh f (whereSelected (relhBody f)) s := rfl

theorem relhBody_node {r n : Nat} {R : Region} {N : Node} (hr : s.nodeInTree c.R.rid (c.nodeRef s f) = some (r, n)) (hR : s.region? r = some R)
    (hN : s.node? r n = some N) :
    relhBody f c s = if R.killed = true ∨ N.held = false ∨ N.st ≠ 0 then s.trap c .operand 9 else s.relhNode c R n N.slot := by
  rw [State.node?_of_region hR] at hN
  simp only [relhBody, hr, hR, hN, Bool.or_eq_true, bne_iff_ne, Bool.not_eq_true', or_assoc]

/-- The meaning of `post`. -/
def postBody (f : Fields) (c : Ctx) (s : State) : State :=
  match s.nodeAt c.dev c.ctx (c.nodeRef s f) with
  | none => match (s.unstartedIn c.dev c.ctx (c.nodeRef s f)).1 with
    | none => (s.unstartedIn c.dev c.ctx (c.nodeRef s f)).2.trap c .operand 5 c.done
    | some (R, n) => (s.unstartedIn c.dev c.ctx (c.nodeRef s f)).2.postUnread c f R n
  | some (r, n) => match s.region? r with
    | none => s.trap c .operand 5 c.done
    | some R => match R.node? n with
    | none => s.postUnread c f R n
    | some N =>
      if N.kind != 1 then s.trap c .operand 5 c.done
      else if f.rows * f.cols * 4 != N.recBytes then s.trap c .operand 6
      else (runThreads (fun s t => s.postThread c f r n t) (c.todo f)
        { s := if c.heldAs .post then s.release c.dev c.core 2 else s.releaseAt c 2, done := c.done }).finish c

theorem execPost_eq (f : Fields) (s : State) : execPost f s = issue .post f (whereSelected (postBody f)) s := rfl

theorem postBody_node {r n : Nat} {N : Node} (hh : c.hold = none) (hr : s.nodeAt c.dev c.ctx (c.nodeRef s f) = some (r, n)) (hN : s.node? r n = some N) :
    postBody f c s = if N.kind ≠ 1 then s.trap c .operand 5
      else if f.rows * f.cols * 4 ≠ N.recBytes then s.trap c .operand 6
      else (runThreads (fun s t => s.postThread c f r n t) (c.todo f) { s := s.releaseAt c 2, done := c.done }).finish c := by
  obtain ⟨R, hR, hN⟩ := State.region_of_node hN
  simp only [postBody, hr, hR, hN, bne_iff_ne, (Ctx.todo_fresh hh f).2, Ctx.heldAs_none hh, Bool.false_eq_true, if_false]

/-- What a `trnd` does with the round that it waits for. -/
def State.awaitRound (s : State) (c : Ctx) (f : Fields) (T : Tourn) (q : Nat) : State :=
  if c.heldAs .trnd && q < T.round then s.finishLate c (c.laneWrites f.d fun _ => q + 1)
  else if 2 ≤ T.st then s.finishLate c (c.laneWrites f.d fun _ => T.round) else s.holdP c .trnd q 0

/-- The meaning of `trnd`. -/
def trndBody (f : Fields) (c : Ctx) (s : State) : State :=
  match s.tournOf c.G with
  | none => s.trap c .operand 29
  | some (T, _) => if c.sel == 0 then s.finishIdle c else s.awaitRound c f T (if c.heldAs .trnd then c.arg else T.round)

theorem execTrnd_eq (f : Fields) (s : State) : execTrnd f s = issue .trnd f (trndBody f) s := rfl

theorem trndBody_in {T : Tourn} {r : Rival} (hs : c.sel ≠ 0) (h : s.tournOf c.G = some (T, r)) :
    trndBody f c s = s.awaitRound c f T (if c.heldAs .trnd then c.arg else T.round) := by
  rw [trndBody, h]
  exact selected_eq hs _ _

end

/-- Settles O51: the words that name a node by where it is found and by its state, the words of a tournament by the rival's scope. -/
theorem workWords : Obligations.WorkWords := by
  unfold Obligations.WorkWords
  intro ref node below later
  refine ⟨?noLaunch, ?unread, ?noRelh, fun R n => ?relhUnread, ?noPost, fun R n => ?postUnread, fun r n R N => ?named, fun s u c d k v va x h hwf => ?slot, ?countb,
    ?noScope, fun T r => ⟨?score, ?trnd, fun s f c hr hs hh hT => ?resumed⟩⟩
  case noLaunch =>
    refine Does.of_def execLaunch (fun _ _ => rfl) execLaunch_eq fun f c s hs hh ⟨hr, hb⟩ => (whereSelected_of_ne hs).trans ?_
    have hr' : s.nodeInTree c.R.rid (c.nodeRef s f) = none := hr
    have hb' : (s.unstarted c.R (c.nodeRef s f)).1 = none := hb
    rw [launchBody, hr']
    simp only [hb', Option.isSome_none, Bool.false_eq_true, if_false, below]
  case unread =>
    refine Does.of_def execLaunch (fun _ _ => rfl) execLaunch_eq fun f c s hs hh ⟨hr, hb⟩ => (whereSelected_of_ne hs).trans ?_
    have hr' : s.nodeInTree c.R.rid (c.nodeRef s f) = none := hr
    have hb' : (s.unstarted c.R (c.nodeRef s f)).1.isSome = true := Option.isSome_iff_ne_none.mpr hb
    rw [launchBody, hr']
    simp only [hb', if_true, below]
  case noRelh =>
    refine Does.of_def execRelh (fun _ _ => rfl) execRelh_eq fun f c s hs hh ⟨hr, hb⟩ => (whereSelected_of_ne hs).trans ?_
    have hr' : s.nodeInTree c.R.rid (c.nodeRef s f) = none := hr
    have hb' : (s.unstarted c.R (c.nodeRef s f)).1 = none := hb
    rw [relhBody, hr']
    simp only [hb', below]
  case relhUnread =>
    refine Does.of_def execRelh (fun _ _ => rfl) execRelh_eq fun f c s hs hh ⟨hr, hb⟩ => (whereSelected_of_ne hs).trans ?_
    have hr' : s.nodeInTree c.R.rid (c.nodeRef s f) = none := hr
    have hb' : (s.unstarted c.R (c.nodeRef s f)).1 = some (R, n) := hb
    rw [relhBody, hr']
    simp only [hb', below]
  case noPost =>
    refine Does.of_def execPost (fun _ _ => rfl) execPost_eq fun f c s hs hh ⟨hr, hb⟩ => (whereSelected_of_ne hs).trans ?_
    have hr' : s.nodeAt c.dev c.ctx (c.nodeRef s f) = none := hr
    have hb' : (s.unstartedIn c.dev c.ctx (c.nodeRef s f)).1 = none := hb
    rw [postBody, hr']
    simp only [hb', (Ctx.todo_fresh hh f).2, later]
  case postUnread =>
    refine Does.of_def execPost (fun _ _ => rfl) execPost_eq fun f c s hs hh ⟨hr, hb⟩ => (whereSelected_of_ne hs).trans ?_
    have hr' : s.nodeAt c.dev c.ctx (c.nodeRef s f) = none := hr
    have hb' : (s.unstartedIn c.dev c.ctx (c.nodeRef s f)).1 = some (R, n) := hb
    rw [postBody, hr']
    simp only [hb', later]
  case named =>
    intro names
    refine ⟨?launch, ?bad, ?unheld, fun v x u => ?relh, ?post, ?kind, ?size⟩
    case launch =>
      refine Does.of_def execLaunch (fun _ _ => rfl) execLaunch_eq fun f c s hs hh ⟨⟨hr, hR, hN⟩, hk, hst, hn, hp⟩ => (whereSelected_of_ne hs).trans ?_
      refine (launchBody_node hr hR hN).trans (if_neg ?_)
      rintro (h | h | h | h)
      · exact Bool.false_ne_true (hk.symm.trans h)
      · exact h hst
      · exact h hn
      · exact hp h
    case bad =>
      refine Does.of_def execLaunch (fun _ _ => rfl) execLaunch_eq fun f c s hs hh ⟨⟨hr, hR, hN⟩, hb⟩ => (whereSelected_of_ne hs).trans ?_
      exact (launchBody_node hr hR hN).trans (if_pos hb)
    case unheld =>
      refine Does.of_def execRelh (fun _ _ => rfl) execRelh_eq fun f c s hs hh ⟨⟨hr, hR, hN⟩, hb⟩ => (whereSelected_of_ne hs).trans ?_
      exact (relhBody_node hr hR hN).trans (if_pos hb)
    case relh =>
      refine Does.of_def execRelh (fun _ _ => rfl) execRelh_eq fun f c s hs hh ⟨⟨hr, hR, hN⟩, hk, hd, hst, hw, hx⟩ => (whereSelected_of_ne hs).trans ?_
      refine (relhBody_node hr hR hN).trans ((if_neg ?_).trans ?_)
      · rintro (h | h | h)
        · exact Bool.false_ne_true (hk.symm.trans h)
        · exact Bool.false_ne_true (h.symm.trans hd)
        · exact h hst
      · rw [State.relhNode_takes hw hx, State.region?_rid hR]
    case post =>
      refine DoesThreads.of_def execPost (fun _ _ => rfl) execPost_eq fun f c s hs hh ⟨hr, hN, hk, hz⟩ ws u hp => (whereSelected_of_ne hs).trans ?_
      refine (postBody_node hh hr hN).trans ((if_neg fun h => h hk).trans ((if_neg fun h => h hz).trans ?_))
      exact runThreads_fresh hh hp
    case kind =>
      refine Does.of_def execPost (fun _ _ => rfl) execPost_eq fun f c s hs hh ⟨hr, hN, hk⟩ => (whereSelected_of_ne hs).trans ?_
      exact (postBody_node hh hr hN).trans (if_pos hk)
    case size =>
      refine Does.of_def execPost (fun _ _ => rfl) execPost_eq fun f c s hs hh ⟨hr, hN, hk, hz⟩ => (whereSelected_of_ne hs).trans ?_
      exact (postBody_node hh hr hN).trans ((if_neg fun h => h hk).trans (if_pos hz))
  case slot => exact ⟨State.slotWord_value h, State.putSlot_bytes hwf x.pa⟩
  case countb =>
    exact DoesThreads.of_def execCountb (fun _ _ => rfl) (fun _ _ => rfl) fun _ _ _ hs hh _ ws u h => (selected_eq hs _ _).trans (runThreads_fresh hh h)
  case noScope =>
    intro i hi
    simp only [List.mem_cons, List.not_mem_nil, or_false] at hi
    rcases hi with rfl | rfl
    · exact Does.of_def execScore (fun _ _ => rfl) (fun _ _ => rfl) fun _ _ _ _ _ h => by simp only [h]
    · refine Does.of_def execTrnd (fun _ _ => rfl) execTrnd_eq fun _ _ _ _ _ h => ?_
      rw [trndBody, h]
  case score =>
    refine Does.of_def execScore (fun _ _ => rfl) (fun _ _ => rfl) fun f c s hs _ h => ?_
    simp only [h]
    exact selected_eq hs _ _
  case trnd =>
    refine Does.of_def execTrnd (fun _ _ => rfl) execTrnd_eq fun f c s hs hh h => (trndBody_in hs h).trans ?_
    rw [State.awaitRound, Ctx.heldAs_none hh]
    rfl
  case resumed =>
    have hexec := (exec_resumes execTrnd (fun _ _ => rfl) execTrnd_eq hr).trans (congrArg _ ((trndBody_in hs hT).trans (by rw [if_pos hh])))
    refine ⟨fun hq => hexec.trans (congrArg _ (if_pos ?_)), fun hq => hexec.trans (congrArg _ (if_neg ?_))⟩
    · rw [hh, decide_eq_true hq]
      rfl
    · rw [hh, decide_eq_false (Nat.not_lt.mpr hq)]
      exact Bool.false_ne_true

end Sys2Proof.Machine
end

section
/-! PROOFS. What each message of the fabric does at its receiver (R263 to R268, R311, R314, R315, R323 to R327, R349). -/

namespace Sys2Proof.Machine

/-! ## Lines changed -/

theorem State.line_modLine (s : State) (a : Nat) (f : Line → Line) (hf : ∀ L, (f L).addr = L.addr) : (s.modLine a f).line a = f (s.line a) := by
  have hkeep : ∀ x : Line, (x.addr == a) = true → ((f x).addr == a) = true := fun x hx => by rwa [hf]
  exact congrArg (fun o => o.getD { addr := a })
    (find?_upsert (fun x : Line => x.addr == a) { addr := a } f (hkeep _ (beq_self_eq_true a)) hkeep s.lines)

theorem State.line_modLine_other (s : State) {a b : Nat} (hb : b ≠ a) (f : Line → Line) (hf : ∀ L, (f L).addr = L.addr) :
    (s.modLine a f).line b = s.line b := by
  have hne : ∀ x : Line, (x.addr == a) = true → (x.addr == b) = false := fun x hx => beq_false_of_ne fun he => hb (he.symm.trans (beq_iff_eq.mp hx))
  exact congrArg (fun o => o.getD { addr := b })
    (find?_upsert_other (fun x : Line => x.addr == a) (fun x => x.addr == b) { addr := a } f (by rw [hf]; exact beq_false_of_ne hb.symm)
      (fun x hx => by rw [hf]; exact hne x hx) hne s.lines)

theorem State.own_line (s : State) (m : Msg) :
    ((s.own m).line m.line).st = .m ∧ ((s.own m).line m.line).owner = some m.holder ∧ ((s.own m).line m.line).sharers = [] := by
  rw [State.own, State.line_modLine _ _ (fun L => { L with st := .m, owner := some m.holder, sharers := [] }) fun _ => rfl]
  exact ⟨rfl, rfl, rfl⟩

/-! ## Requests -/

section
variable (s : State) (m : Msg)

/-- The request of a message marked as applied. -/
def State.markApplied : State := { s with reqs := modIf (fun r => sameMsg r.msg m) (fun r => { r with applied := true }) s.reqs }

/-- The request that a message belongs to. -/
def State.reqOf : Option Req := s.reqs.find? fun r => sameMsg r.msg m

/-- What a read of the line at the home does before a store is applied. -/
def State.beforeStore : State := if m.conts.any contReads then s.forceRed m.src m.core m.line else s

/-- The request has come to its end meanwhile. -/
def State.overtaken : Bool :=
  (((s.beforeStore m).done.any fun x => sameMsg x.1 m) || (s.reqOf m).isSome && !(s.beforeStore m).reqs.any fun r => sameMsg r.msg m)

/-- The issuer of a message has the right to the line. -/
def State.HasRight : Prop := m.src = m.dst ∨ s.remoteAllowed m.ctx m.line = true

/-- The state once a store or deposit has been applied. -/
def State.storeApplied : State :=
  let s1 := ((s.beforeStore m).applyEntry m.src m.core m.line m.conts (((s.reqOf m).map fun r => r.users).getD [])
    (((s.reqOf m).map fun r => r.recs).getD [])).markApplied m
  { s1 with done := s1.done ++ [(m, [])] }

theorem reqOf_isSome : (s.reqOf m).isSome = s.reqs.any fun r => sameMsg r.msg m := List.isSome_find?

theorem hasRight_iff : (m.src != m.dst && !s.remoteAllowed m.ctx m.line) = true ↔ ¬s.HasRight m := by
  simp [State.HasRight]

variable {s m}

theorem State.homeStore_seen (h : (s.done.any fun x => sameMsg x.1 m) = true) : s.homeStore m = (.done, s) := if_pos h

theorem State.homeStore_waits (h : (s.done.any fun x => sameMsg x.1 m) = false) (he : s.earlierReq m = true) : s.homeStore m = (.wait, s) :=
  (if_neg (Bool.eq_false_iff.mp h)).trans (if_pos he)

theorem State.homeStore_denied (h : (s.done.any fun x => sameMsg x.1 m) = false) (he : s.earlierReq m = false) (hr : ¬s.HasRight m) :
    s.homeStore m = (.denied, s.markApplied m) :=
  (if_neg (Bool.eq_false_iff.mp h)).trans ((if_neg (Bool.eq_false_iff.mp he)).trans (if_pos ((hasRight_iff s m).mpr hr)))

theorem State.homeStore_right (h : (s.done.any fun x => sameMsg x.1 m) = false) (he : s.earlierReq m = false) (hr : s.HasRight m) :
    s.homeStore m = (.done, if s.overtaken m then s.beforeStore m else s.storeApplied m) := by
  refine (if_neg (Bool.eq_false_iff.mp h)).trans ((if_neg (Bool.eq_false_iff.mp he)).trans ((if_neg fun hn => (hasRight_iff s m).mp hn hr).trans ?_))
  have ho : s.overtaken m = (((s.beforeStore m).done.any fun x => sameMsg x.1 m) ||
      (s.reqs.any fun r => sameMsg r.msg m) && !(s.beforeStore m).reqs.any fun r => sameMsg r.msg m) := by
    rw [State.overtaken, reqOf_isSome]
  rw [ho, apply_ite (Prod.mk Applied.done)]
  unfold State.storeApplied State.reqOf
  cases hq : s.reqs.find? fun r => sameMsg r.msg m <;> rfl

end

/-- What follows a home's handling of a store or deposit. -/
def State.answerStore (s : State) (m : Msg) (i : Instr) : Applied × State → State
  | (.wait, s1) => s1.later (s.clk + 1) i
  | (.denied, s1) => s1.failReq m .memoryAccess 15
  | (.done, s1) => s1.later s.clk (.storeAck m)

/-- The two messages that ask a home to take contributions. -/
theorem exec_arrives {i : Msg → Instr} (hi : i ∈ [Instr.store, .accrueDeposit]) (s : State) (m : Msg) :
    exec (i m) s = .next (if s.cut m then s.giveUp m 3 else s.answerStore m (i m) (s.homeStore m)) := by
  simp only [List.mem_cons, List.not_mem_nil, or_false] at hi
  rcases hi with rfl | rfl <;> rfl

theorem State.cut_eq {s : State} {m : Msg} {b : Bool} (h : s.reaches m.src m.dst = b) : s.cut m = !b := congrArg not h

/-- A message that a route carries. -/
theorem exec_arrives_routed {i : Msg → Instr} (hi : i ∈ [Instr.store, .accrueDeposit]) {s : State} {m : Msg} (h : s.reaches m.src m.dst = true)
    {r : Applied × State} (hr : s.homeStore m = r) : exec (i m) s = .next (s.answerStore m (i m) r) := by
  rw [exec_arrives hi, State.cut_eq h, hr]
  rfl

/-- An entry that loses no partial and covers no whole line. -/
theorem State.applyEntry_plain {s : State} {d c a : Nat} {conts : List Contrib} {us : List QUser} {recs : List RelRec}
    (hl : s.losers d c a (conts.zip us) = []) (hc : coversLine (conts.zip us) = false) :
    s.applyEntry d c a conts us recs = ((s.applyConts d c a conts).uncache a).putRecs a recs := by
  simp only [State.applyEntry, hl, hc, Bool.false_eq_true, if_false]
  rfl

/-! ## Copies of lines -/

section
variable {s : State} {m : Msg}

theorem State.answer_seen (h : (s.done.any fun x => sameMsg x.1 m) = true) : s.answer m = s.later s.clk (.data m) := by
  rw [State.answer, if_pos h]

/-- A message that waits for its answer, or for its turn. -/
theorem exec_asks {i : Msg → Instr} (hi : i ∈ [Instr.atomic, .readShared, .readOwn, .upgrade]) :
    ((s.done.any fun x => sameMsg x.1 m) = true → exec (i m) s = .next (s.later s.clk (.data m))) ∧
    ((s.done.any fun x => sameMsg x.1 m) = false → s.earlierReq m = true → exec (i m) s = .next (s.later (s.clk + 1) (i m))) := by
  simp only [List.mem_cons, List.not_mem_nil, or_false] at hi
  rcases hi with rfl | rfl | rfl | rfl
  · exact ⟨fun h => congrArg Host.Outcome.next (if_pos h), fun h he => congrArg Host.Outcome.next ((if_neg (Bool.eq_false_iff.mp h)).trans (if_pos he))⟩
  all_goals
    exact ⟨fun h => congrArg Host.Outcome.next ((if_pos h).trans (State.answer_seen h)),
      fun h he => congrArg Host.Outcome.next ((if_neg (Bool.eq_false_iff.mp h)).trans (if_pos he))⟩

/-- The first arrival of a message whose turn has come. -/
theorem ite_fresh {α : Type} (h : (s.done.any fun x => sameMsg x.1 m) = false ∧ s.earlierReq m = false) (a b c : α) :
    (if s.done.any fun x => sameMsg x.1 m then a else if s.earlierReq m then b else c) = c :=
  (if_neg (Bool.eq_false_iff.mp h.1)).trans (if_neg (Bool.eq_false_iff.mp h.2))

/-- What the home's line keeps of a holder that has no copy any more. -/
def Line.without (m : Msg) (L : Line) : Line :=
  let L1 := { L with sharers := L.sharers.filter (· != m.pos) }
  if L1.owner.isNone && L1.sharers.isEmpty && L1.st == .s then { L1 with st := .i } else L1

theorem Line.without_sharers (m : Msg) (L : Line) : (L.without m).sharers = L.sharers.filter (· != m.pos) := by
  unfold Line.without
  dsimp only
  split <;> rfl

theorem Line.without_addr (m : Msg) (L : Line) : (L.without m).addr = L.addr := by
  unfold Line.without
  dsimp only
  split <;> rfl

/-- A line whose owner has written it back. -/
def Line.writtenBack (m : Msg) (L : Line) : Line :=
  if L.owner == some m.holder then { L with owner := none, st := if L.st == .a then .a else if L.sharers.isEmpty then .i else .s } else L

theorem Line.writtenBack_owner (m : Msg) (L : Line) : (L.writtenBack m).owner ≠ some m.holder := by
  unfold Line.writtenBack
  split
  · exact fun h => nomatch h
  · rename_i h
    exact fun he => h (beq_iff_eq.mpr he)

theorem Line.writtenBack_addr (m : Msg) (L : Line) : (L.writtenBack m).addr = L.addr := by
  unfold Line.writtenBack
  split <;> rfl

/-- The epochs that a forced publish has not reached. -/
theorem exec_forcePublish_recs (s : State) (m : Msg) : ∃ t, exec (.forcePublish m) s = .next t ∧
    t.mem = (((s.publishAll m.dst m.core).drain m.dst).clearRecs m.dst).mem ∧
    ∀ L ∈ t.lines, ∀ r ∈ L.recs, r.dev = m.dst → r.core = m.core → 2 ^ 15 ≤ (m.epoch - r.epoch).toNat := by
  refine ⟨_, rfl, rfl, fun L hL r hr hd hc => ?_⟩
  obtain ⟨L0, -, rfl⟩ := List.mem_map.mp hL
  obtain ⟨-, hk⟩ := List.mem_filter.mp hr
  simp only [hd, hc, beq_self_eq_true, Bool.true_and, Bool.not_eq_true', decide_eq_false_iff_not, Nat.not_lt] at hk
  exact hk

/-- A line whose partials have all come back is merged. -/
theorem exec_mergeData_all (ha : (s.line m.line).st = .a) (hm : (s.line m.line).merging.isSome = true)
    (h : ∀ x ∈ (s.line m.line).holders, x.pos = m.pos ∨ x.pos ∈ (s.line m.line).replies) : exec (.mergeData m) s = .next (s.mergeLine m.line) := by
  refine congrArg Host.Outcome.next ((if_neg ?_).trans (if_pos ?_))
  · rw [ha, Option.isNone_eq_false_iff.mpr hm]
    exact Bool.false_ne_true
  · rw [List.all_eq_true]
    intro x hx
    rw [List.contains_iff_mem]
    split
    · rename_i hc
      exact (h x hx).elim (fun he => he ▸ List.contains_iff_mem.mp hc) id
    · exact List.mem_append.mpr ((h x hx).symm.imp_right List.mem_singleton.mpr)

end

/-- Settles O58: a store or deposit by the home's handling of it, an atomic and a request for a copy by whether it has been answered and whose turn it is, and
the other messages by the line that they name. -/
theorem messageEvents : Obligations.MessageEvents := by
  intro s m
  dsimp only
  refine ⟨fun i hi => ?stores, fun reason h => if_neg (Bool.eq_false_iff.mp h), fun reason h => if_pos h, State.applyEntry_plain, ?denied, ?atomic,
    fun i hi => exec_asks hi, ?copies, fun t => State.own_line t m, rfl, rfl, rfl, ?invAck, ?writeback, exec_forcePublish_recs s m, ?notReady, ?evict, ?idle, ?merge,
    exec_mergeData_all⟩
  case stores =>
    refine ⟨fun h => ?_, fun h hs => exec_arrives_routed hi h (State.homeStore_seen hs), fun h hs he => exec_arrives_routed hi h (State.homeStore_waits hs he),
      fun h hf hr => exec_arrives_routed hi h (State.homeStore_denied hf.1 hf.2 hr), fun h hf hr hg => ?_, fun h hf hr hg => ?_⟩
    · rw [exec_arrives hi, State.cut_eq h]
      rfl
    · refine (exec_arrives_routed hi h (State.homeStore_right hf.1 hf.2 hr)).trans ?_
      rw [if_pos (show s.overtaken m = true from hg)]
      rfl
    · refine (exec_arrives_routed hi h (State.homeStore_right hf.1 hf.2 hr)).trans ?_
      rw [if_neg (Bool.eq_false_iff.mp (show s.overtaken m = false from hg))]
      rfl
  case denied =>
    exact fun hf hr => congrArg Host.Outcome.next ((ite_fresh hf _ _ _).trans (if_pos ((hasRight_iff s m).mpr hr)))
  case atomic =>
    exact fun hf hr => congrArg Host.Outcome.next ((ite_fresh hf _ _ _).trans (if_neg fun hn => (hasRight_iff s m).mp hn hr))
  case copies =>
    refine fun hf => ⟨congrArg Host.Outcome.next (ite_fresh hf _ _ _), congrArg Host.Outcome.next (ite_fresh hf _ _ _),
      congrArg Host.Outcome.next ((ite_fresh hf _ _ _).trans ?_)⟩
    rw [apply_ite (fun t : State => t.answer m)]
    rfl
  case invAck =>
    refine ⟨_, rfl, ?_, rfl, fun a ha => State.line_modLine_other s ha (Line.without m) (Line.without_addr m)⟩
    change m.pos ∉ ((s.modLine m.line (Line.without m)).line m.line).sharers
    rw [State.line_modLine s m.line (Line.without m) (Line.without_addr m), Line.without_sharers]
    simp
  case writeback =>
    refine fun hr => ⟨_, congrArg Host.Outcome.next (if_neg fun hn => (hasRight_iff s m).mp hn hr), ?_, rfl⟩
    change (((s.applyConts m.src m.core m.line m.conts).modLine m.line (Line.writtenBack m)).line m.line).owner ≠ some m.holder
    rw [State.line_modLine _ m.line (Line.writtenBack m) (Line.writtenBack_addr m)]
    exact Line.writtenBack_owner m _
  case notReady =>
    intro c hc
    refine congrArg Host.Outcome.next ?_
    simp only [hc]
  case evict => exact fun ha => congrArg Host.Outcome.next (if_neg (by rw [ha]; exact Bool.false_ne_true))
  case idle =>
    exact fun ha => ⟨congrArg Host.Outcome.next (if_pos (bne_iff_ne.mpr ha)), congrArg Host.Outcome.next (if_pos (bne_iff_ne.mpr ha)),
      congrArg Host.Outcome.next (if_pos (by rw [bne_iff_ne.mpr ha]; rfl))⟩
  case merge => exact fun ha => congrArg Host.Outcome.next (if_neg (by rw [ha]; exact Bool.false_ne_true))

end Sys2Proof.Machine
end

section
/-! PROOFS. Links: requests resent, flits, replays, retraining (R259, R261, R262, R264, R265, R435). -/

namespace Sys2Proof.Machine

/-! ## Devices and links changed -/

section
variable {s : State} {a b d n : Nat}

theorem mem_modIf_of_mem {α : Type} {p : α → Bool} {f : α → α} {xs : List α} {x : α} (hx : x ∈ xs) (hp : p x = true) : f x ∈ modIf p f xs := by
  induction xs with
  | nil => cases hx
  | cons y ys ih =>
    rw [modIf]
    rcases List.mem_cons.mp hx with rfl | hx
    · rw [if_pos hp]
      exact List.mem_cons_self
    · exact List.mem_cons_of_mem _ (ih hx)

theorem State.find_dev (h : s.hasDev d = true) : ∃ D, s.devs.find? (fun x => x.id == d) = some D := by
  rw [State.hasDev, ← List.isSome_find?] at h
  exact Option.isSome_iff_exists.mp h

theorem State.dev_modDev (h : s.hasDev d = true) (f : Device → Device) (hf : ∀ D, (f D).id = D.id) : (s.modDev d f).dev d = f (s.dev d) := by
  obtain ⟨D, hD⟩ := State.find_dev h
  have hm := find?_modIf (fun x : Device => x.id == d) f (fun x hx => by rwa [hf]) s.devs
  rw [State.dev, State.dev, State.modDev, hm, hD]
  rfl

theorem State.dev_modDev_other (h : d ≠ a) (f : Device → Device) (hf : ∀ D, (f D).id = D.id) : (s.modDev a f).dev d = s.dev d := by
  have hne : ∀ x : Device, (x.id == a) = true → (x.id == d) = false := fun x hx => beq_false_of_ne fun he => h (he.symm.trans (beq_iff_eq.mp hx))
  have hm := find?_modIf_other (fun x : Device => x.id == a) (fun x => x.id == d) f (fun x hx => by rw [hf]; exact hne x hx) hne s.devs
  rw [State.dev, State.dev, State.modDev, hm]

theorem State.hasDev_modDev (f : Device → Device) (hf : ∀ D, (f D).id = D.id) : (s.modDev a f).hasDev d = s.hasDev d := by
  rw [State.hasDev, State.hasDev, State.modDev]
  induction s.devs with
  | nil => rfl
  | cons x xs ih =>
    rw [modIf, List.any_cons, List.any_cons, ih]
    split
    · rw [hf]
    · rfl

/-- The links of a device with one of them changed. -/
def Device.modLink (D : Device) (n : Nat) (f : Link → Link) : Device := { D with links := upsert (fun l => l.n == n) { n } f D.links }

theorem Device.find_modLink (D : Device) (f : Link → Link) (hf : ∀ l, (f l).n = l.n) :
    ((D.modLink n f).links.find? fun l => l.n == n).getD { n } = f ((D.links.find? fun l => l.n == n).getD { n }) := by
  have hkeep : ∀ x : Link, (x.n == n) = true → ((f x).n == n) = true := fun x hx => by rwa [hf]
  exact congrArg (fun o => o.getD { n }) (find?_upsert (fun x : Link => x.n == n) { n } f (hkeep _ (beq_self_eq_true n)) hkeep D.links)

theorem Device.find_modLink_other (D : Device) (h : n ≠ b) (f : Link → Link) (hf : ∀ l, (f l).n = l.n) :
    (D.modLink b f).links.find? (fun l => l.n == n) = D.links.find? fun l => l.n == n := by
  have hne : ∀ x : Link, (x.n == b) = true → (x.n == n) = false := fun x hx => beq_false_of_ne fun he => h (he.symm.trans (beq_iff_eq.mp hx))
  exact find?_upsert_other (fun x : Link => x.n == b) (fun x => x.n == n) { n := b } f (by rw [hf]; exact beq_false_of_ne h.symm)
    (fun x hx => by rw [hf]; exact hne x hx) hne D.links

theorem State.modLink_eq (s : State) (a b : Nat) (f : Link → Link) : s.modLink a b f = s.modDev a fun D => D.modLink b f := rfl

theorem State.link_modLink (h : s.hasDev d = true) (f : Link → Link) (hf : ∀ l, (f l).n = l.n) : (s.modLink d n f).link d n = f (s.link d n) := by
  rw [State.link, State.link, State.modLink_eq, State.dev_modDev h (fun D => D.modLink n f) fun _ => rfl]
  exact Device.find_modLink _ f hf

/-- A link, after any link has been changed, is as it was or has been changed so. -/
theorem State.link_modLink_or (h : s.hasDev d = true) (f : Link → Link) (hf : ∀ l, (f l).n = l.n) :
    (s.modLink a b f).link d n = s.link d n ∨ (s.modLink a b f).link d n = f (s.link d n) := by
  by_cases ha : d = a
  · subst ha
    by_cases hb : n = b
    · subst hb
      exact .inr (State.link_modLink h f hf)
    · refine .inl ?_
      rw [State.link, State.link, State.modLink_eq, State.dev_modDev h (fun D => D.modLink b f) fun _ => rfl, Device.find_modLink_other _ hb f hf]
  · refine .inl ?_
    rw [State.link, State.link, State.modLink_eq, State.dev_modDev_other ha (fun D => D.modLink b f) fun _ => rfl]

theorem State.hasDev_modLink (f : Link → Link) : (s.modLink a b f).hasDev d = s.hasDev d := State.hasDev_modDev (fun D => D.modLink b f) fun _ => rfl

theorem State.link_congr {t : State} (h : t.devs = s.devs) (d n : Nat) : t.link d n = s.link d n := by
  unfold State.link State.dev
  rw [h]

theorem State.hasDev_congr {t : State} (h : t.devs = s.devs) (d : Nat) : t.hasDev d = s.hasDev d := by
  unfold State.hasDev
  rw [h]

end

/-! ## Requests resent leave the devices as they are -/

section
variable (s : State)

theorem State.castEnd_devs (n : Nat) : (s.castEnd n).devs = s.devs := by
  unfold State.castEnd
  split
  · rfl
  · dsimp only
    split
    · rfl
    · split <;> simp

theorem State.lowerSt_devs (us : List QUser) : (s.lowerSt us).devs = s.devs := by
  induction us generalizing s with
  | nil => rfl
  | cons u us ih =>
    unfold State.lowerSt
    split
    · rw [ih, State.castEnd_devs]
    · split
      · exact ih s
      · rw [ih, State.modWeft_devs]

theorem State.failUsers_devs (cls : TrapClass) (reason : Nat) (all us : List QUser) : (s.failUsers cls reason all us).devs = s.devs := by
  induction us generalizing s with
  | nil => rfl
  | cons u us ih =>
    unfold State.failUsers
    rw [ih]
    split
    · rfl
    · split <;> rfl

theorem State.endReq_devs (m : Msg) : (s.endReq m).devs = s.devs := State.lowerSt_devs _ _

theorem State.failReq_devs (m : Msg) (cls : TrapClass) (reason : Nat) : (s.failReq m cls reason).devs = s.devs := by
  unfold State.failReq
  rw [State.endReq_devs, State.failUsers_devs]

theorem State.giveUp_devs (m : Msg) (reason : Nat) : (s.giveUp m reason).devs = s.devs := by
  unfold State.giveUp
  split
  · exact s.endReq_devs m
  · exact s.failReq_devs m _ _

theorem State.nacked_devs (m : Msg) : (s.nacked m).devs = s.devs := by
  unfold State.nacked
  split
  · rfl
  · split
    · exact s.giveUp_devs _ _
    · rfl

/-- Steps put on the agenda one after another. -/
theorem State.laterAll_devs {α : Type} (xs : List α) (g : α → Instr) : (xs.foldl (fun s x => State.later s s.clk (g x)) s).devs = s.devs := by
  induction xs generalizing s with
  | nil => rfl
  | cons x xs ih => exact ih _

theorem State.rerouted_devs (d n : Nat) : (s.rerouted d n).devs = s.devs := by
  unfold State.rerouted
  dsimp only
  split
  · rfl
  · exact State.laterAll_devs _ _ fun r : Req => requestOf r.msg

end

/-! ## Flits -/

section
variable {s : State} {d n : Nat}

theorem State.keepFlit_link (h : s.hasDev d = true) (a b : Nat) (flit : List Byte) :
    ∃ rep, (s.keepFlit a b flit).link d n = { s.link d n with replay := rep } := by
  unfold State.keepFlit
  split
  · exact ⟨_, rfl⟩
  · rename_i x y hp
    rcases State.link_modLink_or (a := x) (b := y) (n := n) h
      (fun l => if l.replay.any fun x => flitSeq x == flitSeq flit then l else { l with replay := l.replay ++ [flit] }) (fun l => by split <;> rfl) with he | he
    · exact ⟨_, he⟩
    · refine (Classical.em ((s.link d n).replay.any (fun x => flitSeq x == flitSeq flit) = true)).elim (fun hc => ⟨_, he.trans (if_pos hc)⟩) fun hc => ⟨_, he.trans (if_neg hc)⟩

theorem State.keepFlit_hasDev (a b : Nat) (flit : List Byte) : (s.keepFlit a b flit).hasDev d = s.hasDev d := by
  unfold State.keepFlit
  split
  · rfl
  · exact State.hasDev_modLink _

theorem State.keepFlit_clk (a b : Nat) (flit : List Byte) : (s.keepFlit a b flit).clk = s.clk := by
  unfold State.keepFlit
  split <;> rfl

theorem State.keepFlit_reqs (a b : Nat) (flit : List Byte) : (s.keepFlit a b flit).reqs = s.reqs := by
  unfold State.keepFlit
  split <;> rfl

/-- A link with the payload that it has taken so far. -/
def Link.taking (rx : List Byte) (l : Link) : Link := { l with rx := rx }

theorem State.takeFlit_link (h : s.hasDev d = true) (flit : List Byte) : ∃ rx, (s.takeFlit d n flit).link d n = { s.link d n with rx := rx } := by
  unfold State.takeFlit
  dsimp only
  split
  · exact ⟨_, State.link_modLink h (Link.taking _) fun _ => rfl⟩
  · split
    · exact ⟨_, (State.link_congr (State.nacked_devs _ _) d n).trans (State.link_modLink h (Link.taking []) fun _ => rfl)⟩
    · exact ⟨_, State.link_modLink h (Link.taking []) fun _ => rfl⟩

theorem State.takeFlit_hasDev (flit : List Byte) : (s.takeFlit d n flit).hasDev d = s.hasDev d := by
  unfold State.takeFlit
  dsimp only
  split
  · exact State.hasDev_modLink _
  · split
    · exact (State.hasDev_congr (State.nacked_devs _ _) d).trans (State.hasDev_modLink _)
    · exact State.hasDev_modLink _

/-- A whole message whose tag does not check is discarded, and its request is told. -/
theorem State.takeFlit_bad {bs flit : List Byte} (hb : bs = (s.link d n).rx ++ flit.take 248) (hl : 248 * (headerOf bs).nflit ≤ bs.length)
    (hd : (headerOf bs).dst = d) (ht : tagOk bs = false) :
    s.takeFlit d n flit = (s.modLink d n (Link.taking [])).nacked
      { src := (headerOf bs).src, die := (headerOf bs).die, dst := (headerOf bs).dst, mseq := (headerOf bs).mseq, line := (headerOf bs).line } := by
  subst hb
  exact (if_neg (Nat.not_lt.mpr hl)).trans (if_pos (by rw [ht, beq_iff_eq.mpr hd]; rfl))

/-- A link that has taken a flit. -/
def Link.accepted (ack : BitVec 16) (l : Link) : Link := { l.acked ack with lrx := l.lrx + 1 }

/-- The acknowledgement that a flit carries. -/
def flitAck (flit : List Byte) : BitVec 16 := BitVec.ofNat 16 (leNat ((flit.drop 250).take 2))

theorem exec_flitReceive (s : State) (d n : Nat) (flit : List Byte) : exec (.flitReceive d n flit) s = .next (
    if !flitOk flit then (s.keepFlit d n (s.sentFlit d n)).askReplay d n ((s.link d n).lrx + 1)
    else if flitSeq flit == (s.link d n).lrx + 1 then ((s.keepFlit d n flit).takeFlit d n flit).modLink d n (Link.accepted (flitAck flit))
    else s.keepFlit d n flit) := rfl

theorem flitOk_iff (flit : List Byte) : flitOk flit = true ↔ flit.length = 256 ∧ crc32 (flit.take 252) = BitVec.ofNat 32 (leNat (flit.drop 252)) := by
  rw [flitOk, Bool.and_eq_true, beq_iff_eq, beq_iff_eq]

/-- A flit that is taken: the state it is taken in, and the link afterwards. -/
theorem State.link_accepted (h : s.hasDev d = true) (flit : List Byte) :
    (((s.keepFlit d n flit).takeFlit d n flit).modLink d n (Link.accepted (flitAck flit))).link d n =
      (((s.keepFlit d n flit).takeFlit d n flit).link d n).accepted (flitAck flit) :=
  State.link_modLink (State.takeFlit_hasDev flit |>.trans (State.keepFlit_hasDev d n flit |>.trans h)) (Link.accepted _) fun _ => rfl

theorem State.link_askReplay (a b : Nat) (x : BitVec 16) : (s.askReplay a b x).link d n = s.link d n := by
  unfold State.askReplay
  split <;> rfl

/-- The number of the last flit that a link has taken. -/
theorem exec_flitReceive_lrx (h : s.hasDev d = true) (flit : List Byte) : ∃ t, exec (.flitReceive d n flit) s = .next t ∧
    (t.link d n).lrx = if flit.length = 256 ∧ crc32 (flit.take 252) = BitVec.ofNat 32 (leNat (flit.drop 252)) ∧ flitSeq flit = (s.link d n).lrx + 1
      then (s.link d n).lrx + 1 else (s.link d n).lrx := by
  refine ⟨_, exec_flitReceive s d n flit, ?_⟩
  have hc : (flit.length = 256 ∧ crc32 (flit.take 252) = BitVec.ofNat 32 (leNat (flit.drop 252)) ∧ flitSeq flit = (s.link d n).lrx + 1) ↔
      flitOk flit = true ∧ flitSeq flit = (s.link d n).lrx + 1 := by rw [flitOk_iff, and_assoc]
  obtain ⟨rep, hk⟩ := State.keepFlit_link (n := n) h d n flit
  by_cases hf : flitOk flit = true
  · rw [if_neg (by rw [hf]; exact Bool.false_ne_true)]
    by_cases hn : flitSeq flit = (s.link d n).lrx + 1
    · obtain ⟨rx, ht⟩ := State.takeFlit_link (n := n) ((State.keepFlit_hasDev d n flit).trans h) flit
      rw [if_pos (beq_iff_eq.mpr hn), if_pos (hc.mpr ⟨hf, hn⟩), State.link_accepted h, ht, hk]
      rfl
    · rw [if_neg fun he => hn (beq_iff_eq.mp he), if_neg fun he => hn (hc.mp he).2, hk]
  · obtain ⟨rep, hk⟩ := State.keepFlit_link (n := n) h d n (s.sentFlit d n)
    rw [if_pos (by rw [Bool.eq_false_iff.mpr hf]; rfl), if_neg fun he => hf (hc.mp he).1, State.link_askReplay, hk]

/-- A request whose message is discarded counts one more bad copy. -/
theorem State.nacked_bad {m : Msg} {r : Req} (hr : s.reqs.find? (fun r => sameMsg r.msg m) = some r) (hb : r.bad < 7) :
    ∃ q ∈ (s.nacked m).reqs, sameMsg q.msg r.msg = true ∧ q.bad = r.bad + 1 ∧ q.tries = r.tries := by
  unfold State.nacked
  simp only [hr, if_neg (Nat.not_le.mpr hb)]
  have hself : sameMsg r.msg r.msg = true := by simp [sameMsg]
  refine ⟨_, mem_modIf_of_mem (p := fun x : Req => sameMsg x.msg r.msg) (List.mem_of_find?_eq_some hr) hself, hself, rfl, rfl⟩

/-- The flits that a replay sends again. -/
theorem State.laterAll_agenda {α : Type} (xs : List α) (t : State) (g : α → Instr) :
    (xs.foldl (fun s x => State.later s s.clk (g x)) t).agenda = t.agenda ++ xs.map fun x => (t.clk, g x) := by
  induction xs generalizing t with
  | nil => exact (List.append_nil _).symm
  | cons x xs ih => exact (ih _).trans (List.append_assoc ..)

/-- A discarded message's flit: the link drops what it has taken, and the request counts one more bad copy. -/
theorem exec_flitReceive_bad (h : s.hasDev d = true) {flit bs : List Byte} (hb : bs = (s.link d n).rx ++ flit.take 248) (hf : flitOk flit = true)
    (hq : flitSeq flit = (s.link d n).lrx + 1) (hl : 248 * (headerOf bs).nflit ≤ bs.length) (hd : (headerOf bs).dst = d) (ht : tagOk bs = false) :
    ∃ t, exec (.flitReceive d n flit) s = .next t ∧ (t.link d n).rx = [] ∧
      ∀ r, s.reqs.find? (fun r => r.msg.src == (headerOf bs).src && r.msg.die == (headerOf bs).die && r.msg.dst == (headerOf bs).dst && r.msg.mseq == (headerOf bs).mseq)
        = some r → r.bad < 7 → ∃ q ∈ t.reqs, sameMsg q.msg r.msg = true ∧ q.bad = r.bad + 1 ∧ q.tries = r.tries := by
  obtain ⟨rep, hk⟩ := State.keepFlit_link (n := n) h d n flit
  have hb' : bs = ((s.keepFlit d n flit).link d n).rx ++ flit.take 248 := by rw [hk]; exact hb
  have hdev : (s.keepFlit d n flit).hasDev d = true := (State.keepFlit_hasDev d n flit).trans h
  refine ⟨_, (exec_flitReceive s d n flit).trans (congrArg _ ((if_neg (by rw [hf]; exact Bool.false_ne_true)).trans (if_pos (beq_iff_eq.mpr hq)))), ?_, fun r hr hbad => ?_⟩
  · rw [State.link_accepted h, State.takeFlit_bad hb' hl hd ht, State.link_congr (State.nacked_devs _ _), State.link_modLink hdev (Link.taking []) fun _ => rfl]
    rfl
  · rw [State.takeFlit_bad hb' hl hd ht]
    exact State.nacked_bad (s := (s.keepFlit d n flit).modLink d n (Link.taking [])) ((congrArg _ (State.keepFlit_reqs d n flit)).trans hr) hbad

/-- A link that has been asked for a replay. -/
def Link.asked (ack : BitVec 16) (l : Link) : Link := { l.acked ack with tries := l.tries + 1 }

/-- The flits that have not arrived are sent again. -/
theorem exec_flitReplayRequest_replays (h : s.hasDev d = true) (lseq : BitVec 16) : ∃ t, exec (.flitReplayRequest d n lseq) s = .next t ∧
    (t.link d n).lack = lseq - 1 ∧ (t.link d n).tries = (s.link d n).tries + 1 ∧
    (∀ x, x ∈ (t.link d n).replay ↔ x ∈ (s.link d n).replay ∧ 2 ^ 15 ≤ (lseq - 1 - flitSeq x).toNat) ∧
    ∀ x y, linkPeer d n = some (x, y) → t.agenda = s.agenda ++ (t.link d n).replay.map fun b => (s.clk, Instr.flitReceive x y b) := by
  have hl : (s.modLink d n (Link.asked (lseq - 1))).link d n = (s.link d n).asked (lseq - 1) := State.link_modLink h _ fun _ => rfl
  have hkeep : ∀ x, x ∈ ((s.link d n).asked (lseq - 1)).replay ↔ x ∈ (s.link d n).replay ∧ 2 ^ 15 ≤ (lseq - 1 - flitSeq x).toNat := by
    intro x
    exact List.mem_filter.trans (and_congr_right' decide_eq_true_iff)
  cases hp : linkPeer d n with
  | none =>
    refine ⟨s.modLink d n (Link.asked (lseq - 1)), congrArg Host.Outcome.next ?_, ?_⟩
    · rw [hp]
      rfl
    · rw [hl]
      exact ⟨rfl, rfl, hkeep, fun x y hx => nomatch hx⟩
  | some e =>
    obtain ⟨a, b⟩ := e
    have ht := State.link_congr (State.laterAll_devs (s.modLink d n (Link.asked (lseq - 1))) ((s.modLink d n (Link.asked (lseq - 1))).link d n).replay
      fun x => Instr.flitReceive a b x) d n
    refine ⟨((s.modLink d n (Link.asked (lseq - 1))).link d n).replay.foldl (fun s x => State.later s s.clk (.flitReceive a b x)) (s.modLink d n (Link.asked (lseq - 1))),
      congrArg Host.Outcome.next (by rw [hp]; rfl), ?_⟩
    rw [ht, hl]
    refine ⟨rfl, rfl, hkeep, fun x y hx => ?_⟩
    cases hx
    exact State.laterAll_agenda _ _ _

/-! ## Retraining -/

/-- What a link does that loses a lane: it is held for the host, or narrows. -/
def Link.failing (held : Bool) (clk : Nat) (l : Link) : Link := if held then { l with waits := true } else l.narrower clk

theorem Link.narrower_n (clk : Nat) (l : Link) : (l.narrower clk).n = l.n := by
  unfold Link.narrower
  split <;> rfl

theorem Link.failing_n (held : Bool) (clk : Nat) (l : Link) : (l.failing held clk).n = l.n := by
  unfold Link.failing
  split
  · rfl
  · exact Link.narrower_n clk l

theorem State.link_rerouted (h : s.hasDev d = true) (f : Link → Link) (hf : ∀ l, (f l).n = l.n) :
    ((s.modLink d n f).rerouted d n).link d n = f (s.link d n) :=
  (State.link_congr (State.rerouted_devs _ _ _) d n).trans (State.link_modLink h f hf)

/-- What the host's command makes of a link. -/
def Link.commanded (down : Bool) (clk : Nat) (l : Link) : Link :=
  if down then { l with up := false, waits := false, retrain := none, replay := [], rx := [] } else l.narrower clk

theorem Link.commanded_n (down : Bool) (clk : Nat) (l : Link) : (l.commanded down clk).n = l.n := by
  unfold Link.commanded
  split
  · rfl
  · exact Link.narrower_n clk l

theorem State.linkCommand_eq (s : State) (d n : Nat) (down : Bool) :
    s.linkCommand d n down = if !(s.link d n).waits then s else (s.modLink d n (Link.commanded down s.clk)).rerouted d n := rfl

theorem exec_laneFailure_up (h : s.hasDev d = true) (hu : (s.link d n).up = true) : ∃ t, exec (.laneFailure d n) s = .next t ∧
    t.link d n = (s.link d n).failing (s.modeBit d 0 3) s.clk :=
  ⟨_, congrArg Host.Outcome.next (if_neg (by rw [hu]; exact Bool.false_ne_true)), State.link_rerouted h (Link.failing (s.modeBit d 0 3) s.clk) (Link.failing_n _ _)⟩

theorem State.linkCommand_waits (h : s.hasDev d = true) (hw : (s.link d n).waits = true) (down : Bool) :
    (s.linkCommand d n down).link d n = (s.link d n).commanded down s.clk := by
  rw [State.linkCommand_eq, if_neg (by rw [hw]; exact Bool.false_ne_true)]
  exact State.link_rerouted h _ (Link.commanded_n _ _)

theorem State.linkCommand_idle (hw : (s.link d n).waits = false) (down : Bool) : s.linkCommand d n down = s := by
  rw [State.linkCommand_eq, if_pos (by rw [hw]; rfl)]

/-- A link that comes up. -/
def Link.raised (l : Link) : Link := if l.up then l else { l with up := true, width := 0, retrain := none, waits := false }

theorem Link.raised_n (l : Link) : l.raised.n = l.n := by
  unfold Link.raised
  split <;> rfl

/-- A link that has retrained. -/
def Link.trained (l : Link) : Link := { l with retrain := none }

end

/-- Settles O59: each step by the request, flit or link that it finds, of which the other devices, links and requests are no part. -/
theorem linkEvents : Obligations.LinkEvents := by
  intro s d n die dst mseq h
  dsimp only
  refine ⟨?nack, ?timeout, fun flit => exec_flitReceive_lrx h flit, ?replay, fun flit hf hq hl hd ht => exec_flitReceive_bad h rfl hf hq hl hd ht,
    fun lseq => exec_flitReplayRequest_replays h lseq, ?down, ?lane, ?train, ?idle, ?waits, ?up⟩
  case nack =>
    intro r m hr
    refine congrArg Host.Outcome.next ?_
    simp only [State.nacked, hr]
  case timeout =>
    intro r hr
    refine congrArg Host.Outcome.next ?_
    have ho : (!s.overdue r) = true ↔ s.clk < r.at_ + 262144 * 2 ^ max r.width (s.widthOf r.route) := by
      rw [Bool.not_eq_true', State.overdue, decide_eq_false_iff_not, Nat.not_le, State.timeoutOf]
    simp only [hr, ho]
  case replay =>
    intro flit x y hf hp
    refine (exec_flitReceive s d n flit).trans (congrArg _ ((if_pos (by rw [hf]; rfl)).trans ?_))
    rw [State.askReplay, hp]
    exact congrArg (fun k => State.later _ k _) (State.keepFlit_clk d n _)
  case down => exact fun hu => congrArg Host.Outcome.next (if_pos (by rw [hu]; rfl))
  case lane =>
    intro hu
    obtain ⟨t, ht, hl⟩ := exec_laneFailure_up h hu
    refine ⟨t, ht, fun hm => ?_, fun hm hw => ?_, fun hm hw => ?_⟩
    · rw [hl, hm]
      exact ⟨rfl, rfl⟩
    · rw [hl, hm, Link.failing, if_neg Bool.false_ne_true, Link.narrower, if_neg (Nat.not_le.mpr hw)]
      exact ⟨rfl, rfl, hu⟩
    · rw [hl, hm, Link.failing, if_neg Bool.false_ne_true, Link.narrower, if_pos hw]
      exact ⟨rfl, rfl⟩
  case train => exact ⟨_, rfl, State.link_modLink h Link.trained fun _ => rfl⟩
  case idle => exact fun hw => ⟨congrArg _ (State.linkCommand_idle hw false), congrArg _ (State.linkCommand_idle hw true)⟩
  case waits =>
    refine fun hw => ⟨_, _, rfl, (State.linkCommand_waits h hw false).trans rfl, rfl, ?_⟩
    rw [State.linkCommand_waits h hw true]
    exact ⟨rfl, rfl⟩
  case up =>
    refine ⟨s.modLink d n Link.raised, rfl, ?_⟩
    rw [State.link_modLink h Link.raised Link.raised_n, Link.raised]
    split
    · rename_i hu
      exact ⟨hu, fun hf => (Bool.false_ne_true (hf.symm.trans hu)).elim⟩
    · exact ⟨rfl, fun _ => rfl⟩

end Sys2Proof.Machine
end

section
/-! PROOFS. Storage errors, the life of a device, and the host's registers and memory (R199, R201, R415, R417, R431 to R440). -/

namespace Sys2Proof.Machine

section
variable {s : State} {d : Nat}

/-! ## Storage errors -/

theorem State.countError_dev (h : s.hasDev d = true) (k : Nat) :
    (s.countError d k).dev d = { s.dev d with err := Sparse.put (s.dev d).err k (Sparse.get (s.dev d).err k + 1) } :=
  State.dev_modDev h (fun D => { D with err := Sparse.put D.err k (Sparse.get D.err k + 1) }) fun _ => rfl

theorem State.setPoison_contains (s : State) (a : Nat) : (s.setPoison a true).poison.contains a = true := by
  rw [State.setPoison, if_pos rfl]
  dsimp only
  split
  · assumption
  · simp

theorem State.haltDev_dev (h : s.hasDev d = true) : ((s.haltDev d).dev d).st = 8 :=
  congrArg Device.st (State.dev_modDev (s := s) h (fun D => { D with st := 8 }) fun _ => rfl)

theorem mem_modIf {α : Type} {p : α → Bool} {f : α → α} {xs : List α} {y : α} (h : y ∈ modIf p f xs) : (∃ x ∈ xs, p x = true ∧ f x = y) ∨ (y ∈ xs ∧ p y = false) := by
  induction xs with
  | nil => cases h
  | cons x xs ih =>
    rw [modIf] at h
    rcases List.mem_cons.mp h with h | h
    · split at h
      · exact .inl ⟨x, List.mem_cons_self, ‹_›, h.symm⟩
      · exact .inr ⟨h ▸ List.mem_cons_self, h ▸ Bool.eq_false_iff.mpr ‹_›⟩
    · exact (ih h).imp (fun ⟨z, hz, hpz⟩ => ⟨z, List.mem_cons_of_mem _ hz, hpz⟩) fun ⟨hy, hn⟩ => ⟨List.mem_cons_of_mem _ hy, hn⟩

/-- A line whose partials of a device are lost. -/
def Line.losing (d : Nat) (L : Line) : Line := { L with holders := modIf (fun h => L.holderDev h.pos == d) (fun h => { h with lost := true }) L.holders }

theorem Line.losing_lost (d : Nat) (L : Line) : ∀ h ∈ (L.losing d).holders, (L.losing d).holderDev h.pos = d → h.lost = true := by
  intro h hh hd
  obtain ⟨x, -, -, rfl⟩ | ⟨-, hn⟩ := mem_modIf hh
  · rfl
  · exact absurd (beq_iff_eq.mpr hd) (by rw [show (L.losing d).holderDev h.pos = L.holderDev h.pos from rfl, hn]; exact Bool.false_ne_true)

theorem State.countError_line (k a : Nat) : (s.countError d k).line a = s.line a := rfl

/-- An uncorrectable error in a dirty line: its poison, or the partials that it loses. -/
theorem exec_dirtyLine (s : State) (d a : Nat) : exec (.uncorrectableError d .dirtyLine a) s = .next (
    if (s.line (lineOf a)).st == .a then (s.countError d 5).modLine (lineOf a) (Line.losing d) else (s.countError d 5).setPoison (lineOf a) true) := rfl

/-! ## The life of a device -/

theorem Device.boot_st (D : Device) : D.boot.st = 1 ∨ D.boot.st = 2 := by
  unfold Device.boot
  split
  · exact .inr rfl
  · split
    · exact .inr rfl
    · exact .inl rfl

/-- What the boot ROM leaves as it is. -/
theorem Device.boot_eq (D : Device) : D.boot = { D with st := D.boot.st, runDigest := D.boot.runDigest, runVersion := D.boot.runVersion } := by
  unfold Device.boot
  split
  · rfl
  · split <;> rfl

theorem Device.boot_id (D : Device) : D.boot.id = D.id := by rw [D.boot_eq]

theorem State.plug_of_hasDev (h : s.hasDev d = true) : s.plug d = s := by
  rw [State.plug, if_pos (by rw [h]; rfl)]

/-- A device that has been reset. -/
def Device.reset (clk : Nat) (D : Device) : Device := (D.powered clk).boot

theorem Device.reset_id (clk : Nat) (D : Device) : (D.reset clk).id = D.id := Device.boot_id _

theorem State.resetDev_dev (h : s.hasDev d = true) : (s.resetDev d).dev d = (s.dev d).reset s.clk :=
  State.dev_modDev (s := { s.resetDev d with devs := s.devs }) h (Device.reset s.clk) (Device.reset_id s.clk)

/-- A device with its number in the domain. -/
def State.renamed (e : Nat) (D : Device) : Device := { D with id := e }

theorem State.rename_devs (s : State) (d e : Nat) : (s.rename d e).devs = modIf (fun x : Device => x.id == d) (State.renamed e) s.devs := rfl

/-- A device whose number is free in the domain takes it. -/
theorem State.rename_hasDev (h : s.hasDev d = true) (e : Nat) : (s.rename d e).hasDev e = true := by
  obtain ⟨D, hD⟩ := State.find_dev h
  have hm : State.renamed e D ∈ modIf (fun x : Device => x.id == d) (State.renamed e) s.devs :=
    mem_modIf_of_mem (List.mem_of_find?_eq_some hD) (List.find?_some (p := fun x : Device => x.id == d) hD)
  rw [State.hasDev, State.rename_devs]
  exact List.any_eq_true.mpr ⟨_, hm, beq_self_eq_true e⟩

/-- A device after a cycle. -/
def Device.cycled (D : Device) : Device := if D.st == 5 then { D with st := 6 } else D

theorem Device.cycled_id (D : Device) : D.cycled.id = D.id := by
  unfold Device.cycled
  split <;> rfl

/-- The paths that wait grow older. -/
def State.growPaths (s : State) (cs : List Ctx) : State := cs.foldl (fun s c => s.modPath c.r.g c.r.w c.r.t fun p => p.grow (s.clk + 1)) s

theorem State.growPaths_devs (s : State) (cs : List Ctx) : (s.growPaths cs).devs = s.devs := by
  induction cs generalizing s with
  | nil => rfl
  | cons c cs ih => exact (ih _).trans (s.modPath_devs c.r.g c.r.w c.r.t fun p => p.grow (s.clk + 1))

theorem State.nextCycle_devs (s : State) : s.nextCycle.devs = s.devs.map Device.cycled :=
  congrArg (List.map Device.cycled) (s.growPaths_devs ((s.liveGroups.flatMap fun G => s.pathsOf G G.wefts).filter s.candidate))

theorem find?_map_of_iff {α : Type} {p : α → Bool} {f : α → α} (h : ∀ x, p (f x) = p x) (xs : List α) : (xs.map f).find? p = (xs.find? p).map f := by
  rw [List.find?_map]
  exact congrArg (Option.map f) (congrArg (fun q => xs.find? q) (funext h))

/-- A cycle takes a device in FABRIC to READY. -/
theorem State.nextCycle_dev (h : s.hasDev d = true) (hst : (s.dev d).st = 5) : (s.nextCycle.dev d).st = 6 := by
  obtain ⟨D, hD⟩ := State.find_dev h
  have hs : s.dev d = D := by rw [State.dev, hD]; rfl
  have hm := find?_map_of_iff (p := fun x : Device => x.id == d) (f := Device.cycled) (fun x => by rw [Device.cycled_id]) s.devs
  show ((s.nextCycle.devs.find? fun x => x.id == d).getD { id := d }).st = 6
  rw [State.nextCycle_devs, hm, hD]
  show D.cycled.st = 6
  rw [Device.cycled, ← hs, hst]
  rfl

/-! ## Staging slots and the report -/

theorem Sparse.range_putRange {w : Nat} (m : Sparse w) (a : Nat) (xs : List (BitVec w)) : Sparse.range (Sparse.putRange m a xs) a xs.length = xs := by
  refine List.ext_getElem (by simp [Sparse.range]) fun i h1 h2 => ?_
  simp only [Sparse.range, List.getElem_map, List.getElem_range, Sparse.get_putRange]
  rw [if_pos ⟨Nat.le_add_right _ _, by omega⟩]
  simp [h2]

theorem Sparse.range_putRange_outside {w : Nat} (m : Sparse w) {a b n : Nat} {xs : List (BitVec w)} (h : b + n ≤ a ∨ a + xs.length ≤ b) :
    Sparse.range (Sparse.putRange m a xs) b n = Sparse.range m b n := by
  refine List.map_congr_left fun i hi => ?_
  have := List.mem_range.mp hi
  rw [Sparse.get_putRange, if_neg (by omega)]

theorem Sparse.range_putRange_prefix {w : Nat} (m : Sparse w) (a : Nat) (xs ys : List (BitVec w)) :
    Sparse.range (Sparse.putRange m a (xs ++ ys)) a xs.length = xs := by
  refine List.ext_getElem (by simp [Sparse.range]) fun i h1 h2 => ?_
  simp only [Sparse.range, List.getElem_map, List.getElem_range, Sparse.get_putRange]
  rw [if_pos ⟨Nat.le_add_right _ _, by rw [List.length_append]; omega⟩]
  simp [List.getElem?_append_left h2, h2]

/-- The command word of a staging slot. -/
def Device.slotWord (D : Device) (slot : Nat) : Nat := leNat (Sparse.range D.draftq (128 * slot) 4)

theorem State.draftStatus_word (h : s.hasDev d = true) (slot : Nat) {st : Nat} (hst : st < 4) :
    ((s.draftStatus d slot st).dev d).slotWord slot = (s.dev d).slotWord slot % 2 ^ 29 + st * 2 ^ 29 := by
  have hd := State.dev_modDev h (fun D => { D with draftq := Sparse.putRange D.draftq (128 * slot) (leBytes 4 (D.slotWord slot % 2 ^ 29 + st * 2 ^ 29)) }) fun _ => rfl
  have hr := Sparse.range_putRange (s.dev d).draftq (128 * slot) (leBytes 4 ((s.dev d).slotWord slot % 2 ^ 29 + st * 2 ^ 29))
  rw [length_leBytes] at hr
  refine (congrArg (fun D : Device => D.slotWord slot) hd).trans ?_
  refine (congrArg leNat hr).trans ?_
  rw [leNat_leBytes]
  omega

end

end Sys2Proof.Machine
end

section
/-! PROOFS. What the host's accesses and the life of a device come to (R431 to R440). -/

namespace Sys2Proof.Machine

section
variable {s : State} {d : Nat}

/-! ## Staged drafts -/

theorem State.access_hit {c : Nat} {va : DWord} {e : Tlb} {allow : Xlat → Bool} (he : s.tlbHit d c va = some e) (ha : pteA e.pte = true) (hd : pteD e.pte = true)
    (hal : allow (xlatOf va e.bits e.pte e.at_) = true) : s.access d c va true allow = (.ok (xlatOf va e.bits e.pte e.at_), s) := by
  have ht : s.translate d c va = (.ok (xlatOf va e.bits e.pte e.at_), s) := by rw [State.translate, he]
  have hdone : s.touch d c (xlatOf va e.bits e.pte e.at_) true = (true, s) :=
    State.touch_done (by rw [touched]; simp [xlatOf, ha, hd])
  rw [State.access, ht]
  dsimp only
  rw [hal, hdone]
  rfl

/-- The staged bytes of a draft stored at its place in the draft table. -/
def State.storeDraft (s : State) (d slot pa : Nat) (staged : List Byte) : State :=
  (((s.settleHome d pa).setBytes pa staged).uncache (lineOf pa)).draftStatus d slot 0

theorem State.storeDraft_quiet {slot pa : Nat} {staged : List Byte} (hs : s.hasDev d = true) (hq : s.Quiet (lineOf pa)) (hw : Memory.wf s.mem = true) (hn : staged.length = 64) :
    (s.storeDraft d slot pa staged).bytes pa 64 = staged ∧ (∀ a, (a < pa ∨ pa + 64 ≤ a) → (s.storeDraft d slot pa staged).byte a = s.byte a) ∧
      ((s.storeDraft d slot pa staged).dev d).slotWord slot = (s.dev d).slotWord slot % 2 ^ 29 := by
  rw [State.storeDraft, State.settleHome_quiet hq]
  refine ⟨?_, fun a ha => byte_setBytes_outside hw (by rwa [hn]), ?_⟩
  · have := bytes_setBytes_same hw pa staged
    rwa [hn] at this
  · exact State.draftStatus_word (s := (s.setBytes pa staged).uncache (lineOf pa)) hs slot (by decide)

/-! ## Registers of the window -/

theorem State.mmioPut_rwbase (h : s.hasDev d = true) (v : DWord) : ((s.mmioPut d 0x18 (leBytes 8 v.toNat) true).dev d).rwbase = v := by
  have hset : ∀ D : Device, D.mmioSet 0x18 (leBytes 8 v.toNat) = { D with rwbase := v } := by
    intro D
    have hv : leNat (leBytes 8 v.toNat) = v.toNat := by rw [leNat_leBytes]; exact Nat.mod_eq_of_lt v.isLt
    have hb : BitVec.ofNat 64 (leNat (leBytes 8 v.toNat)) = v := by rw [hv]; exact BitVec.ofNat_toNat _ _ |>.trans (by simp)
    exact congrArg (fun x => { D with rwbase := x }) hb
  refine (congrArg Device.rwbase (State.dev_modDev h (fun D => D.mmioSet 0x18 (leBytes 8 v.toNat)) fun D => by rw [hset])).trans ?_
  rw [hset]

theorem exec_mmio (o n : Nat) (v : DWord) :
    exec (.mmioRegisterWrite d o n v true) s = .next (s.mmioPut d o (leBytes (min n (8 - o % 8)) v.toNat) true) := by
  show execMmioRegisterWrite d o n v true s = _
  unfold execMmioRegisterWrite
  dsimp only
  rw [if_pos rfl]

theorem Device.mmioSet_root (D : Device) {k : Nat} (hk : k < 512) (v : DWord) :
    D.mmioSet (0x10000 + 8 * k) (leBytes 8 v.toNat) = if D.st == 6 then { D with root := Sparse.put D.root k v } else D := by
  have hv : BitVec.ofNat 64 (leNat (leBytes 8 v.toNat)) = v := by
    rw [leNat_leBytes, Nat.mod_eq_of_lt v.isLt]
    exact BitVec.ofNat_toNat _ _ |>.trans (by simp)
  have htake : ∀ (xs : List Byte) (n : Nat), (xs.take 0 ++ leBytes 8 v.toNat ++ xs.drop n).take 8 = leBytes 8 v.toNat := by
    intro xs n
    rw [List.take_zero, List.nil_append]
    exact List.take_left' (length_leBytes 8 v.toNat)
  have hm : (0x10000 + 8 * k) % 8 = 0 := by omega
  have hdiv : (0x10000 + 8 * k) / 8 * 8 = 0x10000 + 8 * k := by omega
  have hix : (0x10000 + 8 * k - 0x10000) / 8 = k := by omega
  unfold Device.mmioSet
  rw [hm, hdiv, if_neg (by omega), if_pos (by omega), hix, htake, hv]

/-- A word of the root table has no effect beyond itself. -/
theorem State.mmioAct_root {k : Nat} (hk : k < 512) (bs : List Byte) (byHost : Bool) : s.mmioAct d (0x10000 + 8 * k) bs byHost = s := by
  unfold State.mmioAct
  have hdiv : (0x10000 + 8 * k) / 8 * 8 = 0x10000 + 8 * k := by omega
  have h1 : (0x10000 + 8 * k == 0x10) = false := beq_false_of_ne (by omega)
  have h2 : (0x10000 + 8 * k == 0x60FF0) = false := beq_false_of_ne (by omega)
  have h3 : decide (0x20000 ≤ 0x10000 + 8 * k) = false := decide_eq_false (by omega)
  have h4 : decide (0x40000 ≤ 0x10000 + 8 * k) = false := decide_eq_false (by omega)
  have h5 : decide (0x100000 ≤ 0x10000 + 8 * k) = false := decide_eq_false (by omega)
  rw [hdiv]
  dsimp only
  rw [h1, h2, h3, h4, h5]
  rfl

theorem State.mmioPut_root (h : s.hasDev d = true) {k : Nat} (hk : k < 512) (hst : (s.dev d).st = 6) (v : DWord) :
    Sparse.get ((s.mmioPut d (0x10000 + 8 * k) (leBytes 8 v.toNat) true).dev d).root k = v ∧ (s.mmioPut d (0x10000 + 8 * k) (leBytes 8 v.toNat) true).mem = s.mem := by
  rw [State.mmioPut, State.mmioAct_root hk]
  refine ⟨?_, rfl⟩
  rw [State.dev_modDev h _ fun D => by rw [Device.mmioSet_root D hk]; split <;> rfl, Device.mmioSet_root _ hk, hst]
  exact (Sparse.get_put ..).trans (if_pos rfl)

/-! ## The host's stores -/

theorem State.line_absent {a : Nat} (h : ∀ x ∈ s.lines, x.addr ≠ a) : s.line a = { addr := a } := by
  rw [State.line, List.find?_eq_none.mpr fun x hx => by simpa using h x hx]
  rfl

/-- A byte that the host stores where no directory entry stands. -/
theorem State.hostPut_byte {a : Nat} (b : Byte) (h : ∀ x ∈ s.lines, x.addr ≠ lineOf a) :
    (s.hostPut d a [b]).mem = (s.setBytes a [b]).mem := by
  have hl := State.line_absent h
  have hq : s.Quiet (lineOf a) := by rw [State.Quiet, hl]; exact ⟨LineSt.noConfusion, rfl⟩
  rw [State.hostPut]
  split
  · rw [State.force_quiet hq.2, State.mergeLine_quiet hq.1]
    rfl
  · rfl

theorem State.hostMemory_outside (h : (s.dev d).st < 4 ∨ 6 < (s.dev d).st) (a n : Nat) (w : List Byte) : exec (.hostMemoryAccess d a w n) s = .next s := by
  have hok : (s.hasDev d && decide (4 ≤ (s.dev d).st) && decide ((s.dev d).st ≤ 6) && decide (a + max n w.length ≤ 2 ^ 44)) = false := by
    rcases h with h | h
    · rw [decide_eq_false (Nat.not_le.mpr h)]
      simp
    · rw [decide_eq_false (Nat.not_le.mpr h)]
      simp
  show execHostMemoryAccess d a w n s = _
  unfold execHostMemoryAccess
  dsimp only
  rw [hok]
  rfl

/-- A byte that the host stores in HBM. -/
theorem State.hostMemory_store (hs : s.hasDev d = true) (h4 : 4 ≤ (s.dev d).st) (h6 : (s.dev d).st ≤ 6) {a : Nat} (ha : a < 2 ^ 42) (hz : zoneOf a = .hbm) (b : Byte) :
    exec (.hostMemoryAccess d a [b] 0) s = .next ((s.hostPut d (d * 2 ^ 44 + a) [b]).cleanse (d * 2 ^ 44 + a) 1) := by
  have hok : (s.hasDev d && decide (4 ≤ (s.dev d).st) && decide ((s.dev d).st ≤ 6) && decide (a + max 0 [b].length ≤ 2 ^ 44)) = true := by
    rw [hs, decide_eq_true h4, decide_eq_true h6, decide_eq_true (by simp; omega)]
    rfl
  have hmod : a % 2 ^ 44 = a := Nat.mod_eq_of_lt (by omega)
  show execHostMemoryAccess d a [b] 0 s = _
  unfold execHostMemoryAccess
  dsimp only
  rw [hok, hmod]
  have hlast : a + [b].length - 1 = a := rfl
  rw [hlast, hz]
  rfl

end

/-! ## The family -/

section
variable {s : State} {d : Nat}

/-- A line's entry after an uncorrectable error has been counted. -/
theorem exec_dirtyLine_poisons {a : Nat} (hl : (s.line (lineOf a)).st ≠ .a) :
    exec (.uncorrectableError d .dirtyLine a) s = .next ((s.countError d 5).setPoison (lineOf a) true) := by
  rw [exec_dirtyLine, if_neg (by simpa using hl)]

theorem exec_dirtyLine_loses {a : Nat} (hl : (s.line (lineOf a)).st = .a) :
    exec (.uncorrectableError d .dirtyLine a) s = .next ((s.countError d 5).modLine (lineOf a) (Line.losing d)) := by
  rw [exec_dirtyLine, if_pos (by rw [hl]; rfl)]

theorem State.dirtyLine_lost (a : Nat) : let t := (s.countError d 5).modLine a (Line.losing d)
    ∀ h ∈ (t.line a).holders, (t.line a).holderDev h.pos = d → h.lost = true := by
  intro t
  rw [show t.line a = Line.losing d (s.line a) from State.line_modLine _ a (Line.losing d) fun _ => rfl]
  exact Line.losing_lost d _

theorem exec_core (s : State) (d a : Nat) {G : Group} (hG : s.group? a = some G) (hd : G.dev = d) :
    exec (.uncorrectableError d .core a) s = .next ((s.countError d 1).takeTrap a { cls := .uncorrectable, reason := 2, precise := false }) := by
  have hG' : (s.countError d 1).group? a = some G := hG
  show execUncorrectableError d .core a s = _
  unfold execUncorrectableError
  dsimp only [storageNo]
  rw [show (s.countError d (2 * 0 + 1)).group? a = some G from hG']
  dsimp only
  rw [if_pos (beq_iff_eq.mpr hd)]

/-- The device after its wake. -/
theorem State.wakeDev_dev (hs : s.hasDev d = true) (hst : (s.dev d).st = 7) (discard : Bool) :
    (s.wakeDev d discard).dev d = { s.dev d with st := 6, l2gen := (s.dev d).l2gen + 1, l2floor := if discard || (s.dev d).l2gen + 1 == 0 then (s.dev d).l2gen + 1 else (s.dev d).l2floor } := by
  rw [State.wakeDev, if_neg (by rw [hst]; decide)]
  exact State.dev_modDev hs (fun D => { D with st := 6, l2gen := D.l2gen + 1, l2floor := if discard || D.l2gen + 1 == 0 then D.l2gen + 1 else D.l2floor }) fun _ => rfl

theorem State.wakeDev_mem (discard : Bool) : (s.wakeDev d discard).mem = s.mem := by
  unfold State.wakeDev
  split <;> rfl

theorem State.wakeDev_awake (hst : (s.dev d).st ≠ 7) (discard : Bool) : s.wakeDev d discard = s := by
  rw [State.wakeDev, if_pos (by simpa using hst)]

theorem Device.reset_registers (clk : Nat) (D : Device) : (D.reset clk).rten = false ∧ (D.reset clk).root = [] ∧ (D.reset clk).rwbase = 0 := by
  rw [Device.reset, Device.boot_eq]
  exact ⟨rfl, rfl, rfl⟩

/-- Another device stays as it is. -/
theorem State.resetDev_others : ∀ x ∈ (s.resetDev d).devs, x.id ≠ d → x ∈ s.devs := by
  intro x hx hne
  obtain ⟨y, -, hy, rfl⟩ | ⟨h, -⟩ := mem_modIf (show x ∈ modIf (fun x : Device => x.id == d) (Device.reset s.clk) s.devs from hx)
  · exact absurd ((Device.reset_id _ _).trans (beq_iff_eq.mp hy)) hne
  · exact h

/-- What zeroing the RAM of a device leaves. -/
def State.zeroed (s : State) (d : Nat) : State :=
  { s with mem := Sparse.drop s.mem fun a => devOf a == d && (zoneOf (localOf a) == .hbm || zoneOf (localOf a) == .tier2) }

theorem State.zeroed_byte (a : Nat) :
    (s.zeroed d).byte a = if devOf a == d && (zoneOf (localOf a) == .hbm || zoneOf (localOf a) == .tier2) then 0 else s.byte a :=
  Sparse.get_drop s.mem (fun a => devOf a == d && (zoneOf (localOf a) == .hbm || zoneOf (localOf a) == .tier2)) a

theorem exec_memoryTrained (hst : (s.dev d).st = 2) : exec (.memoryTrained d) s = .next ((s.zeroed d).modDev d fun D => { D with st := 3 }) :=
  congrArg Host.Outcome.next (if_neg (by rw [hst]; decide))

theorem exec_fabricTrained (hst : (s.dev d).st = 4) (hn : (s.dev d).named = true) (hf : (s.dev d).devid = d ∨ s.hasDev (s.dev d).devid = false) :
    exec (.fabricTrained d) s = .next ((if (s.dev d).devid == d then s else s.rename d (s.dev d).devid).modDev (s.dev d).devid fun D => { D with st := 5 }) := by
  refine congrArg Host.Outcome.next (if_neg ?_)
  rw [hst, hn]
  rcases hf with hf | hf <;> rw [hf] <;> simp

theorem exec_fabricTrained_taken (h : (s.dev d).st ≠ 4 ∨ (s.dev d).named = false ∨ ((s.dev d).devid ≠ d ∧ s.hasDev (s.dev d).devid = true)) :
    exec (.fabricTrained d) s = .next s := by
  refine congrArg Host.Outcome.next (if_pos ?_)
  rcases h with h | h | ⟨h, hh⟩
  · simp [h]
  · simp [h]
  · simp [h, hh]

/-- A device with its report written and the request cleared. -/
def Device.attested (D : Device) : Device :=
  { D with attest := Sparse.putRange (Sparse.putRange D.attest 0x100 (D.report ++ (edSign D.identity (digest (D.report.take 193))).take 114)) 0xFF0 (List.replicate 8 0) }

theorem State.attest_eq (s : State) (d : Nat) : s.attest d = s.modDev d Device.attested := by
  unfold State.attest Device.attested
  rfl

theorem State.attest_dev (hs : s.hasDev d = true) : (s.attest d).dev d = (s.dev d).attested := by
  rw [State.attest_eq]
  exact State.dev_modDev hs Device.attested fun D => by unfold Device.attested; rfl

/-- The report of an attestation, from its first byte on. -/
theorem State.attest_ranges (hs : s.hasDev d = true) : Sparse.range ((s.attest d).dev d).attest 0xFF0 8 = List.replicate 8 0 ∧
    Sparse.range ((s.attest d).dev d).attest 0x100 64 = Sparse.range (s.dev d).attest 0 64 := by
  rw [State.attest_dev hs]
  unfold Device.attested
  dsimp only
  generalize (edSign (s.dev d).identity (digest ((s.dev d).report.take 193))).take 114 = sig
  have hlen : (Sparse.range (s.dev d).attest 0 64).length = 64 := by simp [Sparse.range]
  have hzero : (List.replicate 8 (0 : Byte)).length = 8 := List.length_replicate
  constructor
  · have := Sparse.range_putRange (Sparse.putRange (s.dev d).attest 0x100 ((s.dev d).report ++ sig)) 0xFF0 (List.replicate 8 0)
    rwa [hzero] at this
  · rw [Sparse.range_putRange_outside _ (.inl (by decide)), Device.report]
    simp only [List.append_assoc]
    have := Sparse.range_putRange_prefix (s.dev d).attest 0x100 (Sparse.range (s.dev d).attest 0 64)
    rw [hlen] at this
    exact this _

/-! ### A command word with GO -/

section
variable {slot : Nat} {byHost : Bool}

theorem exec_draftWrite_idle (h : (s.dev d).st ≠ 6 ∨ ((s.dev d).slotWord slot).testBit 31 = false) : exec (.draftWrite d slot byHost) s = .next s := by
  refine congrArg Host.Outcome.next (if_pos ?_)
  rw [Device.slotWord] at h
  rcases h with h | h <;> simp [h]

variable (hst : (s.dev d).st = 6) (hgo : ((s.dev d).slotWord slot).testBit 31 = true)
include hst hgo

theorem State.draftWrite_go : ((s.dev d).st != 6 || !(leNat (Sparse.range (s.dev d).draftq (128 * slot) 4)).testBit 31) = false := by
  rw [Device.slotWord] at hgo
  rw [hst, hgo]
  rfl

theorem exec_draftWrite_refused (hm : s.modeBit d ((s.dev d).slotWord slot / 2 ^ 16 % 2 ^ 12) 2 ≠ byHost) :
    exec (.draftWrite d slot byHost) s = .next (s.draftStatus d slot 1) := by
  refine congrArg Host.Outcome.next ?_
  unfold State.draftWrite
  dsimp only
  rw [State.draftWrite_go hst hgo, if_neg Bool.false_ne_true]
  exact if_pos (bne_iff_ne.mpr hm)

variable (hm : s.modeBit d ((s.dev d).slotWord slot / 2 ^ 16 % 2 ^ 12) 2 = byHost)
include hm

/-- Whether a translation of a draft's place takes it. -/
def State.takesDraft (d k : Nat) (s : State) (x : Xlat) : Bool := pteW x.pte && !s.unmapped x.pa && !s.refused d k x.pa

/-- The access to the draft's place. -/
def State.draftAccess (s : State) (d slot : Nat) : Except Nat Xlat × State :=
  let k := (s.dev d).slotWord slot / 2 ^ 16 % 2 ^ 12
  s.access d k ((s.ctx d k).dtbase + BitVec.ofNat 64 (64 * ((s.dev d).slotWord slot % 2 ^ 16))) true (State.takesDraft d k s)

/-- The bytes staged in a slot. -/
def Device.staged (D : Device) (slot : Nat) : List Byte := Sparse.range D.draftq (128 * slot + 0x40) 64

theorem State.draftWrite_allowed : s.draftWrite d slot byHost =
    match s.draftAccess d slot with
    | (.error _, s1) => s1.draftStatus d slot 2
    | (.ok x, s1) => if State.takesDraft d ((s.dev d).slotWord slot / 2 ^ 16 % 2 ^ 12) s1 x then s1.storeDraft d slot x.pa ((s.dev d).staged slot) else s1.draftStatus d slot 2 := by
  have hk : bitsOf (leNat (Sparse.range (s.dev d).draftq (128 * slot) 4)) 27 16 = (s.dev d).slotWord slot / 2 ^ 16 % 2 ^ 12 := rfl
  have hn : bitsOf (leNat (Sparse.range (s.dev d).draftq (128 * slot) 4)) 15 0 = (s.dev d).slotWord slot % 2 ^ 16 := by rw [bitsOf, Nat.pow_zero, Nat.div_one]; rfl
  unfold State.draftWrite
  dsimp only
  rw [State.draftWrite_go hst hgo, if_neg Bool.false_ne_true, hk, if_neg (fun h => bne_iff_ne.mp h hm), hn]
  show (match s.draftAccess d slot with | (.error _, s1) => _ | (.ok x, s1) => _) = _
  rcases s.draftAccess d slot with ⟨e | x, s1⟩
  · rfl
  · dsimp only
    by_cases ht : State.takesDraft d ((s.dev d).slotWord slot / 2 ^ 16 % 2 ^ 12) s1 x = true
    · rw [if_pos ht, if_neg (by rw [State.takesDraft] at ht; simpa [and_assoc] using ht)]
      rfl
    · rw [if_neg ht, if_pos (by rw [State.takesDraft] at ht; revert ht; cases pteW x.pte <;> cases s1.unmapped x.pa <;> simp)]

theorem exec_draftWrite_faults {e : Nat} {s1 : State} (h : s.draftAccess d slot = (.error e, s1)) : exec (.draftWrite d slot byHost) s = .next (s1.draftStatus d slot 2) :=
  congrArg Host.Outcome.next (by rw [State.draftWrite_allowed hst hgo hm, h])

theorem exec_draftWrite_answered {x : Xlat} {s1 : State} (h : s.draftAccess d slot = (.ok x, s1)) : exec (.draftWrite d slot byHost) s = .next (
    if State.takesDraft d ((s.dev d).slotWord slot / 2 ^ 16 % 2 ^ 12) s1 x then s1.storeDraft d slot x.pa ((s.dev d).staged slot) else s1.draftStatus d slot 2) :=
  congrArg Host.Outcome.next (by rw [State.draftWrite_allowed hst hgo hm, h])

end

end

end Sys2Proof.Machine

namespace Sys2Proof.Machine

/-- Settles O60: storage errors, sleep and wake, the states from RESET to READY, and the host's registers, drafts and memory. -/
theorem hostEvents : Obligations.HostEvents := by
  unfold Obligations.HostEvents
  intro s d hs
  have hcount (k : Nat) : (s.countError d k).hasDev d = true :=
    (State.hasDev_modDev (fun D => { D with err := Sparse.put D.err k (Sparse.get D.err k + 1) }) fun _ => rfl).trans hs
  refine ⟨?correctable, ?core, ?hbm, ?dirty, ?directory, ?thermal, ?throttle, ?sleep, ?awake, ?wake, ?noWake, ?reset, ?memory, ?link, ?fabric, ?renamed, ?taken, ?unnamed, ?ready,
    ?noMemory, ?noLink, ?noFabric, ?attest, ?draft, ?rwbase, ?root, ?closed, ?store⟩
  case correctable =>
    refine fun k => ⟨_, rfl, ?_, rfl⟩
    rw [State.countError_dev hs]
    exact (Sparse.get_put ..).trans (if_pos rfl)
  case core => exact fun a G hG hd => exec_core s d a hG hd
  case hbm => exact fun a => ⟨_, rfl, State.setPoison_contains _ _, rfl⟩
  case dirty =>
    exact fun a => ⟨fun hl => ⟨_, exec_dirtyLine_poisons hl, State.setPoison_contains _ _, rfl⟩, fun hl => ⟨_, exec_dirtyLine_loses hl, rfl, rfl, State.dirtyLine_lost _⟩⟩
  case directory => exact fun a => ⟨_, rfl, State.haltDev_dev (hcount _)⟩
  case thermal => exact ⟨_, rfl, State.haltDev_dev hs, rfl, rfl⟩
  case throttle =>
    exact fun down => ⟨_, rfl, congrArg Device.mhz (State.dev_modDev hs (fun D => { D with mhz := if down then D.mhz - 100 else min 1100 (D.mhz + 100) }) fun _ => rfl), rfl, rfl⟩
  case sleep => exact fun h => congrArg Host.Outcome.next (if_neg (by rw [h]; decide))
  case awake => exact fun h => congrArg Host.Outcome.next (if_pos (bne_iff_ne.mpr h))
  case wake =>
    intro h
    have hk := State.wakeDev_dev hs h false
    have hd := State.wakeDev_dev hs h true
    exact ⟨_, _, rfl, congrArg Device.st hk, congrArg Device.l2gen hk, rfl, congrArg Device.st hd, congrArg Device.l2gen hd, congrArg Device.l2floor hd, State.wakeDev_mem _, State.wakeDev_mem _⟩
  case noWake => exact fun h => ⟨congrArg Host.Outcome.next (State.wakeDev_awake h _), congrArg Host.Outcome.next (State.wakeDev_awake h _)⟩
  case reset =>
    have he : exec (.reset d) s = .next (s.resetDev d) := congrArg (fun t : State => Host.Outcome.next (t.resetDev d)) (State.plug_of_hasDev hs)
    obtain ⟨hrten, hroot, hrw⟩ := (s.dev d).reset_registers s.clk
    have hd := State.resetDev_dev hs
    refine ⟨_, he, ?_, ?_, ?_, ?_, ?_, ?_, ?_, State.resetDev_others⟩
    · rw [hd]
      exact Device.boot_st _
    · rw [hd, hrten]
    · rw [hd, hroot]
    · rw [hd, hrw]
    · exact fun G hG => bne_iff_ne.mp (List.mem_filter.mp hG).2
    · exact fun R hR => bne_iff_ne.mp (List.mem_filter.mp hR).2
    · exact fun C hC => bne_iff_ne.mp (List.mem_filter.mp hC).2
  case memory =>
    refine fun h => ⟨_, exec_memoryTrained h, congrArg Device.st (State.dev_modDev (s := s.zeroed d) hs (fun D => { D with st := 3 }) fun _ => rfl), ?_, ?_⟩
    · exact fun a ha => (State.zeroed_byte a).trans (if_pos ha)
    · exact fun a ha => (State.zeroed_byte a).trans (if_neg (Bool.eq_false_iff.mp ha))
  case link =>
    intro gen h
    have hd := State.dev_modDev hs (fun D => { D with st := 4, gen := some gen }) fun _ => rfl
    exact ⟨_, congrArg Host.Outcome.next (if_neg (by rw [h]; decide)), congrArg Device.st hd, congrArg Device.gen hd⟩
  case fabric =>
    intro h hn hd
    refine ⟨_, exec_fabricTrained h hn (.inl hd), ?_, ?_⟩ <;> rw [hd, if_pos (beq_self_eq_true d)]
    · exact congrArg Device.st (State.dev_modDev hs (fun D => { D with st := 5 }) fun _ => rfl)
    · rfl
  case renamed =>
    intro h hn hd hf
    have hr := State.rename_hasDev hs (s.dev d).devid
    refine ⟨_, exec_fabricTrained h hn (.inr hf), ?_, ?_⟩ <;> rw [if_neg (fun he => hd (beq_iff_eq.mp he))]
    · exact (State.hasDev_modDev (fun D => { D with st := 5 }) fun _ => rfl).trans hr
    · exact congrArg Device.st (State.dev_modDev hr (fun D => { D with st := 5 }) fun _ => rfl)
  case taken => exact fun h hd hf => exec_fabricTrained_taken (.inr (.inr ⟨hd, hf⟩))
  case unnamed => exact fun h hn => exec_fabricTrained_taken (.inr (.inl hn))
  case ready => exact State.nextCycle_dev hs
  case noMemory => exact fun h => congrArg Host.Outcome.next (if_pos (bne_iff_ne.mpr h))
  case noLink => exact fun gen h => congrArg Host.Outcome.next (if_pos (bne_iff_ne.mpr h))
  case noFabric => exact fun h => exec_fabricTrained_taken (.inl h)
  case attest => exact ⟨s.attest d, rfl, State.attest_ranges hs⟩
  case draft =>
    refine fun slot byHost => ⟨exec_draftWrite_idle, fun h hgo hm => ⟨_, exec_draftWrite_refused h hgo hm, State.draftStatus_word hs slot (by decide), rfl⟩,
      fun h hgo hm => ⟨fun e s1 => exec_draftWrite_faults h hgo hm, fun x s1 => exec_draftWrite_answered h hgo hm, ?_⟩⟩
    intro e he ha hd x htk hst hrecs hw
    have hrun := State.access_hit he ha hd (allow := State.takesDraft d _ s) htk
    refine ⟨_, (exec_draftWrite_answered h hgo hm hrun).trans (congrArg Host.Outcome.next (if_pos htk)), State.storeDraft_quiet hs ⟨hst, hrecs⟩ hw (by simp [Device.staged, Sparse.range])⟩
  case rwbase => exact fun v => ⟨_, exec_mmio 0x18 8 v, State.mmioPut_rwbase hs v⟩
  case root =>
    intro k v hk hst
    have hsize : min 8 (8 - (0x10000 + 8 * k) % 8) = 8 := by omega
    have he := exec_mmio (s := s) (d := d) (0x10000 + 8 * k) 8 v
    rw [hsize] at he
    exact ⟨_, he, State.mmioPut_root hs hk hst v⟩
  case closed => exact fun a w n h => State.hostMemory_outside h a n w
  case store =>
    intro a b h4 h6 ha hz hw hl
    have hm := State.hostPut_byte (d := d) b hl
    refine ⟨_, State.hostMemory_store hs h4 h6 ha hz b, ?_, fun x hx => ?_⟩
    · exact (congrArg (fun m => Sparse.get m _) hm).trans ((State.byte_setBytes hw ..).trans (by simp))
    · exact (congrArg (fun m => Sparse.get m x) hm).trans (byte_setBytes_outside hw (by simp; omega))

end Sys2Proof.Machine
end

section
/-! PROOFS. What the memory system below the cores leaves as it is: the clock, the counter behind the free values, the issuer and the regions (R276, R309 to R325). -/

namespace Sys2Proof.Machine

/-- The clock, the counter behind the free values, the issuer and the regions of a state. -/
def State.base (s : State) : Nat × Nat × Option PathRef × List Region := (s.clk, s.tick, s.issuer, s.regions)

theorem State.clk_of_base {s t : State} (h : s.base = t.base) : s.clk = t.clk := congrArg Prod.fst h
theorem State.tick_of_base {s t : State} (h : s.base = t.base) : s.tick = t.tick := congrArg (fun x => x.2.1) h
theorem State.issuer_of_base {s t : State} (h : s.base = t.base) : s.issuer = t.issuer := congrArg (fun x => x.2.2.1) h
theorem State.regions_of_base {s t : State} (h : s.base = t.base) : s.regions = t.regions := congrArg (fun x => x.2.2.2) h

/-- Steps that each keep the base keep it together. -/
theorem foldl_base {α : Type} {f : State → α → State} (hf : ∀ s x, (f s x).base = s.base) (xs : List α) (s : State) : (xs.foldl f s).base = s.base := by
  induction xs generalizing s with
  | nil => rfl
  | cons x xs ih => exact (ih _).trans (hf s x)

variable (s : State)

@[simp] theorem State.modWeft_base (g w : Nat) (f : Weft → Weft) : (s.modWeft g w f).base = s.base := by simp [State.base]

/-! ## Merges and deposits -/

theorem State.showWindow_base (xs : List (Nat × Nat × BitVec 2)) : (s.showWindow xs).base = s.base := by
  induction xs generalizing s with
  | nil => rfl
  | cons x xs ih => exact ih _

@[simp] theorem State.setPoison_base (a : Nat) (on : Bool) : (s.setPoison a on).base = s.base := rfl

@[simp] theorem State.mergeLine_base (a : Nat) : (s.mergeLine a).base = s.base := by
  unfold State.mergeLine
  dsimp only
  split
  · rfl
  · refine (State.showWindow_base _ _).trans ?_
    split <;> rfl

@[simp] theorem State.enterA_base (a : Nat) (op : MemOp) (det : Bool) : (s.enterA a op det).base = s.base := by
  unfold State.enterA
  dsimp only
  split
  · rfl
  · exact s.mergeLine_base a

@[simp] theorem State.deposit_base (d core ctx a : Nat) (op : MemOp) (det : Bool) (off v : Nat) : (s.deposit d core ctx a op det off v).base = s.base :=
  s.enterA_base a op det

@[simp] theorem State.applyCont_base (d core a : Nat) (k : Contrib) : (s.applyCont d core a k).base = s.base := by
  cases k with
  | bytes off data => exact s.mergeLine_base a
  | rmw op off v => exact s.mergeLine_base a
  | deposit op det ctx off v => exact s.deposit_base d core ctx a op det off v

@[simp] theorem State.applyConts_base (d core a : Nat) (ks : List Contrib) : (s.applyConts d core a ks).base = s.base :=
  foldl_base (fun s k => s.applyCont_base d core a k) ks s

/-! ## The ends of accesses and requests -/

@[simp] theorem State.castEnd_base (n : Nat) : (s.castEnd n).base = s.base := by
  unfold State.castEnd
  split
  · rfl
  next c _ =>
    split
    · rfl
    · dsimp only
      split <;> exact State.modWeft_base { s with casts := s.casts.filter fun x => x.n != n } _ _ _

@[simp] theorem State.lowerSt_base (us : List QUser) : (s.lowerSt us).base = s.base := by
  induction us generalizing s with
  | nil => rfl
  | cons u us ih =>
    rw [State.lowerSt]
    split
    · exact (ih _).trans (s.castEnd_base _)
    · split
      · exact ih _
      · exact (ih _).trans (s.modWeft_base _ _ _)

@[simp] theorem State.failUsers_base (cls : TrapClass) (reason : Nat) (all us : List QUser) : (s.failUsers cls reason all us).base = s.base := by
  induction us generalizing s with
  | nil => rfl
  | cons u us ih =>
    rw [State.failUsers]
    refine (ih _).trans ?_
    split
    · rfl
    · split <;> rfl

@[simp] theorem State.putRecs_base (a : Nat) (rs : List RelRec) : (s.putRecs a rs).base = s.base := by
  unfold State.putRecs
  split <;> rfl

@[simp] theorem State.applyEntry_base (d c a : Nat) (ks : List Contrib) (us : List QUser) (rs : List RelRec) : (s.applyEntry d c a ks us rs).base = s.base := by
  refine (State.putRecs_base _ _ _).trans ((State.failUsers_base _ _ _ _ _).trans ?_)
  split <;> exact s.applyConts_base d c a ks

@[simp] theorem State.endReq_base (m : Msg) : (s.endReq m).base = s.base := State.lowerSt_base _ _

@[simp] theorem State.failReq_base (m : Msg) (cls : TrapClass) (reason : Nat) : (s.failReq m cls reason).base = s.base :=
  (State.endReq_base _ _).trans (State.failUsers_base _ _ _ _ _)

@[simp] theorem State.giveUp_base (m : Msg) (reason : Nat) : (s.giveUp m reason).base = s.base := by
  unfold State.giveUp
  split
  · exact s.endReq_base m
  · exact s.failReq_base m _ _

@[simp] theorem State.sendStore_base (d c : Nat) (e : QEntry) (ks : List Contrib) (us : List QUser) : (s.sendStore d c e ks us).base = s.base := rfl

/-! ## Publishing and forcing -/

section
variable {pre : State → Nat → Nat → Nat → State} (hpre : ∀ s d c a, (pre s d c a).base = s.base)
include hpre

theorem State.homeStoreWith_base (m : Msg) : (s.homeStoreWith pre m).2.base = s.base := by
  unfold State.homeStoreWith
  split
  · rfl
  split
  · rfl
  split
  · rfl
  have hread : (if m.conts.any contReads then pre s m.src m.core m.line else s).base = s.base := by
    split
    · exact hpre _ _ _ _
    · rfl
  dsimp only
  generalize (if m.conts.any contReads then pre s m.src m.core m.line else s) = s0 at hread ⊢
  split
  · exact hread
  · exact (State.applyEntry_base _ _ _ _ _ _ _).trans hread

theorem State.settleReqWith_base (m : Msg) : (s.settleReqWith pre m).base = s.base := by
  have hh := s.homeStoreWith_base hpre m
  unfold State.settleReqWith
  split
  · rfl
  split
  · exact s.giveUp_base m 3
  split
  case h_1 s1 he =>
    rw [he] at hh
    exact (s1.endReq_base m).trans hh
  case h_2 s1 he =>
    rw [he] at hh
    exact (s1.failReq_base m _ _).trans hh
  case h_3 s1 he =>
    rw [he] at hh
    exact hh

theorem State.drainWith_base (d : Nat) : (s.drainWith pre d).base = s.base := foldl_base (fun s _ => s.settleReqWith_base hpre _) _ s

theorem State.drainLineWith_base (d a : Nat) : (s.drainLineWith pre d a).base = s.base := foldl_base (fun s _ => s.settleReqWith_base hpre _) _ s

theorem State.publishWith_base (d c : Nat) (old : QEntry) : (s.publishWith pre d c old).base = s.base := by
  unfold State.publishWith
  split
  · rfl
  next e _ =>
    dsimp only
    split
    · refine (State.lowerSt_base _ _).trans ((State.applyEntry_base _ _ _ _ _ _ _).trans ?_)
      split
      · exact hpre _ _ _ _
      · rfl
    · refine (foldl_base (fun s r => s.sendStore_base d c e _ _) _ _).trans ?_
      split
      · exact State.drainLineWith_base _ hpre _ _
      · rfl

theorem State.publishAllWith_base (d c : Nat) : (s.publishAllWith pre d c).base = s.base := foldl_base (fun s e => s.publishWith_base hpre d c e) _ s

theorem State.forceRecWith_base (a : Nat) (r : RelRec) : (s.forceRecWith pre a r).base = s.base := by
  unfold State.forceRecWith
  split
  · rfl
  · exact (State.drainWith_base _ hpre _).trans (State.publishAllWith_base _ hpre _ _)

theorem State.forceWith_base (d c a : Nat) : (s.forceWith pre d c a).base = s.base := foldl_base (fun s r => s.forceRecWith_base hpre a r) _ s

end

theorem State.forceDeep_base (k d c a : Nat) : (State.forceDeep k s d c a).base = s.base := by
  induction k generalizing s d c a with
  | zero => rfl
  | succ k ih => exact s.forceWith_base ih d c a

theorem State.forceRed_base (d c a : Nat) : (s.forceRed d c a).base = s.base := s.forceDeep_base _ d c a

@[simp] theorem State.homeStore_base (m : Msg) : (s.homeStore m).2.base = s.base := s.homeStoreWith_base State.forceRed_base m
@[simp] theorem State.drain_base (d : Nat) : (s.drain d).base = s.base := s.drainWith_base State.forceRed_base d
@[simp] theorem State.drainLine_base (d a : Nat) : (s.drainLine d a).base = s.base := s.drainLineWith_base State.forceRed_base d a
@[simp] theorem State.publish_base (d c : Nat) (e : QEntry) : (s.publish d c e).base = s.base := s.publishWith_base State.forceRed_base d c e
@[simp] theorem State.publishAll_base (d c : Nat) : (s.publishAll d c).base = s.base := s.publishAllWith_base State.forceRed_base d c
@[simp] theorem State.forceRec_base (a : Nat) (r : RelRec) : (s.forceRec a r).base = s.base := s.forceRecWith_base State.forceRed_base a r
@[simp] theorem State.force_base (d c a : Nat) : (s.force d c a).base = s.base := s.forceWith_base State.forceRed_base d c a

@[simp] theorem State.publishLine_base (d core a : Nat) : (s.publishLine d core a).base = s.base := by
  unfold State.publishLine
  dsimp only
  have h1 : ∀ o : Option QEntry, (match o with | some e => s.publish d core e | none => s).base = s.base := by
    intro o
    cases o with
    | none => rfl
    | some e => exact s.publish_base d core e
  split
  · exact h1 _
  · exact (State.drainLine_base _ _ _).trans (h1 _)

@[simp] theorem State.noteSharer_base (d c a : Nat) : (s.noteSharer d c a).base = s.base := by
  unfold State.noteSharer
  split
  · rfl
  · dsimp only
    split <;> rfl

@[simp] theorem State.reach_base (d c a : Nat) : (s.reach d c a).base = s.base := by
  have hown : ∀ b : Bool, (if b then s.publishLine d c a else s).base = s.base := by
    intro b
    cases b
    · rfl
    · exact s.publishLine_base d c a
  exact (State.noteSharer_base _ _ _ _).trans ((State.mergeLine_base _ _).trans ((State.force_base _ _ _ _).trans (hown _)))

@[simp] theorem State.settleHome_base (d a : Nat) : (s.settleHome d a).base = s.base := (State.mergeLine_base _ _).trans (s.force_base d 256 (lineOf a))

@[simp] theorem State.enqueue_base (d c a : Nat) (k : Contrib) (u : QUser) (rel : Nat) : (s.enqueue d c a k u rel).base = s.base := by
  have hfull : ∀ q : List QEntry, (match q with | e :: _ => s.publish d c e | [] => s).base = s.base := by
    intro q
    cases q with
    | nil => rfl
    | cons e q => exact s.publish_base d c e
  unfold State.enqueue
  dsimp only
  split
  · exact hfull _
  · rfl

@[simp] theorem State.trimRecs_base : s.trimRecs.base = s.base :=
  foldl_base (f := fun s (L : Line) => (L.recs.take (L.recs.length - 4)).foldl (fun s r => s.forceRec L.addr r) s)
    (fun s (L : Line) => foldl_base (fun s r => s.forceRec_base L.addr r) _ s) _ s

end Sys2Proof.Machine
end

section
/-! PROOFS. What translations, checked accesses and engine accesses leave as it is (R191 to R195, R205, R221, R223). -/

namespace Sys2Proof.Machine

variable (s : State)

/-! ## Translations -/

@[simp] theorem State.settleWalk_base (d : Nat) (x : DWord) (table k : Nat) : (s.settleWalk d x table k).base = s.base := by
  induction k generalizing s table with
  | zero => rfl
  | succ k ih =>
    rw [State.settleWalk]
    split
    · exact s.settleHome_base d _
    · exact (ih _ _).trans (s.settleHome_base d _)

@[simp] theorem State.translate_base (d c : Nat) (x : DWord) : (s.translate d c x).2.base = s.base := by
  unfold State.translate
  split
  · rfl
  · have hw := s.settleWalk_base d x (s.ctx d c).ptbase.toNat 3
    dsimp only
    split <;> exact hw

@[simp] theorem State.touch_base (d c : Nat) (t : Xlat) (write : Bool) : (s.touch d c t write).2.base = s.base := by
  unfold State.touch
  split
  · rfl
  · have hh := s.settleHome_base d t.at_
    generalize s.settleHome d t.at_ = s1 at hh ⊢
    dsimp only
    split <;> exact hh

@[simp] theorem State.access_base (d c : Nat) (x : DWord) (write : Bool) (allow : Xlat → Bool) : (s.access d c x write allow).2.base = s.base := by
  have h1 := s.translate_base d c x
  unfold State.access
  generalize s.translate d c x = r at h1
  obtain ⟨e | t, s1⟩ := r
  · exact h1
  dsimp only
  split
  · exact h1
  have h2 := (s1.touch_base d c t write).trans h1
  generalize s1.touch d c t write = r2 at h2
  obtain ⟨b, s2⟩ := r2
  cases b
  case true => exact h2
  have h3 := (s2.translate_base d c x).trans h2
  dsimp only
  generalize s2.translate d c x = r3 at h3
  obtain ⟨e | t', s3⟩ := r3
  · exact h3
  · dsimp only
    split
    · exact (s3.touch_base d c t' write).trans h3
    · exact h3

/-! ## Checked accesses -/

@[simp] theorem State.lookups_base (d c a : Nat) (xs : List DWord) : (s.lookups d c a xs).2.base = s.base := by
  induction xs generalizing s with
  | nil => rfl
  | cons x xs ih =>
    have h1 := s.translate_base d c x
    rw [State.lookups]
    generalize s.translate d c x = r at h1
    obtain ⟨e | t, s1⟩ := r
    · exact h1
    have h2 := (ih s1).trans h1
    dsimp only
    generalize s1.lookups d c a xs = r2 at h2
    obtain ⟨e | ts, s2⟩ := r2 <;> exact h2

@[simp] theorem State.touchAll_base (d c : Nat) (xs : List (Xlat × Bool)) : (s.touchAll d c xs).2.base = s.base := by
  induction xs generalizing s with
  | nil => rfl
  | cons x xs ih =>
    have h1 := s.touch_base d c x.1 x.2
    rw [State.touchAll]
    generalize s.touch d c x.1 x.2 = r at h1
    obtain ⟨b, s1⟩ := r
    cases b
    · exact h1
    · exact (ih s1).trans h1

@[simp] theorem State.checkElems_base (c : Ctx) (q : Query) (x : DWord) (k : Nat) : (s.checkElems c q x k).2.base = s.base := by
  induction k generalizing s with
  | zero => rfl
  | succ k ih =>
    rw [State.checkElems]
    dsimp only
    split
    · rfl
    split
    · rfl
    split
    · rfl
    have h1 := s.lookups_base c.dev c.ctx q.code ((List.range q.n).map fun i => x + BitVec.ofNat 64 (i * q.z))
    generalize s.lookups c.dev c.ctx q.code ((List.range q.n).map fun i => x + BitVec.ofNat 64 (i * q.z)) = r at h1
    obtain ⟨e | xs, s1⟩ := r
    · exact h1
    dsimp only at h1 ⊢
    split
    · exact h1
    generalize ((((List.range q.n).map fun i => x + BitVec.ofNat 64 (i * q.z)).zip xs).filter fun e => scaledFor q.raw e.2).map (fun e => s.selvedge c.dev c.ctx e.1) = sels
    have h2 := (s1.lookups_base c.dev c.ctx 0 sels).trans h1
    generalize s1.lookups c.dev c.ctx 0 sels = r2 at h2
    obtain ⟨e | ys, s2⟩ := r2
    · exact h2
    dsimp only at h2 ⊢
    split
    · exact h2
    have h3 := (s2.touchAll_base c.dev c.ctx (xs.map (fun x => (x, q.write)) ++ ys.map fun y => (y, false))).trans h2
    generalize s2.touchAll c.dev c.ctx (xs.map (fun x => (x, q.write)) ++ ys.map fun y => (y, false)) = r3 at h3
    obtain ⟨b, s3⟩ := r3
    cases b
    · exact (ih s3).trans h3
    · exact h3

@[simp] theorem State.checkAccess_base (c : Ctx) (q : Query) (x : DWord) : (s.checkAccess c q x).2.base = s.base := s.checkElems_base c q x _

@[simp] theorem State.readBytes_base (d core pa n : Nat) : (s.readBytes d core pa n).2.base = s.base := by
  unfold State.readBytes
  split
  · rfl
  · exact s.reach_base d core _

/-! ## Engine accesses -/

@[simp] theorem State.mmioWrite_base (d o : Nat) (bs : List Byte) : (s.mmioWrite d o bs).base = s.base := by
  refine foldl_base (fun _ _ => ?_) _ s
  rfl

@[simp] theorem State.engAccess_base (p : Port) (write : Bool) (z : Nat) (fmt : Nat → Bool) (va : DWord) (k : Nat) : (s.engAccess p write z fmt va k).2.base = s.base := by
  induction k generalizing s with
  | zero => rfl
  | succ k ih =>
    rw [State.engAccess]
    split
    · rfl
    split
    · rfl
    have h1 := s.translate_base p.dev p.ctx va
    generalize s.translate p.dev p.ctx va = r at h1
    obtain ⟨e | x, s1⟩ := r
    · exact h1
    dsimp only at h1 ⊢
    split
    · rfl
    split
    · exact h1
    have h2 := (s1.touch_base p.dev p.ctx x write).trans h1
    generalize s1.touch p.dev p.ctx x write = r2 at h2
    obtain ⟨b, s2⟩ := r2
    cases b
    · exact (ih s2).trans h2
    · exact h2

@[simp] theorem State.engRead_base (p : Port) (x : Xlat) (va : DWord) (z : Nat) : (s.engRead p x va z).2.base = s.base := by
  have h1 := s.readBytes_base p.dev p.core x.pa z
  unfold State.engRead
  generalize s.readBytes p.dev p.core x.pa z = r at h1
  obtain ⟨bs, s1⟩ := r
  dsimp only
  split <;> exact h1

@[simp] theorem State.engPut_base (p : Port) (x : Xlat) (va : DWord) (bs : List Byte) : (s.engPut p x va bs).2.base = s.base := by
  unfold State.engPut
  split
  · exact s.mmioWrite_base _ _ _
  · have h1 := s.publishLine_base p.dev p.core (lineOf x.pa)
    have h2 := ((s.publishLine p.dev p.core (lineOf x.pa)).applyCont_base p.dev p.core (lineOf x.pa) (.bytes (x.pa % 128) bs)).trans h1
    dsimp only
    split <;> exact (State.putRecs_base _ _ _).trans h2

@[simp] theorem State.raiseCount_base (p : Port) (primal : Xlat) (va : DWord) : (s.raiseCount p primal va).2.base = s.base := by
  unfold State.raiseCount
  split
  · rfl
  dsimp only
  split
  · rfl
  generalize (s.ctx p.dev p.ctx).usebase + ((va.setWidth 55 >>> 4).setWidth 64 <<< 1) = cva
  have h1 := s.access_base p.dev p.ctx cva true fun x => (s.countNo p cva x).isNone
  generalize (s.access p.dev p.ctx cva true fun x => (s.countNo p cva x).isNone) = r at h1
  obtain ⟨e | x, s1⟩ := r
  · exact h1
  dsimp only at h1 ⊢
  split
  · exact h1
  have h2 := ((s1.publishLine p.dev p.core (lineOf x.pa)).reach_base p.dev p.core (lineOf x.pa)).trans ((s1.publishLine_base _ _ _).trans h1)
  split
  · exact h2
  split
  · exact h2
  split <;> exact h2

/-! ## Elements of commands -/

@[simp] theorem State.coverLine_base (cover : Nat × Nat) (pa z : Nat) : (s.coverLine cover pa z).base = s.base := by
  unfold State.coverLine
  split <;> rfl

@[simp] theorem State.drawElem_base (G : Group) (c : Command) (d : Draft) (counts : Bool) (va : DWord) : (s.drawElem G c d counts va).2.2.base = s.base := by
  have h1 := s.engAccess_base G.port false d.z d.pageFmt va 4
  unfold State.drawElem
  generalize s.engAccess G.port false d.z d.pageFmt va 4 = r at h1
  obtain ⟨e | x, s1⟩ := r
  · exact h1
  have h2 := (s1.engRead_base G.port x va d.z).trans h1
  dsimp only
  generalize s1.engRead G.port x va d.z = r2 at h2
  obtain ⟨e | bs, s2⟩ := r2
  · exact h2
  dsimp only at h2 ⊢
  split
  · have h3 := (s2.raiseCount_base G.port x va).trans h2
    generalize s2.raiseCount G.port x va = r3 at h3
    obtain ⟨e | u, s3⟩ := r3 <;> exact h3
  · exact h2

@[simp] theorem State.boxElem_base (G : Group) (c : Command) (d : Draft) (counts : Bool) (e : Nat) : (s.boxElem G c d counts e).2.2.base = s.base := by
  unfold State.boxElem
  split
  · rfl
  · exact s.drawElem_base G c d counts _

@[simp] theorem State.storeElem_base (G : Group) (c : Command) (d : Draft) (org : List Int) (bs : List Byte) : (s.storeElem G c d org bs).2.2.base = s.base := by
  unfold State.storeElem
  split
  · rfl
  next va _ =>
    have h1 := s.engAccess_base G.port true d.z d.pageFmt va 4
    generalize s.engAccess G.port true d.z d.pageFmt va 4 = r at h1
    obtain ⟨e | x, s1⟩ := r
    · exact h1
    have h2 := (s1.engPut_base G.port x va bs).trans h1
    dsimp only
    generalize s1.engPut G.port x va bs = r2 at h2
    obtain ⟨e | u, s2⟩ := r2
    · exact h2
    · exact (s2.coverLine_base _ _ _).trans h2

@[simp] theorem State.copyElem_base (G : Group) (c : Command) (d d2 : Draft) (counts : Bool) : (s.copyElem G c d d2 counts).2.2.base = s.base := by
  have h1 := s.boxElem_base G c d counts c.elem
  unfold State.copyElem
  generalize s.boxElem G c d counts c.elem = r at h1
  obtain ⟨e | bs, c1, s1⟩ := r
  · exact h1
  · exact (s1.storeElem_base G c1 d2 c.origin bs).trans h1

/-- Elements moved one after another read a region's flag as it stood. -/
theorem runElems_congr {one two : State → Command → Option Halt × Command × State} {P : State → Prop} (h : ∀ s c, P s → one s c = two s c)
    (hp : ∀ s c, P s → P (two s c).2.2) (n : Nat) {s : State} (hs : P s) (c : Command) : runElems one n s c = runElems two n s c := by
  induction n generalizing s c with
  | zero => rfl
  | succ n ih =>
    have h2 := hp s c hs
    rw [runElems, runElems, h s c hs]
    generalize two s c = r at h2
    obtain ⟨e | e, c1, s1⟩ := r
    · exact ih h2 c1
    · rfl

end Sys2Proof.Machine
end

section
/-! PROOFS. The steps of shuttle commands: a command's life, its boxes, exchanges and ends (R217 to R232, R272 to R275). -/

namespace Sys2Proof.Machine

/-! ## The step of a command -/

section
variable {s : State} {g seq : Nat} {G : Group} {c : Command}

/-- The command can make a step: it has not ended and its group is placed. -/
def State.LiveCmd (s : State) (g seq : Nat) (G : Group) (c : Command) : Prop := s.command? g seq = some (G, c) ∧ c.status = none ∧ G.life = .placed

/-- The command stands still. -/
def State.StillCmd (s : State) (G : Group) (c : Command) : Prop := c.pause.isSome = true ∨ s.shootHeld G c = true

/-- The command is to be cancelled and stands where it can end. -/
def State.StopsCmd (s : State) (G : Group) (c : Command) : Prop :=
  s.ceases G c = true ∧ (c.between = true ∨ 5 ≤ c.kind ∨ (c.kind = 3 ∧ c.paired = none) ∨ G.atLine c c.elem = true)

/-- The command starts or moves on. -/
def State.GoesCmd (s : State) (g seq : Nat) (G : Group) (c : Command) : Prop := s.LiveCmd g seq G c ∧ ¬s.StillCmd G c ∧ ¬s.StopsCmd G c

variable {kind : Command → Bool} {go : State → Group → Command → State}

/-- The step of a live command of its kind, by where it stands. -/
theorem State.onCommand_live (h : s.LiveCmd g seq G c) (hk : kind c = true) : s.onCommand g seq kind go =
    if c.pause.isSome || s.shootHeld G c then s
    else if s.ceases G c && (c.between || 5 ≤ c.kind || (c.kind == 3 && c.paired.isNone) || G.atLine c c.elem) then s.finishCmd g c 1
    else if !c.started then s.startCmd g G c
    else go s G c := by
  obtain ⟨hc, hn, hp⟩ := h
  rw [State.onCommand, hc]
  dsimp only
  rw [hk, hn, hp]
  rfl

theorem State.onCommand_still (h : s.LiveCmd g seq G c) (hk : kind c = true) (hs : s.StillCmd G c) : s.onCommand g seq kind go = s := by
  rw [State.onCommand_live h hk, if_pos (by rw [State.StillCmd] at hs; simpa using hs)]

theorem State.onCommand_stops (h : s.LiveCmd g seq G c) (hk : kind c = true) (hn : ¬s.StillCmd G c) (hs : s.StopsCmd G c) : s.onCommand g seq kind go = s.finishCmd g c 1 := by
  rw [State.onCommand_live h hk, if_neg (by rw [State.StillCmd] at hn; simpa using hn), if_pos (by rw [State.StopsCmd] at hs; simpa [or_assoc] using hs)]

theorem State.onCommand_goes (h : s.GoesCmd g seq G c) (hk : kind c = true) : s.onCommand g seq kind go = if c.started then go s G c else s.startCmd g G c := by
  obtain ⟨h, hn, hs⟩ := h
  rw [State.onCommand_live h hk, if_neg (by rw [State.StillCmd] at hn; simpa using hn), if_neg (by rw [State.StopsCmd] at hs; simpa [or_assoc] using hs)]
  cases c.started <;> rfl

/-! ## The kinds of commands -/

/-- The steps of commands with the kinds that they serve. -/
def cmdKinds : List ((Nat → Nat → Instr) × (Command → Prop)) := [
  (.copyDraftToBobbin, fun c => c.kind = 0 ∧ c.mode = 0), (.copyBobbinToDraft, fun c => c.kind = 0 ∧ c.mode = 1),
  (.copyDraftToDraft, fun c => c.kind = 0 ∧ 2 ≤ c.mode), (.streamFill, fun c => c.kind = 1 ∧ c.mode = 0),
  (.streamDrain, fun c => c.kind = 1 ∧ c.mode ≠ 0), (.fillBobbin, fun c => c.kind = 2 ∧ c.mode = 0),
  (.fillDraft, fun c => c.kind = 2 ∧ c.mode ≠ 0), (.beamwr, fun c => c.kind = 4), (.cancel, fun c => 5 ≤ c.kind),
  (.permxCommand, fun c => c.kind = 3 ∧ c.paired = none)]

/-- A step serves the commands of a kind. -/
def Serves (i : Nat → Nat → Instr) (s : State) (g seq : Nat) (c : Command) (go : State → Group → Command → State) : Prop :=
  ∃ kind : Command → Bool, kind c = true ∧ exec (i g seq) s = .next (s.onCommand g seq kind go)

/-- What a started PERMX without a partner does. -/
def State.seekPartner (g : Nat) (s : State) (G : Group) (c : Command) : State :=
  if !s.joined G.dev (G.dev ^^^ 2 ^ c.jbit) then s.finishCmd g c 6
  else match s.partner (G.dev ^^^ 2 ^ c.jbit) c with
    | some (H, e) => (s.putCmd g { c with paired := some (H.uid, e.seq) }).putCmd H.uid { e with paired := some (g, c.seq) }
    | none => s

theorem permx_serves (hc : s.command? g seq = some (G, c)) (hk : c.kind = 3) (hp : c.paired = none) : Serves .permxCommand s g seq c (State.seekPartner g) := by
  refine ⟨fun c => c.kind == 3, beq_iff_eq.mpr hk, ?_⟩
  show execPermxCommand g seq s = _
  unfold execPermxCommand
  rw [hc]
  dsimp only
  rw [hp]
  rfl

/-- Every step of a command but a PERMX's moves it by `goCmd`. -/
theorem moves_serve {x : (Nat → Nat → Instr) × (Command → Prop)} (hx : x ∈ cmdKinds) (hc : x.2 c) (h3 : c.kind ≠ 3) : Serves x.1 s g seq c (State.goCmd · g) := by
  simp only [cmdKinds, List.mem_cons, List.not_mem_nil, or_false] at hx
  rcases hx with rfl | rfl | rfl | rfl | rfl | rfl | rfl | rfl | rfl | rfl
  case inr.inr.inr.inr.inr.inr.inr.inr.inr => exact absurd hc.1 h3
  all_goals exact ⟨_, by simpa using hc, rfl⟩

theorem kinds_serve (hl : s.command? g seq = some (G, c)) {x : (Nat → Nat → Instr) × (Command → Prop)} (hx : x ∈ cmdKinds) (hc : x.2 c) : ∃ go, Serves x.1 s g seq c go := by
  by_cases h3 : c.kind = 3
  · simp only [cmdKinds, List.mem_cons, List.not_mem_nil, or_false] at hx
    rcases hx with rfl | rfl | rfl | rfl | rfl | rfl | rfl | rfl | rfl | rfl
    case inr.inr.inr.inr.inr.inr.inr.inr.inr => exact ⟨_, permx_serves hl hc.1 hc.2⟩
    all_goals simp [h3] at hc
  · exact ⟨_, moves_serve hx hc h3⟩

variable {i : Nat → Nat → Instr}

theorem Serves.still (hi : Serves i s g seq c go) (h : s.LiveCmd g seq G c) (hs : s.StillCmd G c) : exec (i g seq) s = .next s := by
  obtain ⟨kind, hk, he⟩ := hi
  rw [he, State.onCommand_still h hk hs]

theorem Serves.stops (hi : Serves i s g seq c go) (h : s.LiveCmd g seq G c) (hn : ¬s.StillCmd G c) (hs : s.StopsCmd G c) : exec (i g seq) s = .next (s.finishCmd g c 1) := by
  obtain ⟨kind, hk, he⟩ := hi
  rw [he, State.onCommand_stops h hk hn hs]

theorem Serves.starts (hi : Serves i s g seq c go) (h : s.GoesCmd g seq G c) (hn : c.started = false) : exec (i g seq) s = .next (s.startCmd g G c) := by
  obtain ⟨kind, hk, he⟩ := hi
  rw [he, State.onCommand_goes h hk, hn]
  rfl

theorem Serves.goes (hi : Serves i s g seq c go) (h : s.GoesCmd g seq G c) (hn : c.started = true) : exec (i g seq) s = .next (go s G c) := by
  obtain ⟨kind, hk, he⟩ := hi
  rw [he, State.onCommand_goes h hk, if_pos hn]

/-- The start of a Beam write. -/
theorem State.startCmd_beam (hm : G.mayStart c = true) (hf : c.formatOk = true) (hw : c.cwen = true → c.cwordAt + 8 ≤ G.spadsz) (hk : c.kind = 4) {c1 : Command} {s1 : State}
    (hr : s.readDrafts G c = (.ok c1, s1)) : s.startCmd g G c = if s1.beamReaders G.dev then s1.finishCmd g c1 3 else s1.putCmd g c1 := by
  have hcw : (c.cwen && decide (G.spadsz < c.cwordAt + 8)) = false := by
    cases hcw : c.cwen
    · rfl
    · rw [decide_eq_false (Nat.not_lt.mpr (hw hcw))]
      rfl
  rw [State.startCmd, hm, hf, hcw, hk, hr]
  rfl

/-- A chunk of elements and what follows it. -/
theorem State.chunk_eq {d : Draft} {one : State → Command → Option Halt × Command × State} {last : State → Command → State} {h : Option Halt} {c1 : Command} {s1 : State}
    (hr : runElems one (s.mayMove G c (G.toLine c (d.count_ - c.elem) c.elem) c.elem) s c = (h, c1, s1)) :
    s.chunk g G c d one last = h.elim (if d.count_ ≤ c1.elem then last s1 c1 else s1.putCmd g c1) (s1.haltCmd g G c1) := by
  rw [State.chunk, hr]
  cases h <;> rfl

/-! ### What a started command does -/

theorem State.goCmd_load (hm : c.mode = 0) (hk : c.kind < 3) : s.goCmd g G c = s.loadStep g G c (c.kind == 2) := by
  rw [State.goCmd, hm]
  match hc : c.kind, hk with
  | 0, _ => rfl
  | 1, _ => rfl
  | 2, _ => rfl

theorem State.goCmd_drain (hm : c.mode = 1) (hk : c.kind < 2) : s.goCmd g G c = s.drainStep g G c := by
  rw [State.goCmd, hm]
  match hc : c.kind, hk with
  | 0, _ => rfl
  | 1, _ => rfl

theorem State.goCmd_copy (hk : c.kind = 0) (hm : 2 ≤ c.mode) : s.goCmd g G c =
    s.chunk g G c (draftOf c.draft) (fun t x => t.copyElem G x (draftOf c.draft) (draftOf x.draft2) (s.regionOf G).counting) fun t x => t.finishCmd g x 0 := by
  rw [State.goCmd, hk]
  match hc : c.mode, hm with
  | m + 2, _ => rfl

theorem State.goCmd_fill (hk : c.kind = 2) (hm : c.mode ≠ 0) : s.goCmd g G c =
    s.chunk g G c (draftOf c.draft) (fun t x => t.fillElem G x (draftOf c.draft)) fun t x => t.finishCmd g x 0 := by
  rw [State.goCmd, hk]
  match hc : c.mode, hm with
  | m + 1, _ => rfl

theorem State.goCmd_beam (hk : c.kind = 4) : s.goCmd g G c =
    s.chunk g G c (draftOf c.draft) (fun t x => t.beamElem G x (draftOf c.draft)) fun t x => t.finishCmd g x 0 := by
  rw [State.goCmd, hk]
  cases c.mode <;> rfl

theorem State.goCmd_cancel (hk : 5 ≤ c.kind) : s.goCmd g G c = if G.cmds.any (fun x => x.cancel && G.names c x) then s else s.finishCmd g c 0 := by
  rw [State.goCmd]
  match hc : c.kind, hk with
  | k + 5, _ => rfl

/-- A load takes a FREE bobbin. -/
theorem State.loadStep_takes (h : c.bob = none) (fill : Bool) : s.loadStep g G c fill =
    if (G.bobs.getD c.boxBob {}).st = .free then
      (s.modBob g c.boxBob fun B => { B with st := .filling, remain := B.expect, holder := some c.seq.toNat }).putCmd g { c with bob := some c.boxBob, elem := 0, excess := false }
    else s := by
  rw [State.loadStep, h]
  dsimp only
  by_cases hf : (G.bobs.getD c.boxBob {}).st = .free
  · rw [if_pos hf, hf]
    rfl
  · rw [if_neg hf, if_pos (bne_iff_ne.mpr hf)]

/-- A drain takes a FULL bobbin. -/
theorem State.drainStep_takes (h : c.bob = none) : s.drainStep g G c =
    if (G.bobs.getD c.boxBob {}).st = .full then
      (s.modBob g c.boxBob fun B => { B with st := .draining, holder := some c.seq.toNat }).putCmd g { c with bob := some c.boxBob, elem := 0 }
    else s := by
  rw [State.drainStep, h]
  dsimp only
  by_cases hf : (G.bobs.getD c.boxBob {}).st = .full
  · rw [if_pos hf, hf]
    rfl
  · rw [if_neg hf, if_pos (bne_iff_ne.mpr hf)]

theorem State.loadStep_moves {k : Nat} (h : c.bob = some k) (fill : Bool) : s.loadStep g G c fill =
    s.chunk g G c (draftOf c.draft) (fun t x => t.loadElem G x (draftOf c.draft) k fill (t.regionOf G).counting) fun t x => t.loadOver g k x := by
  rw [State.loadStep, h]

theorem State.drainStep_moves {k : Nat} (h : c.bob = some k) : s.drainStep g G c =
    s.chunk g G c (draftOf c.draft) (fun t x => t.drainElem G x (draftOf c.draft) k) fun t x => (t.modBob g k fun B => { B with holder := none, st := .free }).nextBox g x := by
  rw [State.drainStep, h]

/-! ## Exchanges -/

/-- A PERMX whose partner's command has gone is lost. -/
theorem exec_permx_lost {h : Nat} {q : Word} (hl : s.LiveCmd g seq G c) (hp : c.paired = some (h, q)) (hpause : c.pause = none)
    (hgone : ∀ x, s.command? h q.toNat = some x → x.2.status.isSome = true) : exec (.permxCommand g seq) s = .next (s.finishCmd g c (if c.cancel then 1 else 6)) := by
  obtain ⟨hc, hst, hlife⟩ := hl
  have hnone : ((s.command? h q.toNat).bind fun x => if x.2.status.isNone then some x else none) = none := by
    cases hx : s.command? h q.toNat with
    | none => rfl
    | some x =>
      have := hgone x hx
      exact if_neg (by cases hs : x.2.status <;> simp_all)
  show execPermxCommand g seq s = _
  unfold execPermxCommand
  rw [hc]
  dsimp only
  rw [hp]
  dsimp only
  rw [hst, hpause, hlife, hnone]
  rfl

/-- Two live commands that have paired make their step. -/
theorem exec_exchange {h : Nat} {q : Word} {H : Group} {e : Command} (hl : s.LiveCmd g seq G c) (hk : c.kind = 3) (hp : c.paired = some (h, q))
    (he : s.LiveCmd h q.toNat H e) : exec (.permxExchange g seq) s = .next (s.exchange G H c e) := by
  obtain ⟨hc, hst, hlife⟩ := hl
  obtain ⟨hce, hste, hlifee⟩ := he
  show execPermxExchange g seq s = _
  unfold execPermxExchange
  rw [hc]
  dsimp only
  rw [hp, Option.bind_some, hce]
  dsimp only
  rw [hk, hst, hste, hlife, hlifee]
  rfl

section
variable {H : Group} {e : Command}

/-- An exchange stands still. -/
theorem State.permStill_iff : s.permStill G H c e = true ↔ c.pause.isSome = true ∨ e.pause.isSome = true ∨ s.shootHeld G c = true ∨ s.shootHeld H e = true ∨
    s.paused G.dev H.dev 0 = true ∨ s.paused H.dev G.dev 0 = true := by
  rw [State.permStill]
  simp only [Bool.or_eq_true, or_assoc]

theorem State.exchange_still (hs : s.permStill G H c e = true) : s.exchange G H c e = s := if_pos hs

theorem State.exchange_apart (hs : ¬s.permStill G H c e = true) (hj : s.joined G.dev H.dev = false) : s.exchange G H c e = s.finishPair G.uid c 6 H.uid e 6 := by
  rw [State.exchange, if_neg hs, hj]
  rfl

/-- The two sides have one shape. -/
def Command.sameShape (c e : Command) : Prop := c.logn = e.logn ∧ c.esize = e.esize ∧ c.lbit = e.lbit

theorem Command.sameShape_iff : (c.logn != e.logn || c.esize != e.esize || c.lbit != e.lbit) = false ↔ c.sameShape e := by
  simp [Command.sameShape, and_assoc]

theorem State.exchange_unlike (hs : ¬s.permStill G H c e = true) (hj : s.joined G.dev H.dev = true) (hn : ¬c.sameShape e) :
    s.exchange G H c e = s.finishPair G.uid c 5 H.uid e 5 := by
  have hd : (c.logn != e.logn || c.esize != e.esize || c.lbit != e.lbit) = true := by
    rw [← Bool.not_eq_false]
    exact fun h => hn (Command.sameShape_iff.mp h)
  rw [State.exchange, if_neg hs, hj, hd]
  rfl

theorem State.exchange_stops (hs : ¬s.permStill G H c e = true) (hj : s.joined G.dev H.dev = true) (hsh : c.sameShape e) (hc : c.cancel = true ∨ e.cancel = true) :
    s.exchange G H c e = s.permStop G H c e (2 ^ (c.logn - 1)) := by
  rw [State.exchange, if_neg hs, hj, Command.sameShape_iff.mpr hsh]
  exact if_pos (Bool.or_eq_true_iff.mpr hc)

theorem State.exchange_runs (hs : ¬s.permStill G H c e = true) (hj : s.joined G.dev H.dev = true) (hsh : c.sameShape e) (hc : ¬(c.cancel = true ∨ e.cancel = true))
    {stop : Option (Bool × Halt)} {k : Nat} {s1 : State} (hr : s.permRun G H c e (min (s.mayMove G c (G.toLine c (2 ^ (c.logn - 1) - c.elem) c.elem) c.elem)
      (s.mayMove H e (H.toLine e (2 ^ (c.logn - 1) - c.elem) e.elem) e.elem)) c.elem = (stop, k, s1)) :
    let s2 := (s1.putCmd G.uid (c.moved k)).putCmd H.uid (e.moved k)
    s.exchange G H c e = stop.elim (if 2 ^ (c.logn - 1) ≤ k then s2.finishPair G.uid (c.moved k) 0 H.uid (e.moved k) 0 else s2)
      (s2.permHalt G H (c.moved k) (e.moved k) (2 ^ (c.logn - 1))) := by
  rw [State.exchange, if_neg hs, hj, Command.sameShape_iff.mpr hsh]
  dsimp only
  rw [if_neg (by decide), if_neg (by decide), if_neg (fun h => hc (Bool.or_eq_true_iff.mp h)), hr]
  cases stop <;> rfl

/-! ### A cancelled exchange at a line -/

theorem Group.destOf_moved (k e : Nat) : G.destOf (c.moved k) e = G.destOf c e := rfl

theorem Group.lineBefore_moved (k e : Nat) : G.lineBefore (c.moved k) e = G.lineBefore c e := by
  induction e with
  | zero => rfl
  | succ e ih => rw [Group.lineBefore, Group.lineBefore, Group.destOf_moved, ih]

theorem Group.atLine_moved (k e : Nat) : G.atLine (c.moved k) e = G.atLine c e := by
  rw [Group.atLine, Group.atLine, Group.destOf_moved, Group.lineBefore_moved]

theorem State.permAlone_atLine (h : G.atLine c c.elem = true) (total : Nat) :
    s.permAlone G H (c.moved c.elem) e total = (none, c.moved c.elem, s) := by
  have hl : G.permLeft (c.moved c.elem) total = 0 := if_pos ((Group.atLine_moved c.elem c.elem).trans h)
  rw [State.permAlone, hl]
  rfl

/-- Two sides that both stand at a line end there. -/
theorem State.permStop_atLine (hc : G.atLine c c.elem = true) (he : H.atLine e e.elem = true) (total : Nat) :
    s.permStop G H c e total = s.finishPair G.uid (c.moved c.elem) (if c.cancel then 1 else 6) H.uid (e.moved e.elem) (if e.cancel then 1 else 6) := by
  have hboth : (if c.elem == e.elem then min (G.permLeft c total) (H.permLeft e total) else 0) = 0 := by
    rw [show G.permLeft c total = 0 from if_pos hc, Nat.zero_min]
    exact ite_self 0
  rw [State.permStop, hboth]
  dsimp only [State.permRun, Nat.add_zero]
  rw [State.permAlone_atLine hc]
  dsimp only
  rw [State.permAlone_atLine he]

end

/-- A group's region is looked up by the regions alone. -/
theorem State.regionOf_congr {t : State} (h : t.regions = s.regions) (G : Group) : t.regionOf G = s.regionOf G := by
  rw [State.regionOf, State.regionOf, State.region?, State.region?, h]

/-! ## The end of a command, and the ring -/

/-- The state after a command's end: its completion word, its CP unit, and its name gone. -/
def State.endedCmd (s : State) (g : Nat) (G : Group) (c : Command) (st : Nat) : State :=
  (match G.cpw.find? fun (x : Word × Nat) => x.1 == c.seq with
    | some (_, w) => (s.cword G c st).modWeft g w fun wf => { wf with cp := wf.cp - 1 }
    | none => s.cword G c st).modGroup g fun G => { G with cmds := G.cmds.filter (fun x => x.seq != c.seq), cpw := G.cpw.filter fun (x : Word × Nat) => x.1 != c.seq }

theorem exec_commandEnd {st : Nat} (hc : s.command? g seq = some (G, c)) (hst : c.status = some st) : exec (.commandEnd g seq) s = .next (
    if G.copy && G.cmds.length == 1 && !G.ringDead then ((s.endedCmd g G c st).dropGroup G).endNode G.rid G.node 3 else s.endedCmd g G c st) := by
  show execCommandEnd g seq s = _
  unfold execCommandEnd
  rw [hc]
  dsimp only
  rw [hst]
  rfl

theorem State.unread_watched (hw : G.watched = true) : s.unread G = if G.ringUsed then (s.ringTail G - BitVec.ofNat 32 G.head).toNat else 0 := by
  have hl : G.ringLive = true := (Bool.and_eq_true_iff.mp hw).2
  rw [State.unread, hl, Bool.and_true]

theorem exec_ringRead (hg : s.group? g = some G) (hl : G.life = .placed) (hw : G.watched = true) : exec (.shuttleRingRead g) s = .next (s.readEntry g G) := by
  refine congrArg Host.Outcome.next ?_
  rw [State.ringRead, hg]
  dsimp only
  rw [hl, hw]
  rfl

theorem State.readEntry_eq : s.readEntry g G =
    if s.unread G = 0 then s
    else if G.nent < s.unread G then s.shuttleTrap g .operand 16 0 0 (BitVec.ofNat 32 G.head) 0
    else (s.setSpad G (G.ringOff + 4) (leBytes 4 (BitVec.ofNat 32 G.head + 1 : Word).toNat)).modGroup g fun H =>
      { H with head := (BitVec.ofNat 32 G.head + 1 : Word).toNat, cmds := H.cmds ++ [s.entryOf G (BitVec.ofNat 32 G.head)] } := by
  rw [State.readEntry]
  simp only [beq_iff_eq]

end

/-- Settles O55: the life of a command by its state and kind, the exchange of two, and the end of both. -/
theorem commandEvents : Obligations.CommandEvents := by
  unfold Obligations.CommandEvents
  intro s g seq G c kinds live held stops goes runs d b B moves
  have hmoves {i : Nat → Nat → Instr} {one : State → Command → Option Halt × Command × State} {last : State → Command → State}
      (he : exec (i g seq) s = .next (s.chunk g G c d one last)) : moves i one last := by
    intro h c1 s1 hr
    rw [he, State.chunk_eq hr]
    cases h <;> rfl
  have hgo {i : Nat → Nat → Instr} {p : Command → Prop} (hi : (i, p) ∈ cmdKinds) (hr : runs) (hp : p c) (h3 : c.kind ≠ 3) :
      exec (i g seq) s = .next (s.goCmd g G c) := (moves_serve hi hp h3).goes hr.1 hr.2
  refine ⟨fun x hx hk => ⟨fun hl hh => ?still, fun hl hn hs => ?stop, fun hg hn => ?start⟩, fun hg hn hk hm hf hw c1 s1 hr => ?beam, fun hr i hi hk hm => ?load,
    fun hr i hi hk hm => ?drain, fun hr hk hm => ?copy, fun hr hk hm => ?fill, fun hr hk => ?beamwr, fun hr hk => ?cancel, fun hr hk hp => ?seek,
    fun hl hk h q hp => ⟨fun hpause hgone => exec_permx_lost hl hp hpause hgone, fun H e hce hste hlife => ?exchange⟩, fun st hc hst => ?ended, fun hG hlife hw => ?ring⟩
  case still =>
    obtain ⟨go, hi⟩ := kinds_serve hl.1 hx hk
    exact hi.still hl hh
  case stop =>
    obtain ⟨go, hi⟩ := kinds_serve hl.1 hx hk
    exact hi.stops hl hn hs
  case start =>
    obtain ⟨go, hi⟩ := kinds_serve hg.1.1 hx hk
    exact hi.starts hg hn
  case beam =>
    have hi : Serves .beamwr s g seq c (State.goCmd · g) := moves_serve (x := (.beamwr, fun c => c.kind = 4)) (by simp [cmdKinds]) hk (by rw [hk]; decide)
    exact (hi.starts hg hn).trans (congrArg Host.Outcome.next (State.startCmd_beam hm hf hw hk hr))
  case load =>
    have he : exec (i.1 g seq) s = .next (s.loadStep g G c i.2.2) := by
      simp only [List.mem_cons, List.not_mem_nil, or_false] at hi
      rcases hi with rfl | rfl | rfl
      all_goals dsimp only at hk ⊢
      · exact (hgo (p := fun c => c.kind = 0 ∧ c.mode = 0) (by simp [cmdKinds]) hr ⟨hk, hm⟩ (by omega)).trans (by rw [State.goCmd_load hm (by omega), hk]; rfl)
      · exact (hgo (p := fun c => c.kind = 1 ∧ c.mode = 0) (by simp [cmdKinds]) hr ⟨hk, hm⟩ (by omega)).trans (by rw [State.goCmd_load hm (by omega), hk]; rfl)
      · exact (hgo (p := fun c => c.kind = 2 ∧ c.mode = 0) (by simp [cmdKinds]) hr ⟨hk, hm⟩ (by omega)).trans (by rw [State.goCmd_load hm (by omega), hk]; rfl)
    exact ⟨fun hb => he.trans (congrArg _ (State.loadStep_takes hb _)), fun k hb => hmoves (he.trans (congrArg _ (State.loadStep_moves hb _)))⟩
  case drain =>
    have he : exec (i.1 g seq) s = .next (s.drainStep g G c) := by
      simp only [List.mem_cons, List.not_mem_nil, or_false] at hi
      rcases hi with rfl | rfl
      · exact (hgo (p := fun c => c.kind = 0 ∧ c.mode = 1) (by simp [cmdKinds]) hr ⟨hk, hm⟩ (by omega)).trans (congrArg _ (State.goCmd_drain hm (by omega)))
      · exact (hgo (p := fun c => c.kind = 1 ∧ c.mode ≠ 0) (by simp [cmdKinds]) hr ⟨hk, by omega⟩ (by omega)).trans (congrArg _ (State.goCmd_drain hm (by omega)))
    exact ⟨fun hb => he.trans (congrArg _ (State.drainStep_takes hb)), fun k hb => hmoves (he.trans (congrArg _ (State.drainStep_moves hb)))⟩
  case copy =>
    intro h c1 s1 hrun
    have hsame := runElems_congr (P := fun t : State => t.regions = s.regions)
      (one := fun t x => t.copyElem G x (draftOf c.draft) (draftOf x.draft2) (s.regionOf G).counting)
      (two := fun t x => t.copyElem G x (draftOf c.draft) (draftOf x.draft2) (t.regionOf G).counting)
      (fun t x ht => by rw [State.regionOf_congr ht]) (fun t x ht => (State.regions_of_base (t.copyElem_base G x _ _ _)).trans ht)
      (s.mayMove G c (G.toLine c (d.count_ - c.elem) c.elem) c.elem) rfl c
    have he := (hgo (i := .copyDraftToDraft) (p := fun c => c.kind = 0 ∧ 2 ≤ c.mode) (by simp [cmdKinds]) hr ⟨hk, hm⟩ (by omega)).trans (congrArg _ (State.goCmd_copy hk hm))
    rw [he, State.chunk_eq (hsame.trans hrun)]
    cases h <;> rfl
  case fill =>
    exact hmoves ((hgo (p := fun c => c.kind = 2 ∧ c.mode ≠ 0) (by simp [cmdKinds]) hr ⟨hk, hm⟩ (by rw [hk]; decide)).trans (congrArg _ (State.goCmd_fill hk hm)))
  case beamwr =>
    exact hmoves ((hgo (p := fun c => c.kind = 4) (by simp [cmdKinds]) hr hk (by rw [hk]; decide)).trans (congrArg _ (State.goCmd_beam hk)))
  case cancel =>
    exact (hgo (p := fun c => 5 ≤ c.kind) (by simp [cmdKinds]) hr hk (by omega)).trans (congrArg _ (State.goCmd_cancel hk))
  case seek =>
    have he := (permx_serves hr.1.1.1 hk hp).goes hr.1 hr.2
    refine ⟨fun hj => he.trans (congrArg _ (if_pos (by rw [hj]; rfl))), fun hj hn => he.trans (congrArg _ ?_), fun H e hj hn => he.trans (congrArg _ ?_)⟩
    · rw [State.seekPartner, hj, hn]
      rfl
    · rw [State.seekPartner, hj, hn]
      rfl
  case exchange =>
    have he := exec_exchange hl hk hp ⟨hce, hste, hlife⟩
    intro still same total left runs cancelled
    have hst : still ↔ s.permStill G H c e = true := State.permStill_iff.symm
    refine ⟨fun hs => he.trans (congrArg _ (State.exchange_still (hst.mp hs))), fun hs hj => he.trans (congrArg _ (State.exchange_apart (fun h => hs (hst.mpr h)) hj)),
      fun hs hj hn => he.trans (congrArg _ (State.exchange_unlike (fun h => hs (hst.mpr h)) hj hn)), fun hr hc => ?_, fun hr hc hcl hel => ?_, fun hr hc stop k s1 hrun => ?_⟩
    all_goals obtain ⟨hs, hj, hsame⟩ := hr
    · exact he.trans (congrArg _ (State.exchange_stops (fun h => hs (hst.mpr h)) hj hsame hc))
    · exact he.trans (congrArg _ ((State.exchange_stops (fun h => hs (hst.mpr h)) hj hsame hc).trans (State.permStop_atLine hcl hel _)))
    · rw [he, State.exchange_runs (fun h => hs (hst.mpr h)) hj hsame hc hrun]
      cases stop <;> rfl
  case ended =>
    have he := exec_commandEnd hc hst
    refine ⟨fun hn => he.trans (congrArg _ (if_neg ?_)), fun hcopy hlen hdead => he.trans (congrArg _ (if_pos ?_))⟩
    · rw [hn]
      exact Bool.false_ne_true
    · rw [hcopy, hlen, hdead]
      rfl
  case ring => exact ⟨State.unread_watched hw, (exec_ringRead hG hlife hw).trans (congrArg _ State.readEntry_eq)⟩

end Sys2Proof.Machine
end

section
/-! PROOFS. `cmdw`, `permx`, `shcancel` and `mcast` (R217, R218, R228, R232, R269 to R271, R275). -/

namespace Sys2Proof.Machine

section
variable {s : State} {c : Ctx} {f : Fields}

/-! ## Entries of the command ring -/

/-- The first of the eight scalars that a word names. -/
def entryBase (f : Fields) : Nat := match f.a with | .scalar n => n.toNat | _ => 0

/-- A ring that has room for one more entry. -/
def State.RingRoom (s : State) (c : Ctx) : Prop := (s.ringTail (s.groupNow c) - s.ringHead (s.groupNow c)).toNat < (s.groupNow c).nent

theorem State.publishEntry_off (hh : c.hold = none) (h : ¬(s.groupNow c).ringcfg.getLsbD 28 = true) : s.publishEntry c f = s.trap c .operand 17 := by
  refine if_pos ?_
  rw [Ctx.heldAs_none hh, Bool.eq_false_iff.mpr h]
  rfl

theorem State.publishEntry_full (h : (s.groupNow c).ringcfg.getLsbD 28 = true) (hr : ¬s.RingRoom c) : s.publishEntry c f = s.holdP c .cmdw 0 0 := by
  refine (if_neg ?_).trans (if_neg hr)
  rw [h, Bool.not_true, Bool.and_false]
  exact Bool.false_ne_true

theorem State.publishEntry_room (h : (s.groupNow c).ringcfg.getLsbD 28 = true) (hr : s.RingRoom c) :
    s.publishEntry c f =
      (((((s.raiseEpoch c.dev c.core).setSpad (s.groupNow c) ((s.groupNow c).entryAt (s.ringTail (s.groupNow c)))
        ((List.range 8).flatMap fun i => leBytes 4 (c.s s (entryBase f + i)).toNat)).setSpad (s.groupNow c) (s.groupNow c).ringOff
          (leBytes 4 (s.ringTail (s.groupNow c) + 1).toNat)).modG c fun G => { G with cpw := G.cpw ++ [(s.ringTail (s.groupNow c), c.r.w)] }).finishLate c
        (match f.d with | .none => [] | d => c.laneWrites d fun _ => (s.ringTail (s.groupNow c)).toNat)) := by
  refine (if_neg ?_).trans (if_pos hr)
  rw [h, Bool.not_true, Bool.and_false]
  exact Bool.false_ne_true

/-! ## shcancel -/

/-- The range of sequence numbers that a `shcancel` names: with a count of 0, every command up to the last that has been read. -/
def State.cancelRange (s : State) (c : Ctx) (first count : Nat) : Nat × Nat :=
  if count == 0 then
    (match (s.groupNow c).cmds with | x :: _ => (x.seq.toNat, (BitVec.ofNat 32 (s.groupNow c).head - x.seq).toNat) | [] => (0, 0))
  else (first, count)

/-- What a `shcancel` does with its range. -/
def State.cancelNamed (s : State) (c : Ctx) (a n : Nat) : State :=
  if (s.groupNow c).cmds.any (inSeqs a n) then (s.cancelCmds c.r.g (inSeqs a n)).holdP c .shcancel (a + 2 ^ 32 * n) 0
  else (s.cancelCmds c.r.g (inSeqs a n)).finishLate c []

/-- The meaning of `shcancel`. -/
def shcancelBody (f : Fields) (c : Ctx) (s : State) : State :=
  if c.heldAs .shcancel then
    if (s.groupNow c).cmds.any (fun x => x.cancel && inSeqs (c.arg % 2 ^ 32) (c.arg / 2 ^ 32) x) then s else s.finishLate c []
  else if 256 < (c.once s f.b).toNat then s.trap c .operand 11
  else match (s.ringReadAll c.r.g).cancelRange c (c.once s f.a).toNat (c.once s f.b).toNat with
    | (a, n) => (s.ringReadAll c.r.g).cancelNamed c a n

theorem execShcancel_eq (f : Fields) (s : State) : execShcancel f s = issue .shcancel f (whereSelected (shcancelBody f)) s := by
  unfold execShcancel
  refine congrArg (fun b => issue .shcancel f b s) (funext fun c => funext fun s => ?_)
  unfold whereSelected shcancelBody
  dsimp only
  generalize s.ringReadAll c.r.g = u
  rfl

theorem shcancelBody_ended (hh : c.heldAs .shcancel = true)
    (h : ∀ x ∈ (s.groupNow c).cmds, x.cancel = true → c.arg / 2 ^ 32 ≤ (x.seq - BitVec.ofNat 32 (c.arg % 2 ^ 32)).toNat) :
    shcancelBody f c s = s.finishLate c [] := by
  refine (if_pos hh).trans (if_neg ?_)
  rw [List.any_eq_true]
  rintro ⟨x, hx, hb⟩
  rw [Bool.and_eq_true, inSeqs, decide_eq_true_eq] at hb
  exact Nat.not_lt.mpr (h x hx hb.1) hb.2

/-! ## mcast -/

theorem castSet_reserved (x : DWord) : (bitsOf (loWord x).toNat 15 12 != 0 || bitsOf (loWord x).toNat 31 28 != 0) = true ↔
    x.extractLsb' 12 4 ≠ 0 ∨ x.extractLsb' 28 4 ≠ 0 := by
  have hlo : (loWord x).toNat = x.toNat % 2 ^ 32 := by
    simp [loWord]
  have hbits : ∀ k, k = 12 ∨ k = 28 → (bitsOf (loWord x).toNat (k + 3) k = 0 ↔ x.extractLsb' k 4 = 0) := by
    intro k hk
    rw [← BitVec.toNat_inj, BitVec.extractLsb'_toNat, Nat.shiftRight_eq_div_pow, bitsOf, hlo]
    rcases hk with rfl | rfl
    · show x.toNat % 2 ^ 32 / 2 ^ 12 % 2 ^ 4 = 0 ↔ x.toNat / 2 ^ 12 % 2 ^ 4 = 0
      omega
    · show x.toNat % 2 ^ 32 / 2 ^ 28 % 2 ^ 4 = 0 ↔ x.toNat / 2 ^ 28 % 2 ^ 4 = 0
      omega
  rw [Bool.or_eq_true, bne_iff_ne, bne_iff_ne]
  exact or_congr (not_congr (hbits 12 (.inl rfl))) (not_congr (hbits 28 (.inr rfl)))

/-! ### What the threads of an `mcast` read -/

section
variable {t : State}

/-- A register is read by the clock and the counter behind the free values. -/
theorem Ctx.reg_congr (h : t.base = s.base) (c : Ctx) (k : RegKey) : c.reg t k = c.reg s k := by
  have hheld : c.held t k = c.held s k := by rw [Ctx.held, Ctx.held, State.tick_of_base h]
  rw [Ctx.reg, Ctx.reg, hheld, State.tick_of_base h, State.clk_of_base h]

theorem Ctx.pd_congr (h : t.base = s.base) (c : Ctx) (n i : Nat) : c.pd t n i = c.pd s n i := by rw [Ctx.pd, Ctx.pd, Ctx.reg_congr h]

/-- An operand other than a special register. -/
def ordinaryOperand : Operand → Bool
  | .special _ => false
  | _ => true

theorem eq_special_of_not_ordinary {o : Operand} (h : ordinaryOperand o = false) : ∃ n, o = .special n := by
  cases o with
  | special n => exact ⟨n, rfl⟩
  | _ => exact absurd (show true = false from h) Bool.noConfusion

theorem Ctx.elem_congr (h : t.base = s.base) (c : Ctx) (m : Widen) (w : Nat) {o : Operand} (ho : ordinaryOperand o = true) (i r j : Nat) : c.elem t m w o i r j = c.elem s m w o i r j := by
  have hs : ∀ n, c.s t n = c.s s n := fun n => Ctx.reg_congr h c _
  have hv : ∀ n i, c.v t n i = c.v s n i := fun n i => Ctx.reg_congr h c _
  cases o with
  | special n => exact absurd (show false = true from ho) Bool.false_ne_true
  | vec n => simp only [Ctx.elem, hv]
  | lutVec n k => simp only [Ctx.elem, hv]
  | scalar n => simp only [Ctx.elem, hs]
  | lutScalar n k => simp only [Ctx.elem, hs]
  | pred n => simp only [Ctx.elem, Ctx.pd_congr h]
  | _ => rfl

/-- A special register names no member: its high half is 0. -/
theorem Ctx.val64_special (c : Ctx) (s : State) (n : BitVec 10) (i : Nat) : hiWord (c.val64 s (.special n) i) = 0 := by
  have hlt : (c.special s n.toNat i).toNat / 2 ^ 32 = 0 := Nat.div_eq_of_lt (c.special s n.toNat i).isLt
  apply BitVec.eq_of_toNat_eq
  rw [hiWord, BitVec.extractLsb'_toNat, Nat.shiftRight_eq_div_pow, Ctx.val64, Ctx.elem, BitVec.toNat_ofNat]
  show (c.special s n.toNat i).toNat % 2 ^ 64 / 2 ^ 32 % 2 ^ 32 = 0
  omega

/-- An `mcast` whose mask is 0 sends its bytes nowhere. -/
theorem State.castThread_none (c : Ctx) (f : Fields) (z w : Nat) (lo lo' : Word) (i : Nat) : s.castThread c f z w lo 0 i = s.castThread c f z w lo' 0 i := by
  have hm : ((List.range 32).filter fun i => (0 : Word).getLsbD i) = [] := by simp
  rw [State.castThread, State.castThread]
  simp only [hm, List.map_nil, List.foldl_nil]

theorem State.castThread_congr (h : t.base = s.base) (c : Ctx) (f : Fields) (z w k i : Nat) (u : State) :
    u.castThread c f z w (loWord (c.val64 t f.b k)) (hiWord (c.val64 t f.b k)) i = u.castThread c f z w (loWord (c.val64 s f.b k)) (hiWord (c.val64 s f.b k)) i := by
  cases ho : ordinaryOperand f.b
  · obtain ⟨n, hn⟩ := eq_special_of_not_ordinary ho
    rw [hn, Ctx.val64_special, Ctx.val64_special]
    exact State.castThread_none c f z w _ _ i
  · rw [Ctx.val64, Ctx.val64, Ctx.elem_congr h c .int 2 ho]

end

theorem State.castTo_base (s : State) (c : Ctx) (f : Fields) (i : Nat) (parts : List (Nat × List Byte)) (d k : Nat) : (s.castTo c f i parts d k).base = s.base := by
  unfold State.castTo
  split
  · rfl
  · exact foldl_base (fun s _ => s.enqueue_base _ _ _ _ _ _) _ s

theorem State.castThread_base (s : State) (c : Ctx) (f : Fields) (z w : Nat) (lo mask : Word) (i : Nat) : (s.castThread c f z w lo mask i).2.base = s.base := by
  have h1 := s.checkAccess_base c (moveQuery f true z (elemCount f w)) (c.addr s f.d 0 i)
  unfold State.castThread
  generalize s.checkAccess c (moveQuery f true z (elemCount f w)) (c.addr s f.d 0 i) = r at h1
  obtain ⟨e | es, s1⟩ := r
  · exact h1
  dsimp only at h1 ⊢
  split
  · exact h1
  · exact (foldl_base (fun s _ => s.castTo_base c f i _ _ _) _ s1).trans h1

theorem State.release_base (s : State) (d c level : Nat) : (s.release d c level).base = s.base := by
  unfold State.release
  split
  · rfl
  · rfl
  · exact s.publishAll_base d c
  · exact (State.drain_base _ d).trans (s.publishAll_base d c)

theorem State.openCast_base (s : State) (c : Ctx) : (s.openCast c).base = s.base := by
  unfold State.openCast
  split <;> rfl

/-- Threads that work alike wherever a predicate holds, which their work keeps, come to the same. -/
theorem performs_congr {one two : State → Nat → Thr × State} {P : State → Prop} (h : ∀ s i, P s → one s i = two s i) (hp : ∀ s i, P s → P (two s i).2)
    (ts : List Nat) {s : State} (hs : P s) : performs one ts s = performs two ts s := by
  induction ts generalizing s with
  | nil => rfl
  | cons i ts ih =>
    have h2 := hp s i hs
    rw [performs, performs, h s i hs]
    generalize two s i = r at h2
    obtain ⟨x, s1⟩ := r
    cases x
    case ok ws => exact congrArg (Option.map fun r : List (RegKey × Word) × State => (ws ++ r.1, r.2)) (ih h2)
    all_goals rfl

/-- The end of an `mcast` whose threads are all performed. -/
theorem runThreads_finishCast {one : State → Nat → Thr × State} {ts : List Nat} {u v : State} {m : Mask} {ws : List (RegKey × Word)} (c : Ctx)
    (h : performs one ts u = some (ws, v)) : (runThreads one ts { s := u, done := m }).finishCast c =
      (({ v with casts := modIf (fun (x : Cast) => x.n == c.out) (fun (x : Cast) => { x with closed := true }) v.casts } : State).advance c).castEnd c.out := by
  obtain ⟨k, hk⟩ := runThreads_performs (r := { s := u, done := m }) h
  rw [hk]
  rfl

end

/-- Settles O45: the words on the ring by whether it is on and has room, `shcancel` by its range, and the threads of an `mcast`. -/
theorem commandWords : Obligations.CommandWords := by
  unfold Obligations.CommandWords
  intro k room on entry kindOk first count range set z
  refine ⟨fun i hi => ?ring, ?kind, ?many, ?cancel, fun s f c hr hs hh hc => ?resumed, ?reserved, ?cast⟩
  case ring =>
    simp only [List.mem_cons, List.not_mem_nil, or_false] at hi
    rcases hi with rfl | rfl
    · exact ⟨Does.of_def execCmdw (fun _ _ => rfl) (fun _ _ => rfl) fun _ _ _ hs hh h => (selected_eq hs _ _).trans (State.publishEntry_off hh h.2),
        Does.of_def execCmdw (fun _ _ => rfl) (fun _ _ => rfl) fun _ _ _ hs hh ⟨_, h, hr⟩ => (selected_eq hs _ _).trans (State.publishEntry_room h hr),
        Does.of_def execCmdw (fun _ _ => rfl) (fun _ _ => rfl) fun _ _ _ hs hh ⟨_, h, hr⟩ => (selected_eq hs _ _).trans (State.publishEntry_full h hr)⟩
    · have hk : ∀ {f c s}, kindOk .permx f c s → ((c.s s (entryBase f)).toNat % 16 != 3) ≠ true := fun h he => bne_iff_ne.mp he (h rfl)
      exact ⟨Does.of_def execPermx (fun _ _ => rfl) (fun _ _ => rfl) fun _ _ _ hs hh h =>
          (selected_eq hs _ _).trans ((if_neg (hk h.1)).trans (State.publishEntry_off hh h.2)),
        Does.of_def execPermx (fun _ _ => rfl) (fun _ _ => rfl) fun _ _ _ hs hh ⟨hi, h, hr⟩ =>
          (selected_eq hs _ _).trans ((if_neg (hk hi)).trans (State.publishEntry_room h hr)),
        Does.of_def execPermx (fun _ _ => rfl) (fun _ _ => rfl) fun _ _ _ hs hh ⟨hi, h, hr⟩ =>
          (selected_eq hs _ _).trans ((if_neg (hk hi)).trans (State.publishEntry_full h hr))⟩
  case kind =>
    exact Does.of_def execPermx (fun _ _ => rfl) (fun _ _ => rfl) fun _ _ _ hs _ h => (selected_eq hs _ _).trans (if_pos (bne_iff_ne.mpr h))
  case many =>
    exact Does.of_def execShcancel (fun _ _ => rfl) execShcancel_eq fun _ _ _ hs hh h =>
      (whereSelected_of_ne hs).trans ((if_neg (Ctx.not_heldAs hh)).trans (if_pos h))
  case cancel =>
    refine Does.of_def execShcancel (fun _ _ => rfl) execShcancel_eq fun f c s hs hh h =>
      (whereSelected_of_ne hs).trans ((if_neg (Ctx.not_heldAs hh)).trans ((if_neg (Nat.not_lt.mpr h)).trans ?_))
    have hr : (s.ringReadAll c.r.g).cancelRange c (c.once s f.a).toNat (c.once s f.b).toNat = range c (s.ringReadAll c.r.g) (first f c s, count f c s) := by
      simp only [range, State.cancelRange, beq_iff_eq]
      generalize s.ringReadAll c.r.g = u
      rfl
    rw [hr]
    rfl
  case resumed =>
    exact (exec_resumes execShcancel (fun _ _ => rfl) execShcancel_eq hr).trans (congrArg _ ((whereSelected_of_ne hs).trans (shcancelBody_ended hh hc)))
  case reserved =>
    exact Does.of_def execMcast (fun _ _ => rfl) (fun _ _ => rfl) fun _ _ _ hs _ h => (selected_eq hs _ _).trans (if_pos ((castSet_reserved _).mpr h))
  case cast =>
    refine DoesThreads.of_def execMcast (fun _ _ => rfl) (fun _ _ => rfl) fun f c s hs hh ⟨h1, h2⟩ ws u hp => (selected_eq hs _ _).trans ((if_neg ?_).trans ?_)
    · exact fun h => ((castSet_reserved _).mp h).elim (fun h => h h1) fun h => h h2
    · rw [(Ctx.todo_fresh hh f).1]
      have hsame := performs_congr (P := fun t : State => t.base = s.base)
        (one := fun t i => t.castThread c f (z f).1 (z f).2 (loWord (set f c t)) (hiWord (set f c t)) i)
        (two := fun t i => t.castThread c f (z f).1 (z f).2 (loWord (set f c s)) (hiWord (set f c s)) i)
        (fun t i ht => State.castThread_congr ht c f _ _ _ i t) (fun t i ht => (t.castThread_base c f _ _ _ _ i).trans ht) (accessing f c.sel)
        (s := (s.openCast c).release c.dev c.core (relLevel f)) ((State.release_base _ _ _ _).trans (s.openCast_base c))
      exact runThreads_finishCast (ws := ws) c (hsame.symm.trans hp)

end Sys2Proof.Machine
end

section
/-! PROOFS. What holds between two moves: canonical memory and no issuer (R114, R115, R132, R310, R380). -/

namespace Sys2Proof.Machine

variable (s : State)

/-! ## The ends of issues -/

@[simp] theorem State.writeLate_base (c : Ctx) (ws : List (RegKey × Word)) : (s.writeLate c ws).base = s.base := by
  unfold State.writeLate
  split <;> exact s.modWeft_base _ _ _

@[simp] theorem State.completeAt_base (c : Ctx) (due : Nat) : (s.completeAt c due).base = s.base := by
  unfold State.completeAt
  split <;> rfl

@[simp] theorem State.advance_base (c : Ctx) : (s.advance c).base = s.base := s.modWeft_base _ _ _

@[simp] theorem State.finishLate_base (c : Ctx) (ws : List (RegKey × Word)) : (s.finishLate c ws).base = s.base :=
  (State.completeAt_base _ _ _).trans ((State.advance_base _ _).trans (s.writeLate_base c ws))

/-! ## The heads of the queues -/

@[simp] theorem State.grantRegs_base (c : Ctx) (n : Nat) (ws : List (RegKey × Word)) : (s.grantRegs c n ws).base = s.base :=
  (State.finishLate_base _ _ _).trans (s.modWeft_base _ _ _)

@[simp] theorem State.regHead_base (d core : Nat) : (s.regHead d core).base = s.base := by
  unfold State.regHead
  split
  · rfl
  split
  · split
    · exact State.grantRegs_base _ _ _ _
    · rfl
  · rfl

@[simp] theorem State.growSpad_base (G : Group) (n : Nat) : (s.growSpad G n).base = s.base := rfl

@[simp] theorem State.coverSpad_base (d core : Nat) : (s.coverSpad d core).base = s.base := by
  refine foldl_base (fun s r => ?_) _ s
  split
  · split
    · exact State.finishLate_base _ _ _
    · rfl
  · rfl

@[simp] theorem State.spadHead_base (d core : Nat) : (s.spadHead d core).base = s.base := by
  unfold State.spadHead
  split
  · rfl
  split
  · split
    · exact (State.coverSpad_base _ _ _).trans (State.finishLate_base _ _ _)
    · rfl
  · rfl

@[simp] theorem State.serveHeads_base : s.serveHeads.base = s.base :=
  foldl_base (fun s (k : Core) => (foldl_base (fun s _ => s.spadHead_base k.dev k.n) k.spq _).trans (foldl_base (fun s _ => s.regHead_base k.dev k.n) k.regq s)) s.cores s

/-! ## Between two moves -/

@[simp] theorem State.parkIdle_base : s.parkIdle.base = s.base := by
  refine foldl_base (fun s T => ?_) _ s
  split
  · rfl
  · refine foldl_base (fun s r => ?_) _ s
    split <;> rfl

theorem State.tidy_issuer : s.tidy.issuer = none := by
  have h1 := ({ s with issuer := none } : State).serveHeads_base
  have h2 := (State.trimRecs_base _).trans h1
  have h3 := (State.parkIdle_base _).trans h2
  exact State.issuer_of_base h3

/-- Settles O2: the last thing a step does leaves the state so, whatever the move came to. -/
theorem stepKeepsInv : Obligations.StepKeepsInv := by
  intro s t _ h
  unfold step at h
  split at h
  case h_1 u _ =>
    cases h
    exact ⟨u.wf_tidy, u.tidy_issuer⟩
  all_goals cases h

end Sys2Proof.Machine
end

section
/-! PROOFS. Arming, launching, placing, saving, restoring and retiring (R85 to R117, R408 to R428, R435). -/

namespace Sys2Proof.Machine

section
variable {s : State}

/-! ## Arming -/

theorem eq_mk_of_fst {α β : Type} {q : α × β} {a : α} (h : q.1 = a) : q = (a, q.2) := Prod.ext h rfl

section
variable {d k c : Nat} {rcb : DWord} {s1 : State} (hroot : s.rootEntry d k = some (rcb, c)) (hok : s.dcheck d c rcb 128 false = (.ok (), s1))
include hroot hok

/-- What the dobby does with the POST word of a root-table entry that it can read. -/
theorem State.arm_checked : s.arm d k =
    if s1.vnum d c (rcb + 0x38) 1 % 2 == 0 || (s1.regions.any fun R => R.dev == d && R.ctx == c && R.rcb == rcb && (R.pause.isSome || R.retry)) then s1
    else
      let s2 := s1.dput d c (rcb + 0x38) 63 0 0
      if s2.vnum d c (rcb + 0x22) 1 % 16 == 0 && !s2.liveRcb d c rcb then s2.beginRegion d c rcb none 0 0 else s2.dput d c (rcb + 0x40) 3 1 3 := by
  have hsome : ∀ y : State, (match some (rcb, c) with | none => s | some (rcb, c) => y) = y := fun _ => rfl
  unfold State.arm
  rw [hroot]
  refine (hsome _).trans ?_
  rw [hok]

theorem State.arm_unset (h : s1.vnum d c (rcb + 0x38) 1 % 2 = 0) : s.arm d k = s1 := by
  rw [State.arm_checked hroot hok, if_pos (by rw [h]; exact Bool.true_or _)]

theorem State.arm_set (h : s1.vnum d c (rcb + 0x38) 1 % 2 = 1) (hr : ∀ R ∈ s1.regions, R.pause = none ∧ R.retry = false) : s.arm d k =
    let s2 := s1.dput d c (rcb + 0x38) 63 0 0
    if s2.vnum d c (rcb + 0x22) 1 % 16 = 0 ∧ s2.liveRcb d c rcb = false then s2.beginRegion d c rcb none 0 0 else s2.dput d c (rcb + 0x40) 3 1 3 := by
  have hno : (s1.regions.any fun R => R.dev == d && R.ctx == c && R.rcb == rcb && (R.pause.isSome || R.retry)) = false := by
    rw [List.any_eq_false]
    intro R hR
    obtain ⟨hp, hre⟩ := hr R hR
    rw [hp, hre, Option.isSome_none, Bool.or_self, Bool.and_false]
    exact Bool.false_ne_true
  rw [State.arm_checked hroot hok, if_neg (by rw [hno, h]; exact Bool.false_ne_true)]
  simp only [Bool.and_eq_true, beq_iff_eq, Bool.not_eq_true']

end

section
variable {d k c : Nat} {rcb : DWord} {s1 : State} (hroot : s.rootEntry d k = some (rcb, c)) (hok : s.dcheck d c rcb 128 false = (.ok (), s1))
include hroot hok

theorem exec_arm_unset (h : s1.vnum d c (rcb + 0x38) 1 % 2 = 0) : exec (.arm d k) s = .next s1 := congrArg Host.Outcome.next (State.arm_unset hroot hok h)

theorem exec_arm_set (h : s1.vnum d c (rcb + 0x38) 1 % 2 = 1) (hr : ∀ R ∈ s1.regions, R.pause = none ∧ R.retry = false) : exec (.arm d k) s = .next (
    let s2 := s1.dput d c (rcb + 0x38) 63 0 0
    if s2.vnum d c (rcb + 0x22) 1 % 16 = 0 ∧ s2.liveRcb d c rcb = false then s2.beginRegion d c rcb none 0 0 else s2.dput d c (rcb + 0x40) 3 1 3) :=
  congrArg Host.Outcome.next (State.arm_set hroot hok h hr)

end

/-! ## Launching -/

section
variable {r n : Nat} {R : Region} {N : Node} (hR : s.region? r = some R) (hN : R.node? n = some N)
include hR hN

/-- A node's work starts: it is READY in a region that runs. -/
def Starts (R : Region) (N : Node) : Prop := R.retry = false ∧ N.st = 1 ∧ R.st = 1 ∧ R.killed = false

theorem State.nodeLaunch_starts (h : Starts R N) : s.nodeLaunch r n =
    match N.kind with
    | 0 => if N.len == 0 then s.endNode r n 3 else s.launchGrid r n N
    | 1 => (s.setNodeSt r n 2).binEnd r n
    | 2 => if N.len == 0 then s.endNode r n 3 else s.launchCopy r n R N
    | 3 => s.reserveJq r n N.entry
    | 4 => s.startTourn r n N.entry
    | _ => (s.setNodeSt r n 2).beginRegion R.dev R.ctx N.entry (some (r, n)) (s.childDie R.dev) (R.depth + 1) := by
  obtain ⟨hre, hst, hrst, hk⟩ := h
  rw [State.nodeLaunch, hR]
  dsimp only
  rw [hre, hN]
  dsimp only
  rw [hst, hrst, hk]
  rfl

theorem State.nodeLaunch_rests (hre : R.retry = false) (h : ¬Starts R N) : s.nodeLaunch r n = s := by
  have hb : (N.st != 1 || R.st != 1 || R.killed) = true := by
    refine Decidable.byContradiction fun hb => ?_
    simp only [Bool.not_eq_true, Bool.or_eq_false_iff, bne_eq_false_iff_eq] at hb
    exact h ⟨hre, hb.1.1, hb.1.2, hb.2⟩
  rw [State.nodeLaunch, hR]
  dsimp only
  rw [hre, hN]
  dsimp only
  rw [hb]
  rfl

theorem State.expireBatch_at {e : Nat} (he : N.expiry = some e) : s.expireBatch r n = if e < s.clk then s.closeBatch r n else s := by
  have hn : s.node? r n = some N := by rw [State.node?, hR]; exact hN
  rw [State.expireBatch, hn]
  dsimp only
  rw [he]

theorem State.gridComplete_over (hk : N.kind = 0) (hst : N.st = 2) (hf : N.inFlight = 0) (hp : s.gridPublished r n = true)
    (ht : (s.endNode r n (if N.failed then 4 else 3)).tourns = []) : s.gridComplete r n = s.endNode r n (if N.failed then 4 else 3) := by
  rw [State.gridComplete, hR]
  dsimp only
  rw [hN]
  dsimp only
  refine (if_pos (by rw [hk, hst, hf, hp]; rfl)).trans ?_
  rw [ht]
  rfl

theorem State.gridComplete_runs (hf : N.inFlight ≠ 0) : s.gridComplete r n = s := by
  rw [State.gridComplete, hR]
  dsimp only
  rw [hN]
  exact if_neg (by simp [hf])

end

/-! ## Placement and pre-emption -/

/-- Candidates kept with what they are compared by. -/
theorem map_fst_filterMap {α β γ : Type} (f : α → Option β) (g : α → β → γ) (xs : List α) :
    (xs.filterMap fun x => (f x).map fun v => (v, g x v)).map Prod.fst = xs.filterMap f := by
  rw [List.map_filterMap]
  refine congrArg (fun h => xs.filterMap h) (funext fun x => ?_)
  cases f x <;> rfl

section
variable {d die : Nat} {R : Region} {W : Waiting} {rest : List (Region × Waiting)} (hh : s.heads d die = (R, W) :: rest)
include hh

theorem State.groupPlace_first {t : State} (ht : s.placeHead R W deviceCores = some t) : s.groupPlace d die = if W.saved.isNone then t else s := by
  have hf : s.firstHead d die = some (W, t) := by
    rw [State.firstHead, hh, List.findSome?_cons]
    dsimp only
    rw [ht]
    rfl
  rw [State.groupPlace, hf]

theorem State.groupPlace_alone (hr : rest = []) (ht : s.placeHead R W deviceCores = none) : s.groupPlace d die = s := by
  have hf : s.firstHead d die = none := by
    rw [State.firstHead, hh, hr, List.findSome?_cons]
    dsimp only
    rw [ht]
    rfl
  rw [State.groupPlace, hf]

theorem State.preempt_room (h : ∃ x ∈ s.rooms R W, x.2 s.afterSaves = true) : s.preempt d die = s := by
  rw [State.preempt, hh]
  exact if_pos (List.any_eq_true.mpr h)

theorem State.preempt_one {v : List Nat} {t : State} (hn : ∀ x ∈ s.rooms R W, x.2 s.afterSaves = false)
    (hv : (s.rooms R W).filterMap (fun x => s.afterSaves.victims R.prio d x.1 x.2 (s.afterSaves.groups.length + 1) []) = [v]) (ht : s.takeSlots v = some t) :
    s.preempt d die = if v.all s.settled then v.foldl (fun s g => s.stopGroup g) t else s := by
  have hno : ((s.rooms R W).any fun x => x.2 s.afterSaves) = false := List.any_eq_false.mpr fun x hx => by rw [hn x hx]; exact Bool.false_ne_true
  rw [State.preempt, hh]
  dsimp only
  rw [hno, if_neg Bool.false_ne_true]
  have hm := map_fst_filterMap (fun x : List Nat × (State → Bool) => s.afterSaves.victims R.prio d x.1 x.2 (s.afterSaves.groups.length + 1) [])
    (fun x v => (s.weftsOf v, (R.dies.findIdx? fun k => (x.1.headD 0) / 64 == k).getD 0, x.1.foldl (fun n c => n + s.coreLoad d c) 0)) (s.rooms R W)
  rw [hv] at hm
  obtain ⟨y, hy, rfl⟩ := List.map_eq_singleton_iff.mp hm
  rw [hy]
  dsimp only [List.foldl_nil]
  rw [ht]
  rfl

end

/-! ## Retiring, saving and restoring -/

section
variable {g : Nat} {G : Group} (hG : s.group? g = some G)
include hG

theorem State.groupRetire_of_group : s.groupRetire g = if s.canRetire G then s.retire G else s := by rw [State.groupRetire, hG]

theorem State.saveComplete_saves {R : Region} {k : Nat} (hR : s.region? G.rid = some R) (hk : G.slot = some k) (hl : G.life = .saving)
    (ho : ∀ o ∈ (s.core G.dev G.core).ops, o.g ≠ g ∨ o.form = .topen) (hd : ∀ x ∈ s.deliveries, x.op.g ≠ g) (hf : G.finishing = false) :
    s.saveComplete g = (((s.modCore G.dev G.core fun c => { c with stall := none }).saveImage R G k).modGroup g fun G =>
      { G with life := .saved, kept := s.spadBytes G 0 G.spadsz }).modRegion G.rid fun R =>
        { R with queue := R.queue ++ [{ node := G.node, gid := G.gid, age := G.age, rival := G.rival, batch := G.batch, tries := G.relaunched, saved := some g }] } := by
  have hops : ((s.core G.dev G.core).ops.any fun o => o.g == g && o.form != .topen) = false := by
    rw [List.any_eq_false]
    intro o hmem hb
    rw [Bool.and_eq_true, beq_iff_eq, bne_iff_ne] at hb
    exact (ho o hmem).elim (fun h => h hb.1) fun h => hb.2 h
  have hdel : (s.deliveries.any fun x => x.op.g == g) = false := List.any_eq_false.mpr fun x hx hb => hd x hx (beq_iff_eq.mp hb)
  rw [State.saveComplete, hG]
  dsimp only
  rw [hl, hops, hdel, hf, hR, hk]
  rfl

theorem State.saveComplete_other (hl : G.life ≠ .saving) : s.saveComplete g = s := by
  rw [State.saveComplete, hG]
  exact if_pos (by simp [hl])

variable {R : Region} (hR : s.region? G.rid = some R)
include hR

theorem State.restore_none (h : s.firstHead R.dev R.die = none) : s.restore g = s := by
  rw [State.restore, hG]
  dsimp only
  rw [hR]
  dsimp only
  rw [h]

theorem State.restore_head {W : Waiting} {t : State} (h : s.firstHead R.dev R.die = some (W, t)) :
    s.restore g = if W.saved.elim false fun h => (s.unitOf G).contains h then t else s := by
  rw [State.restore, hG]
  dsimp only
  rw [hR]
  dsimp only
  rw [h]
  dsimp only
  cases W.saved <;> rfl

end

/-! ## READYPOST -/

theorem State.readypost_node {d k r n : Nat} {va : DWord} {R : Region} {N : Node} (hst : (s.dev d).st = 6) (hn : s.nodeAt d k va = some (r, n)) (hR : s.region? r = some R)
    (hN : s.node? r n = some N) : s.readypost d k va =
    if s.modeBit d k 1 = true ∧ R.st = 1 ∧ R.killed = false ∧ N.st = 0 ∧ N.isRival = false then (s.modNode r n fun N => { N with readyAt := s.clk }).setNodeSt r n 1
    else s.modDev d fun D => { D with mode := Sparse.put D.mode (4 * k + 2) (Sparse.get D.mode (4 * k + 2) ||| 0x10000) } := by
  rw [State.readypost, if_neg (by rw [hst]; decide), hn]
  dsimp only
  rw [hR, hN]
  dsimp only
  simp only [Bool.and_eq_true, beq_iff_eq, Bool.not_eq_true', and_assoc]

end

/-- Settles O56: what the dobby does with a root-table entry, a node, the heads of its queue, and a group. -/
theorem dobbyEvents : Obligations.DobbyEvents := by
  unfold Obligations.DobbyEvents
  intro s d die k r n g
  refine ⟨fun rcb x hroot hok => ?arm, fun R N hR hN => ?node, fun R W rest hh => ?heads, fun G hG => ?group, fun va R N hst hn hR hN => ?post⟩
  case arm =>
    have hq := eq_mk_of_fst hok
    exact ⟨fun h => exec_arm_unset hroot hq h, fun h hr => exec_arm_set hroot hq h hr⟩
  case node =>
    intro starts s1
    have hl (h : starts) : exec (.nodeLaunch r n) s = .next _ := congrArg Host.Outcome.next (State.nodeLaunch_starts hR hN h)
    refine ⟨fun hre => ?_, fun hre h => congrArg Host.Outcome.next (State.nodeLaunch_rests hR hN hre h), fun h hk hlen => (hl h).trans ?_, fun h hk hlen => (hl h).trans ?_,
      fun h hk => (hl h).trans ?_, fun h hk hlen => (hl h).trans ?_, fun h hk => (hl h).trans ?_, fun h hk => (hl h).trans ?_, fun h hk => (hl h).trans ?_,
      fun e he => congrArg Host.Outcome.next (State.expireBatch_at hR hN he),
      fun hk hst hf hp ht => congrArg Host.Outcome.next (State.gridComplete_over hR hN hk hst hf hp ht), fun hf => congrArg Host.Outcome.next (State.gridComplete_runs hR hN hf)⟩
    · refine congrArg Host.Outcome.next ?_
      rw [State.nodeLaunch, hR]
      exact if_pos hre
    · rcases hk with hk | hk <;> rw [hk, hlen] <;> rfl
    · rw [hk]
      exact congrArg Host.Outcome.next (if_neg (by simpa using hlen))
    · rw [hk]
      rfl
    · rw [hk]
      exact congrArg Host.Outcome.next (if_neg (by simpa using hlen))
    · rw [hk]
      rfl
    · rw [hk]
      rfl
    · match hN5 : N.kind, hk with
      | m + 5, _ => rfl
  case heads =>
    exact ⟨fun t ht => congrArg Host.Outcome.next (State.groupPlace_first hh ht), fun hr ht => congrArg Host.Outcome.next (State.groupPlace_alone hh hr ht),
      fun h => congrArg Host.Outcome.next (State.preempt_room hh h), fun v t hn hv ht => congrArg Host.Outcome.next (State.preempt_one hh hn hv ht)⟩
  case group =>
    refine ⟨congrArg Host.Outcome.next (State.groupRetire_of_group hG), fun R k hR hk => ⟨fun hl ho hd hf => congrArg Host.Outcome.next (State.saveComplete_saves hG hR hk hl ho hd hf),
      fun hl => congrArg Host.Outcome.next (State.saveComplete_other hG hl)⟩, fun R hR => ⟨fun hf => congrArg Host.Outcome.next (State.restore_none hG hR hf), fun W t hf => ?_⟩⟩
    have hr : exec (.restore g) s = .next _ := congrArg Host.Outcome.next (State.restore_head hG hR hf)
    refine ⟨fun h hs => hr.trans ?_, fun hs => hr.trans ?_⟩
    · rw [hs]
      rfl
    · rw [hs]
      rfl
  case post => exact congrArg Host.Outcome.next (State.readypost_node hst hn hR hN)

end Sys2Proof.Machine
end

section
/-! PROOFS. A trap whose record has no page: the group stands still with the trap pending (R393, R399). -/

namespace Sys2Proof.Machine

/-- A placed group of a region that runs. -/
def unpagedGroup : Group := { uid := 1, dev := 0, core := 0, ctx := 0, rid := 1, node := 0, ngroups := 1 }

/-- Its region, whose RCB has been read. -/
def unpagedRegion : Region := { rid := 1, dev := 0, rcb := 0x3000, ctx := 0, st := 1, seen := true, nodes := [{ idx := 0, st := 2, len := 1, wefts := 1, inFlight := 1 }] }

/-- A device on which the group runs, without any translation: the page of the region's fault buffer has none. -/
def unpaged : State := { devs := [{ id := 0, st := 6 }], uid := 2, groups := [unpagedGroup], regions := [unpagedRegion] }

/-- The trap that its group takes. -/
def unpagedTrap : TrapInfo := { cls := .operand, reason := 12 }

/-- The record of the trap meets a page without a translation. -/
theorem unpaged_record_stops : unpaged.dfault = none ∧ (unpaged.trapTaken 1 unpagedTrap).dfault.isSome = true := by decide +kernel

/-- The step is taken back: no fault of the dobby is left in the state, and the group is still there, with its trap pending. -/
theorem unpaged_trap_waits : (unpaged.takeTrap 1 unpagedTrap).dfault = none ∧ ((unpaged.takeTrap 1 unpagedTrap).group? 1).map (fun G => G.pend) = some (some unpagedTrap) := by
  decide +kernel

/-- Refutes O33: `takeTrap` undoes a step that meets a page without a translation, so its result holds no fault of the dobby then either (`dfault`), and the
group that it leaves standing with the trap pending has not been killed. -/
theorem not_trapTaken : ¬ Obligations.TrapTaken := by
  unfold Obligations.TrapTaken
  intro h
  obtain ⟨hdone, hpend⟩ := unpaged_trap_waits
  obtain ⟨hmem, hkilled, -⟩ := h unpaged 1 unpagedTrap unpagedGroup unpagedRegion (by decide +kernel) (by decide +kernel) hdone
  rw [hkilled 1 hmem] at hpend
  cases hpend

end Sys2Proof.Machine
end


section
/-! PROOFS. What a special register shows, and what a write of one changes (R48, R189, R217). -/

namespace Sys2Proof.Machine

/-! ## Where special registers stand -/

/-- What a special register holds once a word has been written to it. -/
def srNew (k : Nat) (old x : Word) : Word :=
  match k with
  | 0x010 | 0x011 | 0x01B | 0x01C | 0x01E | 0x106 | 0x107 | 0x108 | 0x109 | 0x10B | 0x10D | 0x110 => x
  | 0x017 => ringNorm x
  | 0x019 => old &&& ~~~(x &&& 2)
  | 0x01A => old &&& ~~~(x &&& 3)
  | 0x01D => x &&& 0xFFFFFFF0
  | 0x01F => old &&& ~~~(x &&& 1)
  | 0x100 => x &&& 1
  | 0x101 => x &&& 0xFFFF0000
  | 0x102 => x &&& 0x00FFFFFF
  | 0x104 => x &&& 0xFFC00000
  | 0x105 => x &&& 0x007FFFFF
  | 0x10A => old &&& ~~~(x &&& 0x100)
  | 0x10C | 0x10F => x &&& 0xFFFFF000
  | _ => old

/-- The registers that a context holds; 0 for every other number. -/
def Context.sr (C : Context) (k : Nat) : Word :=
  match k with
  | 0x01A => C.accstat.setWidth 32
  | 0x01F => BitVec.ofNat 32 C.twinstat.toNat
  | 0x100 => BitVec.ofNat 32 C.dbgen.toNat
  | 0x10A => C.fltstat
  | k => C.base k

/-- The registers of a weft that `wrsr` writes; 0 for every other number. -/
def Weft.sr (w : Weft) (k : Nat) : Word :=
  match k with
  | 0x10B => w.epc
  | 0x10C => loWord w.eseg
  | 0x10D => hiWord w.eseg
  | _ => 0

/-- The registers of a group that `wrsr` writes; 0 for every other number. -/
def Group.sr (G : Group) (k : Nat) : Word :=
  match k with
  | 0x017 => ringNorm G.ringcfg
  | 0x019 => BitVec.ofNat 32 (G.trd.running.toNat + 2 * G.tdfail.toNat)
  | _ => 0

/-- A group apart from its wefts and from what a write of a special register changes. -/
def Group.plain (G : Group) : Group := { G.shell with ringcfg := 0, ringUsed := false, head := 0, tdfail := false }

/-- What registers that nothing writes show of a weft. -/
def Weft.plain (w : Weft) : Nat × Nat × Nat × Bool × Word := (w.wid, w.lane, w.held, w.priv, w.ecode)

/-- What registers show of a scope: its round, the rival's index, and the number of rivals that are still in it. -/
def placeIn (x : Tourn × Rival) : Nat × Nat × Nat := (x.1.round, x.2.idx, (x.1.rivals.filter fun r => (r.st == 1 || r.st == 3) && !r.killed).length)

/-- The states agree on every special register that nothing writes, as the path in `c` reads them. -/
structure State.Alike (s t : State) (c : Ctx) : Prop where
  group : (t.group? c.r.g).map Group.plain = (s.group? c.r.g).map Group.plain
  weft : (t.weft? c.r.g c.r.w).map Weft.plain = (s.weft? c.r.g c.r.w).map Weft.plain
  place : ∀ G, (t.tournOf G).map placeIn = (s.tournOf G).map placeIn
  rest : t.regions = s.regions ∧ t.clk = s.clk ∧ t.devs = s.devs

theorem State.Alike.refl (s : State) (c : Ctx) : s.Alike s c := ⟨rfl, rfl, fun _ => rfl, rfl, rfl, rfl⟩

theorem State.Alike.trans {s t u : State} {c : Ctx} (h1 : s.Alike t c) (h2 : t.Alike u c) : s.Alike u c :=
  ⟨h2.group.trans h1.group, h2.weft.trans h1.weft, fun G => (h2.place G).trans (h1.place G),
    h2.rest.1.trans h1.rest.1, h2.rest.2.1.trans h1.rest.2.1, h2.rest.2.2.trans h1.rest.2.2⟩

/-- The states agree on what the register `k` shows, if it is one that `wrsr` can write. -/
structure State.AlikeAt (s t : State) (c : Ctx) (k : Nat) : Prop where
  group : (t.group? c.r.g).map (fun G => G.sr k) = (s.group? c.r.g).map fun G => G.sr k
  weft : (t.weft? c.r.g c.r.w).map (fun w => w.sr k) = (s.weft? c.r.g c.r.w).map fun w => w.sr k
  ctx : (t.ctx c.dev c.ctx).sr k = (s.ctx c.dev c.ctx).sr k

theorem State.AlikeAt.refl (s : State) (c : Ctx) (k : Nat) : s.AlikeAt s c k := ⟨rfl, rfl, rfl⟩

theorem State.AlikeAt.trans {s t u : State} {c : Ctx} {k : Nat} (h1 : s.AlikeAt t c k) (h2 : t.AlikeAt u c k) : s.AlikeAt u c k :=
  ⟨h2.group.trans h1.group, h2.weft.trans h1.weft, h2.ctx.trans h1.ctx⟩

/-- Two places alike in what registers show of them. -/
theorem placeIn_cases {x y : Option (Tourn × Rival)} (h : x.map placeIn = y.map placeIn) :
    (x = none ∧ y = none) ∨ ∃ a b, x = some a ∧ y = some b ∧ placeIn a = placeIn b := by
  cases x with
  | none => exact .inl ⟨rfl, Option.map_eq_none_iff.mp h.symm⟩
  | some a =>
    obtain ⟨b, hb, hab⟩ := Option.map_eq_some_iff.mp h.symm
    exact .inr ⟨a, b, rfl, hb, hab.symm⟩

theorem State.ngroupsOf_plain {s t : State} {G H : Group} (h : H.plain = G.plain) (hr : t.regions = s.regions) : t.ngroupsOf H = s.ngroupsOf G := by
  have h1 : H.rid = G.rid := (congrArg Group.rid h :)
  have h2 : H.node = G.node := (congrArg Group.node h :)
  have h3 : H.ngroups = G.ngroups := (congrArg Group.ngroups h :)
  simp only [State.ngroupsOf, State.node?, State.region?, h1, h2, h3, hr]

theorem State.tournOf_plain (s : State) {G H : Group} (h : H.plain = G.plain) : s.tournOf H = s.tournOf G := by
  have h1 : H.rid = G.rid := (congrArg Group.rid h :)
  have h2 : H.node = G.node := (congrArg Group.node h :)
  have h3 : H.rival = G.rival := (congrArg Group.rival h :)
  simp only [State.tournOf, h1, h2, h3]

/-- A special register reads alike in states that agree on it. -/
theorem State.special_alike {s t : State} {c : Ctx} {k : Nat} {G : Group} {w : Weft} (hG : s.group? c.r.g = some G) (hw : s.weft? c.r.g c.r.w = some w)
    (h : s.Alike t c) (hk : s.AlikeAt t c k) : t.special c k 0 = s.special c k 0 := by
  obtain ⟨H, hH, hplain⟩ := Option.map_eq_some_iff.mp (h.group.trans (congrArg _ hG))
  obtain ⟨x, hx, hweft⟩ := Option.map_eq_some_iff.mp (h.weft.trans (congrArg _ hw))
  obtain ⟨hr, hclk, hdevs⟩ := h.rest
  have hgsr : H.sr k = G.sr k := by simpa [hG, hH] using hk.group
  have hwsr : x.sr k = w.sr k := by simpa [hw, hx] using hk.weft
  have hcsr := hk.ctx
  have hn := State.ngroupsOf_plain (s := s) (t := t) hplain hr
  have hp := placeIn_cases ((h.place H).trans (congrArg _ (s.tournOf_plain hplain)))
  have hdc : t.devClk = s.devClk := by
    funext d
    simp only [State.devClk, State.dev, hclk, hdevs]
  simp only [Weft.plain, Prod.mk.injEq] at hweft
  obtain ⟨h1, h2, h3, h4, h5⟩ := hweft
  have g1 : H.gid = G.gid := (congrArg Group.gid hplain :)
  have g2 : H.core = G.core := (congrArg Group.core hplain :)
  have g3 : H.dev = G.dev := (congrArg Group.dev hplain :)
  have g4 : H.nrec = G.nrec := (congrArg Group.nrec hplain :)
  have g5 : H.recseq = G.recseq := (congrArg Group.recseq hplain :)
  have g6 : H.spadsz = G.spadsz := (congrArg Group.spadsz hplain :)
  have g7 : H.ntiles = G.ntiles := (congrArg Group.ntiles hplain :)
  have g8 : H.tiles = G.tiles := (congrArg Group.tiles hplain :)
  simp only [State.special, hG, hH, hw, hx, Option.getD_some, h1, h2, h3, h4, h5, g1, g2, g3, g4, g5, g6, g7, g8, hn, hdc]
  -- each number shows what the states share, a field of the group, one of the weft, or one of the context
  split
  case h_13 | h_14 | h_15 =>
    obtain ⟨ha, hb⟩ | ⟨a, b, ha, hb, hab⟩ := hp
    · rw [ha, hb]
    · simp only [placeIn, Prod.mk.injEq] at hab
      simp only [ha, hb, hab]
  all_goals simp_all [Group.sr, Weft.sr, Context.sr]

end Sys2Proof.Machine
end


section
/-! PROOFS. Each write of a special register: the one it names, and every other (R48, R189, R217). -/

namespace Sys2Proof.Machine

/-! ## Words -/

theorem loWord_pairOf (a b : Word) : loWord (pairOf a b) = a := by
  simp only [loWord, pairOf, BitVec.extractLsb'_append_eq_of_add_le (show 0 + 32 ≤ 32 by decide)]
  exact BitVec.extractLsb'_eq_self
theorem hiWord_pairOf (a b : Word) : hiWord (pairOf a b) = b := by
  simp only [hiWord, pairOf, BitVec.extractLsb'_append_eq_of_le (show 32 ≤ 32 by decide)]
  exact BitVec.extractLsb'_eq_self
@[simp] theorem loWord_withLo (x : DWord) (v : Word) : loWord (withLo x v) = v := loWord_pairOf v _
@[simp] theorem hiWord_withLo (x : DWord) (v : Word) : hiWord (withLo x v) = hiWord x := hiWord_pairOf v _
@[simp] theorem loWord_withHi (x : DWord) (v : Word) : loWord (withHi x v) = loWord x := loWord_pairOf _ v
@[simp] theorem hiWord_withHi (x : DWord) (v : Word) : hiWord (withHi x v) = v := hiWord_pairOf _ v

/-- NENT - 1 is at least 3 once it has been read so. -/
theorem ringNorm_ringNorm (x : Word) : ringNorm (ringNorm x) = ringNorm x := by
  by_cases h : x.extractLsb' 20 8 < 3
  · have h3 : ((x &&& 0x100FFFFF) ||| 0x00300000).extractLsb' 20 8 = 3 := by
      rw [BitVec.extractLsb'_or, BitVec.extractLsb'_and, show (0x100FFFFF : Word).extractLsb' 20 8 = 0#8 by decide, BitVec.and_zero]
      decide
    have hm : ((x &&& 0x100FFFFF) ||| 0x00300000) &&& 0x1FFFFFFF = (x &&& 0x100FFFFF) ||| 0x00300000 := by
      rw [BitVec.and_or_distrib_right, BitVec.and_assoc]
      rfl
    rw [show ringNorm x = (x &&& 0x100FFFFF) ||| 0x00300000 from if_pos h, ringNorm, h3, if_neg (by decide), hm]
  · have hx : (x &&& 0x1FFFFFFF).extractLsb' 20 8 = x.extractLsb' 20 8 := by
      rw [BitVec.extractLsb'_and, show (0x1FFFFFFF : Word).extractLsb' 20 8 = BitVec.allOnes 8 by decide, BitVec.and_allOnes]
    rw [show ringNorm x = x &&& 0x1FFFFFFF from if_neg h, ringNorm, hx, if_neg h, BitVec.and_assoc]
    rfl

/-- A single bit of a word. -/
theorem and_one (v : Word) : v &&& 1 = BitVec.ofNat 32 (v.getLsbD 0).toNat := by
  rw [show (1 : Word) = BitVec.twoPow 32 0 by decide, BitVec.and_twoPow]
  cases v.getLsbD 0 <;> decide

theorem tdfail_cleared (r t : Bool) (v : Word) (h : v.getLsbD 1 = true) :
    BitVec.ofNat 32 (r.toNat + 2 * t.toNat) &&& ~~~(v &&& 2) = BitVec.ofNat 32 (r.toNat + 2 * false.toNat) := by
  rw [show (2 : Word) = BitVec.twoPow 32 1 by decide, BitVec.and_twoPow, if_pos h]
  cases r <;> cases t <;> decide

theorem and_not_bit (x v : Word) {i : Nat} (h : v.getLsbD i = false) : x &&& ~~~(v &&& BitVec.twoPow 32 i) = x := by
  rw [BitVec.and_twoPow, if_neg (by simp [h])]
  exact BitVec.and_allOnes

theorem twinstat_cleared (t : Bool) (v : Word) (h : v.getLsbD 0 = true) :
    BitVec.ofNat 32 t.toNat &&& ~~~(v &&& 1) = BitVec.ofNat 32 false.toNat := by
  rw [show (1 : Word) = BitVec.twoPow 32 0 by decide, BitVec.and_twoPow, if_pos h]
  cases t <;> decide

theorem accstat_cleared (a : BitVec 2) (v : Word) :
    a.setWidth 32 &&& ~~~(v &&& 3) = (a &&& ~~~(v.extractLsb' 0 2)).setWidth 32 := by
  refine BitVec.eq_of_getLsbD_eq fun i hi => ?_
  by_cases h2 : i < 2
  · obtain rfl | rfl : i = 0 ∨ i = 1 := by omega
    · simp
    · simp
  · simp [h2, BitVec.getLsbD_of_ge a i (by omega)]

theorem dropped_cleared {n : Nat} (hn : n < 256) (d : Bool) (v : Word) (h : v.getLsbD 8 = true) :
    BitVec.ofNat 32 (n + 256 * d.toNat) &&& ~~~(v &&& 0x100) = BitVec.ofNat 32 (n + 256 * false.toNat) := by
  have key : ∀ (m : Fin 256) (b : Bool), BitVec.ofNat 32 (m + 256 * b.toNat) &&& ~~~(0x100 : Word) = BitVec.ofNat 32 m := by decide +kernel
  rw [show (0x100 : Word) = BitVec.twoPow 32 8 by decide, BitVec.and_twoPow, if_pos h]
  exact key ⟨n, hn⟩ d

end Sys2Proof.Machine
end


section
/-! PROOFS. A write of a special register changes the one it names alone (R189). -/

namespace Sys2Proof.Machine

/-- What a write of a special register leaves of a weft: its paths and registers. -/
def Weft.files (w : Weft) : List Path × Sparse 32 × Sparse 32 × Sparse 16 := (w.paths, w.v, w.s, w.p)

/-- The state `t` is `s` with the value `v` written to the special register `n`, as the path in `c` reads them. -/
structure State.Wrote (s t : State) (c : Ctx) (n : Nat) (v : Word) : Prop where
  alike : s.Alike t c
  others : ∀ k, k ≠ n → s.AlikeAt t c k
  value : t.special c n 0 = srNew n (s.special c n 0) v
  files : (t.weft? c.r.g c.r.w).map Weft.files = (s.weft? c.r.g c.r.w).map Weft.files
  mem : t.mem = s.mem

/-- A write that changes nothing. -/
theorem State.Wrote.refl {s : State} {c : Ctx} {n : Nat} {v : Word} (h : srNew n (s.special c n 0) v = s.special c n 0) : s.Wrote s c n v :=
  ⟨State.Alike.refl s c, fun k _ => State.AlikeAt.refl s c k, h.symm, rfl, rfl⟩

/-! ## Registers of the context -/

theorem State.ctx_modCtx (s : State) (d k : Nat) (f : Context → Context) (hf : ∀ C, (f C).dev = C.dev ∧ (f C).id = C.id) :
    (s.modCtx d k f).ctx d k = f (s.ctx d k) := by
  refine (congrArg (Option.getD · _) (find?_upsert (fun x : Context => x.dev == d && x.id == k) _ f ?_ (fun x hx => ?_) s.ctxs)).trans rfl
  · simp [hf]
  · simpa [hf] using hx

/-- A write of a register of the context. -/
theorem State.Wrote.modCtx {s : State} {c : Ctx} {n : Nat} {v : Word} {f : Context → Context} (hf : ∀ C, (f C).dev = C.dev ∧ (f C).id = C.id)
    (hread : ∀ s : State, s.special c n 0 = (s.ctx c.dev c.ctx).sr n)
    (hval : ∀ C, (f C).sr n = srNew n (C.sr n) v) (hother : ∀ C k, k ≠ n → (f C).sr k = C.sr k) : s.Wrote (s.modCtx c.dev c.ctx f) c n v where
  alike := ⟨rfl, rfl, fun _ => rfl, rfl, rfl, rfl⟩
  others k hk := ⟨rfl, rfl, (congrArg (Context.sr · k) (s.ctx_modCtx _ _ f hf)).trans (hother _ k hk)⟩
  value := by
    rw [hread, hread, s.ctx_modCtx _ _ f hf, hval]
  files := rfl
  mem := rfl

/-! ## Registers of the weft -/

/-- What shows no weft in a group. -/
theorem Group.plain_shell {G H : Group} (h : H.shell = G.shell) : H.plain = G.plain := by rw [Group.plain, h, Group.plain]

theorem Group.sr_shell {G H : Group} (h : H.shell = G.shell) (k : Nat) : H.sr k = G.sr k := by
  have h1 : H.ringcfg = G.ringcfg := (congrArg Group.ringcfg h :)
  have h2 : H.trd.running = G.trd.running := (congrArg (fun G => G.trd.running) h :)
  have h3 : H.tdfail = G.tdfail := (congrArg Group.tdfail h :)
  simp only [Group.sr, h1, h2, h3]

/-- What depends on a group's shell alone is shown alike by groups of the same shell. -/
theorem map_of_shell {α : Type} {x y : Option Group} (h : x.map Group.shell = y.map Group.shell) {k : Group → α}
    (hk : ∀ {G H : Group}, H.shell = G.shell → k H = k G) : x.map k = y.map k := by
  cases y with
  | none => rw [Option.map_eq_none_iff.mp h]
  | some G =>
    obtain ⟨H, rfl, hs⟩ := Option.map_eq_some_iff.mp h
    exact congrArg some (hk hs)

/-- A change of the weft shows in the weft alone. -/
theorem Frame.alike {s t : State} {c : Ctx} (h : Frame s t c) (hw : (t.weft? c.r.g c.r.w).map Weft.plain = (s.weft? c.r.g c.r.w).map Weft.plain)
    (hp : ∀ G, (t.tournOf G).map placeIn = (s.tournOf G).map placeIn) : s.Alike t c :=
  ⟨map_of_shell (h.groups _) Group.plain_shell, hw, hp, (congrArg State.regions h.rest :), (congrArg State.clk h.rest :), (congrArg State.devs h.rest :)⟩

theorem Frame.alikeAt {s t : State} {c : Ctx} (h : Frame s t c) {k : Nat}
    (hw : (t.weft? c.r.g c.r.w).map (fun w => w.sr k) = (s.weft? c.r.g c.r.w).map fun w => w.sr k) : s.AlikeAt t c k :=
  ⟨map_of_shell (h.groups _) fun hs => Group.sr_shell hs k, hw, by rw [h.ctx_eq]⟩

theorem State.modW_weft? (s : State) (c : Ctx) (f : Weft → Weft) (hf : ∀ w : Weft, (f w).wid = w.wid) :
    (s.modW c f).weft? c.r.g c.r.w = (s.weft? c.r.g c.r.w).map f :=
  State.weft?_modWeft s c.r.g c.r.w f fun w hw => (hf w).trans hw

theorem State.modW_tourns (s : State) (c : Ctx) (f : Weft → Weft) : (s.modW c f).tourns = s.tourns := State.modWeft_tourns ..

theorem State.tournOf_congr {s t : State} (h : t.tourns = s.tourns) (G : Group) : t.tournOf G = s.tournOf G := by
  simp only [State.tournOf, h]

/-- A change of the weft that no register shows but those that `wrsr` writes. -/
theorem State.Alike.modW (s : State) (c : Ctx) {f : Weft → Weft} (hf : ∀ w : Weft, (f w).plain = w.plain) : s.Alike (s.modW c f) c := by
  have hwid (w : Weft) : (f w).wid = w.wid := congrArg Prod.fst (hf w)
  refine (Frame.modW s c f hwid).alike ?_ fun G => by rw [State.tournOf_congr (s.modW_tourns c f)]
  rw [s.modW_weft? c f hwid, Option.map_map]
  exact congrArg (Option.map · _) (funext hf)

theorem State.AlikeAt.modW (s : State) (c : Ctx) {f : Weft → Weft} {k : Nat} (hwid : ∀ w : Weft, (f w).wid = w.wid) (hf : ∀ w : Weft, (f w).sr k = w.sr k) :
    s.AlikeAt (s.modW c f) c k := by
  refine (Frame.modW s c f hwid).alikeAt ?_
  rw [s.modW_weft? c f hwid, Option.map_map]
  exact congrArg (Option.map · _) (funext hf)

/-- A write of a register of the weft. -/
theorem State.Wrote.modW {s : State} {c : Ctx} {n : Nat} {v : Word} {w : Weft} {f : Weft → Weft} (hw : s.weft? c.r.g c.r.w = some w)
    (hf : ∀ w : Weft, (f w).plain = w.plain) (hfiles : ∀ w : Weft, (f w).files = w.files) (hread : ∀ (s : State) (w : Weft), s.weft? c.r.g c.r.w = some w → s.special c n 0 = w.sr n)
    (hval : ∀ w : Weft, (f w).sr n = srNew n (w.sr n) v) (hother : ∀ (w : Weft) (k : Nat), k ≠ n → (f w).sr k = w.sr k) :
    s.Wrote (s.modW c f) c n v where
  alike := State.Alike.modW s c hf
  others k hk := State.AlikeAt.modW s c (fun w => congrArg Prod.fst (hf w)) fun w => hother w k hk
  value := by
    rw [hread s w hw, hread _ (f w) ((s.modW_weft? c f fun w => congrArg Prod.fst (hf w)).trans (congrArg (Option.map f) hw)), hval]
  files := by
    rw [s.modW_weft? c f fun w => congrArg Prod.fst (hf w), Option.map_map]
    exact congrArg (Option.map · _) (funext hfiles)
  mem := s.modW_mem c f

/-! ## Registers of the group -/

/-- A write of a register of the group. -/
theorem State.Wrote.modG {s : State} {c : Ctx} {n : Nat} {v : Word} {G : Group} {f : Group → Group} (hG : s.group? c.r.g = some G)
    (hf : ∀ G, (f G).plain = G.plain ∧ (f G).wefts = G.wefts ∧ (f G).trd.weft = G.trd.weft)
    (hread : ∀ (s : State) (G : Group), s.group? c.r.g = some G → s.special c n 0 = G.sr n)
    (hval : ∀ G : Group, (f G).sr n = srNew n (G.sr n) v) (hother : ∀ (G : Group) (k : Nat), k ≠ n → (f G).sr k = G.sr k) :
    s.Wrote (s.modG c f) c n v := by
  have huid (G : Group) : (f G).uid = G.uid := (congrArg Group.uid (hf G).1 :)
  have hunit (G : Group) : (f G).unit = G.unit := (congrArg Group.unit (hf G).1 :)
  have hgroup : (s.modG c f).group? c.r.g = (s.group? c.r.g).map f := s.group?_modGroup c.r.g f huid
  have hweft : (s.modG c f).weft? c.r.g c.r.w = s.weft? c.r.g c.r.w :=
    s.weft?_modGroup c.r.g f (fun G => ⟨huid G, hunit G, (hf G).2⟩) _ _
  refine ⟨⟨?_, by rw [hweft], fun _ => rfl, rfl, rfl, rfl⟩, fun k hk => ⟨?_, by rw [hweft], rfl⟩, ?_, by rw [hweft], rfl⟩
  · rw [hgroup, Option.map_map]
    exact congrArg (Option.map · _) (funext fun G => (hf G).1)
  · rw [hgroup, Option.map_map]
    exact congrArg (Option.map · _) (funext fun G => hother G k hk)
  · rw [hread s G hG, hread _ (f G) (hgroup.trans (congrArg (Option.map f) hG)), hval]

/-! ## Every register -/

/-- The value of `%fltstat` below its DROPPED bit. -/
def Context.counted (C : Context) : Nat := C.faults.length % 16 + 16 * (C.unread % 16)

theorem Context.fltstat_eq (C : Context) : C.fltstat = BitVec.ofNat 32 (C.counted + 256 * C.dropped.toNat) := rfl

theorem State.setRing_facts (s : State) (v : Word) (G : Group) : (s.setRing v G).plain = G.plain ∧ (s.setRing v G).wefts = G.wefts ∧
    (s.setRing v G).trd = G.trd ∧ (s.setRing v G).ringcfg = ringNorm v ∧ (s.setRing v G).tdfail = G.tdfail := by
  unfold State.setRing
  dsimp only
  split <;> exact ⟨rfl, rfl, rfl, rfl, rfl⟩

theorem State.setRing_sr (s : State) (v : Word) (G : Group) (k : Nat) (hk : k ≠ 0x017) : (s.setRing v G).sr k = G.sr k := by
  obtain ⟨-, -, htrd, -, htd⟩ := s.setRing_facts v G
  unfold Group.sr
  split
  · exact absurd rfl hk
  · rw [htrd, htd]
  · rfl

/-- A write changes the register it names as `srNew` says, and no other. -/
theorem State.writeSpecial_wrote {s : State} {c : Ctx} {G : Group} {w : Weft} (hG : s.group? c.r.g = some G) (hw : s.weft? c.r.g c.r.w = some w)
    (n : Nat) (v : Word) : s.Wrote (s.writeSpecial c n v) c n v := by
  simp only [State.writeSpecial]
  split
  case h_3 =>
    refine State.Wrote.modG hG (fun G => ?_) (fun s G h => ?_) (fun G => ?_) (fun G k hk => s.setRing_sr v G k hk)
    · obtain ⟨h1, h2, h3, -⟩ := s.setRing_facts v G
      exact ⟨h1, h2, congrArg _ h3⟩
    · simp only [State.special, h, Option.getD_some, Group.sr]
    · obtain ⟨-, -, -, h4, -⟩ := s.setRing_facts v G
      exact (congrArg ringNorm h4).trans (ringNorm_ringNorm v)
  case h_4 => 
    split
    case isTrue hv =>
      refine State.Wrote.modG hG (fun G => ⟨rfl, rfl, rfl⟩) (fun s G h => ?_) (fun G => (tdfail_cleared G.trd.running G.tdfail v hv).symm) (fun G k hk => ?_)
      · simp only [State.special, h, Option.getD_some, Group.sr]
      · unfold Group.sr
        split
        · rfl
        · exact absurd rfl hk
        · rfl
    case isFalse hv => exact State.Wrote.refl (and_not_bit (i := 1) _ v (by simpa using hv))
  case h_26 => exact State.Wrote.refl (by unfold srNew; split <;> simp_all)
  case h_10 =>
    split
    case isTrue hv =>
      refine State.Wrote.modCtx (fun _ => ⟨rfl, rfl⟩) (fun _ => rfl) (fun C => (twinstat_cleared C.twinstat v hv).symm) (fun C k hk => ?_)
      unfold Context.sr
      split
      case h_2 => exact absurd rfl hk
      all_goals rfl
    case isFalse hv => exact State.Wrote.refl (and_not_bit (i := 0) _ v (by simpa using hv))
  case h_20 =>
    split
    case isTrue hv =>
      refine State.Wrote.modCtx (fun _ => ⟨rfl, rfl⟩) (fun _ => rfl) (fun C => ?_) (fun C k hk => ?_)
      · exact (dropped_cleared (n := C.counted) (by unfold Context.counted; omega) C.dropped v hv).symm
      · unfold Context.sr
        split
        case h_4 => exact absurd rfl hk
        all_goals rfl
    case isFalse hv => exact State.Wrote.refl (and_not_bit (i := 8) _ v (by simpa using hv))
  case h_21 | h_22 | h_23 =>
    refine State.Wrote.modW hw (fun _ => rfl) (fun _ => rfl) (fun s w h => ?_) (fun w => ?_) (fun w k hk => ?_)
    · simp only [State.special, h, Option.getD_some, Weft.sr]
    · simp [Weft.sr, srNew]
    · unfold Weft.sr
      split <;> simp_all
  case h_5 =>
    refine State.Wrote.modCtx (fun _ => ⟨rfl, rfl⟩) (fun _ => rfl) (fun C => (accstat_cleared C.accstat v).symm) (fun C k hk => ?_)
    unfold Context.sr
    split
    case h_1 => exact absurd rfl hk
    all_goals rfl
  case h_11 =>
    refine State.Wrote.modCtx (fun _ => ⟨rfl, rfl⟩) (fun _ => rfl) (fun C => (and_one v).symm) (fun C k hk => ?_)
    unfold Context.sr
    split
    case h_3 => exact absurd rfl hk
    all_goals rfl
  -- the words of the 64-bit fields
  all_goals
    refine State.Wrote.modCtx (fun _ => ⟨rfl, rfl⟩) (fun _ => rfl) (fun C => ?_) (fun C k hk => ?_)
    · simp [Context.sr, Context.base, srNew]
    · unfold Context.sr
      split
      case h_5 =>
        unfold Context.base
        split <;> simp_all
      all_goals rfl

end Sys2Proof.Machine
end


section
/-! PROOFS. `wrsr` (R189, R217). -/

namespace Sys2Proof.Machine

/-! ## Several writes -/

/-- A write changes what the registers show as `srNew` says. -/
theorem State.Wrote.special {s t : State} {c : Ctx} {n : Nat} {v : Word} {G : Group} {w : Weft} (h : s.Wrote t c n v) (hG : s.group? c.r.g = some G)
    (hw : s.weft? c.r.g c.r.w = some w) (k : Nat) : t.special c k 0 = if n == k then srNew k (s.special c k 0) v else s.special c k 0 := by
  by_cases hk : n = k
  · subst hk
    rw [if_pos (beq_self_eq_true n), h.value]
  · rw [if_neg (by simpa using hk), State.special_alike hG hw h.alike (h.others k (Ne.symm hk))]

/-- Writes of special registers one after another. -/
def State.writeSpecials (s : State) (c : Ctx) (ws : List (Nat × Word)) : State := ws.foldl (fun s x => s.writeSpecial c x.1 x.2) s

/-- What several writes leave. -/
theorem State.writeSpecials_spec (c : Ctx) (ws : List (Nat × Word)) {s : State} {G : Group} {w : Weft} (hG : s.group? c.r.g = some G)
    (hw : s.weft? c.r.g c.r.w = some w) : ∃ H x, (s.writeSpecials c ws).group? c.r.g = some H ∧ (s.writeSpecials c ws).weft? c.r.g c.r.w = some x ∧
      x.files = w.files ∧ (s.writeSpecials c ws).mem = s.mem ∧
      ∀ k, (s.writeSpecials c ws).special c k 0 = (ws.filter fun x => x.1 == k).foldl (fun old x => srNew k old x.2) (s.special c k 0) := by
  induction ws generalizing s G w with
  | nil => exact ⟨G, w, hG, hw, rfl, rfl, fun _ => rfl⟩
  | cons y ws ih =>
    have h := State.writeSpecial_wrote hG hw y.1 y.2
    obtain ⟨H, hH, -⟩ := Option.map_eq_some_iff.mp (h.alike.group.trans (congrArg _ hG))
    obtain ⟨x, hx, hfiles⟩ := Option.map_eq_some_iff.mp (h.files.trans (congrArg _ hw))
    obtain ⟨H', x', hH', hx', hfiles', hmem, hsp⟩ := ih hH hx
    refine ⟨H', x', hH', hx', hfiles'.trans hfiles, hmem.trans h.mem, fun k => (hsp k).trans ?_⟩
    rw [h.special hG hw k, List.filter_cons]
    split <;> rfl

/-! ## What an issue shows -/

theorem length_filter_modIf {α : Type} (p q : α → Bool) (g : α → α) (hg : ∀ x, q (g x) = q x) (xs : List α) :
    ((modIf p g xs).filter q).length = (xs.filter q).length := by
  induction xs with
  | nil => rfl
  | cons x xs ih =>
    have hx : q (if p x then g x else x) = q x := by split <;> simp [hg]
    rw [modIf, List.filter_cons, List.filter_cons, hx]
    split <;> simp [ih]

theorem find?_modIf_map {α β : Type} (p q : α → Bool) (g : α → α) (k : α → β) (hq : ∀ x, q (g x) = q x) (hk : ∀ x, k (g x) = k x) (xs : List α) :
    ((modIf p g xs).find? q).map k = (xs.find? q).map k := by
  induction xs with
  | nil => rfl
  | cons x xs ih =>
    have hx : q (if p x then g x else x) = q x := by split <;> simp [hq]
    have hkx : k (if p x then g x else x) = k x := by split <;> simp [hk]
    rw [modIf, List.find?_cons, List.find?_cons, hx]
    cases q x <;> simp [ih, hkx]

theorem findSome?_modIf_map {α β γ : Type} (p : α → Bool) (g : α → α) (F : α → Option β) (k : β → γ) (h : ∀ x, (F (g x)).map k = (F x).map k)
    (xs : List α) : ((modIf p g xs).findSome? F).map k = (xs.findSome? F).map k := by
  induction xs with
  | nil => rfl
  | cons x xs ih =>
    have hx : (F (if p x then g x else x)).map k = (F x).map k := by split <;> simp [h]
    rw [modIf, List.findSome?_cons, List.findSome?_cons]
    revert hx
    cases F (if p x then g x else x) <;> cases F x <;> simp [ih]

/-- One instruction more is counted for a rival (R380). -/
def Rival.counted (clk : Nat) (r : Rival) : Rival := { r with count := r.count + 1, lastIssue := clk }
/-- The scope with that rival counted. -/
def Tourn.counted (clk idx : Nat) (T : Tourn) : Tourn := { T with rivals := modIf (fun x => x.idx == idx) (Rival.counted clk) T.rivals }

/-- A count changes nothing that registers show of a scope. -/
theorem State.tournOf_countIssue (s : State) (x : Option (Tourn × Rival)) (G : Group) :
    ((s.countIssue x).tournOf G).map placeIn = (s.tournOf G).map placeIn := by
  cases x with
  | none => rfl
  | some y =>
    unfold State.tournOf
    split
    · rfl
    · rename_i i _
      refine findSome?_modIf_map (fun T : Tourn => T.sid == y.1.sid) (Tourn.counted s.clk y.2.idx) _ placeIn (fun T => ?_) s.tourns
      show Option.map placeIn (if T.rid == G.rid then _ else _) = _
      split
      · rw [Option.map_map, Option.map_map]
        refine (find?_modIf_map _ _ (Rival.counted s.clk) (placeIn ∘ fun r => (T.counted s.clk y.2.idx, r)) (fun _ => rfl) (fun _ => rfl) T.rivals).trans ?_
        refine congrArg (Option.map · _) (funext fun r => ?_)
        exact congrArg (fun n => (T.round, r.idx, n)) (length_filter_modIf _ (fun r : Rival => (r.st == 1 || r.st == 3) && !r.killed) (Rival.counted s.clk) (fun _ => rfl) T.rivals)
      · rfl

/-- The issue of a word changes nothing that registers show of a scope. -/
theorem State.tournOf_raise (s : State) (i : Form) (f : Fields) (c : Ctx) (G : Group) :
    (((s.raise i f c).2).tournOf G).map placeIn = (s.tournOf G).map placeIn := by
  by_cases ht : c.isTreadle = true
  · rw [State.raise_treadle ht]
  · rw [State.raise_eq (by simpa using ht), State.tournOf_countIssue]
    exact congrArg _ (State.tournOf_congr (s.fresh.2.modW_tourns c _) G)

/-- Issue changes no special register. -/
theorem State.Issues.special {s : State} {i : Form} {f : Fields} {c : Ctx} (h : s.Issues i f c) (k : Nat) :
    (s.issued i f c).2.special c k 0 = s.special c k 0 := by
  obtain ⟨-, hG, hw, -⟩ := State.issuing_spec h.1
  have hr := h.raised
  have hframe : Frame s (s.issued i f c).2 c := (Frame.ticked s c).trans hr.frame
  refine State.special_alike hG hw (hframe.alike ?_ (State.tournOf_raise s.ticked i f c)) (hframe.alikeAt ?_)
  · rw [hr.weft, hw, Option.map_some, hr.rest]
    rfl
  · rw [hr.weft, hw, Option.map_some, hr.rest]
    rfl

/-! ## The end of `wrsr` -/

theorem Weft.modRef_plain (w : Weft) (t : Nat) (f : Path → Path) : (w.modRef t f).plain = w.plain ∧ ∀ k, (w.modRef t f).sr k = w.sr k := by
  unfold Weft.modRef
  split <;> exact ⟨rfl, fun _ => rfl⟩

/-- The weft with the special registers that a write has just left young. -/
def Weft.aged (w : Weft) (keys : List Nat) (ys : List Young) : Weft :=
  { w with young := ys ++ w.young.filter fun y => !keys.any fun k => y.key == .sp k }

theorem State.completeAt_special (s : State) (c d : Ctx) (due k : Nat) : (s.completeAt d due).special c k 0 = s.special c k 0 := by
  unfold State.completeAt
  split <;> rfl

theorem State.advance_special {s : State} {c : Ctx} {G : Group} {w : Weft} (hG : s.group? c.r.g = some G) (hw : s.weft? c.r.g c.r.w = some w) (k : Nat) :
    (s.advance c).special c k 0 = s.special c k 0 :=
  State.special_alike hG hw (State.Alike.modW s c fun w => (w.modRef_plain _ _).1)
    (State.AlikeAt.modW s c (fun w => w.modRef_wid _ _) fun w => (w.modRef_plain _ _).2 k)

theorem State.aged_special {s : State} {c : Ctx} {G : Group} {w : Weft} (hG : s.group? c.r.g = some G) (hw : s.weft? c.r.g c.r.w = some w)
    (keys : List Nat) (ys : List Young) (k : Nat) : (s.modW c fun w => w.aged keys ys).special c k 0 = s.special c k 0 :=
  State.special_alike hG hw (State.Alike.modW s c fun _ => rfl) (State.AlikeAt.modW s c (fun _ => rfl) fun _ => rfl)

/-- `wrsr` once its values are written. -/
def State.wroteSpecials (s : State) (c : Ctx) (keys : List Nat) (ys : List Young) : State :=
  ((s.modW c fun w => w.aged keys ys).advance c).completeAt c (c.p.last + 6)

/-- What the end of `wrsr` leaves of the registers, the weft and memory. -/
theorem State.wroteSpecials_spec {s : State} {c : Ctx} {G : Group} {w : Weft} (hG : s.group? c.r.g = some G) (hw : s.weft? c.r.g c.r.w = some w)
    (keys : List Nat) (ys : List Young) : (s.wroteSpecials c keys ys).weft? c.r.g c.r.w = some ((w.aged keys ys).modRef c.r.t Path.onward) ∧
      (s.wroteSpecials c keys ys).mem = s.mem ∧ ∀ k, (s.wroteSpecials c keys ys).special c k 0 = s.special c k 0 := by
  have hw2 : (s.modW c fun w => w.aged keys ys).weft? c.r.g c.r.w = some (w.aged keys ys) := by
    rw [s.modW_weft? c (fun w => w.aged keys ys) fun _ => rfl, hw]
    rfl
  obtain ⟨H, hH, -⟩ := Option.map_eq_some_iff.mp ((State.Alike.modW s c (f := fun w => w.aged keys ys) fun _ => rfl).group.trans (congrArg _ hG))
  refine ⟨(State.completeAt_weft? ..).trans (State.advance_weft? hw2), ?_, fun k => ?_⟩
  · rw [State.wroteSpecials, State.completeAt_mem, State.advance_mem, State.modW_mem]
  · rw [State.wroteSpecials, State.completeAt_special, State.advance_special hH hw2, State.aged_special hG hw]

/-! ## wrsr -/

/-- The threads whose values `wrsr` writes. -/
def Ctx.wrsrThreads (c : Ctx) (f : Fields) : List Nat := if f.u then [lowThread c.sel] else threadsOf c.sel

/-- The writes of one thread. -/
def Ctx.wrsrOf (c : Ctx) (s : State) (f : Fields) (n t : Nat) : List (Nat × Word) :=
  let val := c.elem s .int (movCols f) f.a (c.srcThread f t) 0 0
  (n, BitVec.ofNat 32 val) :: if movCols f == 2 then [(n + 1, BitVec.ofNat 32 (val / 2 ^ 32))] else []

/-- The special registers that `wrsr` writes. -/
def wrsrKeys (f : Fields) (n : Nat) : List Nat := n :: if movCols f == 2 then [n + 1] else []

/-- What they held before, for reads that come too early (R126). -/
def Ctx.wrsrYoung (c : Ctx) (s : State) (f : Fields) (n : Nat) : List Young :=
  (wrsrKeys f n).map fun k => { key := .sp k, old := s.special c k (lowThread c.sel), gap := c.p.gap, mask := c.p.mask, at_ := c.p.last }

/-- The first value of `%ringcfg` that its checks refuse (R217). -/
def Ctx.wrsrRefusal (c : Ctx) (ws : List (Nat × Word)) : Option Nat := (ws.filter fun x => x.1 == 0x017).findSome? fun x => c.G.ringCheck x.2

/-- `wrsr` by a path that selects a thread. -/
def wrsrBody (f : Fields) (n : Nat) (c : Ctx) (s : State) : State :=
  let ws := (c.wrsrThreads f).flatMap (c.wrsrOf s f n)
  match c.wrsrRefusal ws with
  | some reason => s.trap c .operand reason
  | none => (s.writeSpecials c ws).wroteSpecials c (wrsrKeys f n) (c.wrsrYoung s f n)

theorem exec_wrsr {f : Fields} {n : BitVec 10} (hd : f.d = .special n) (s : State) :
    exec (.wrsr f) s = issue .wrsr f (whereSelected (wrsrBody f n.toNat)) s := by
  show execWrsr f s = _
  unfold execWrsr
  rw [hd]
  rfl

theorem Ctx.wrsrOf_eq {c : Ctx} {f : Fields} {t : Nat} (ht : t ∈ c.wrsrThreads f) (s : State) (n : Nat) :
    c.wrsrOf s f n t = (n, BitVec.ofNat 32 (c.elem s .int (movCols f) f.a t 0 0)) ::
      if movCols f == 2 then [(n + 1, BitVec.ofNat 32 (c.elem s .int (movCols f) f.a t 0 0 / 2 ^ 32))] else [] := by
  have hsrc : c.srcThread f t = t := by
    unfold Ctx.wrsrThreads at ht
    unfold Ctx.srcThread
    split
    case isTrue hu => exact (List.mem_singleton.mp (by simpa [hu] using ht)).symm
    case isFalse => rfl
  rw [Ctx.wrsrOf, hsrc]

theorem movCols_pair (f : Fields) : (movCols f == 2) = (modHi f.mod == 7) := by
  unfold movCols
  cases modHi f.mod == 7 <;> rfl

/-- What `wrsr` does with values that its checks allow. -/
theorem wrsrBody_spec {s : State} {c : Ctx} {f : Fields} {n : Nat} {G : Group} {w : Weft} (hG : s.group? c.r.g = some G) (hw : s.weft? c.r.g c.r.w = some w)
    (h : c.wrsrRefusal ((c.wrsrThreads f).flatMap (c.wrsrOf s f n)) = none) :
    ∃ x : Weft, (wrsrBody f n c s).weft? c.r.g c.r.w = some (x.modRef c.r.t Path.onward) ∧ x.files = w.files ∧ (wrsrBody f n c s).mem = s.mem ∧
      ∀ k, (wrsrBody f n c s).special c k 0 = (((c.wrsrThreads f).flatMap (c.wrsrOf s f n)).filter fun x => x.1 == k).foldl (fun old x => srNew k old x.2) (s.special c k 0) := by
  obtain ⟨H, x, hH, hx, hfiles, hmem, hsp⟩ := State.writeSpecials_spec c ((c.wrsrThreads f).flatMap (c.wrsrOf s f n)) hG hw
  obtain ⟨hx', hmem', hsp'⟩ := State.wroteSpecials_spec hH hx (wrsrKeys f n) (c.wrsrYoung s f n)
  have hbody : wrsrBody f n c s = (s.writeSpecials c ((c.wrsrThreads f).flatMap (c.wrsrOf s f n))).wroteSpecials c (wrsrKeys f n) (c.wrsrYoung s f n) := by
    rw [wrsrBody, h]
  rw [hbody]
  exact ⟨x.aged _ _, hx', hfiles, hmem'.trans hmem, fun k => (hsp' k).trans (hsp k)⟩

/-- Two contexts of one path read special registers alike. -/
theorem State.special_ctx {t : State} {c d : Ctx} {w : Weft} (hr : d.r = c.r) (hG : d.G = c.G) (hw : t.weft? c.r.g c.r.w = some w) (k : Nat) :
    t.special d k 0 = t.special c k 0 := by
  simp only [State.special, Ctx.dev, Ctx.ctx, hr, hG, hw, Option.getD_some]

/-- Settles O42: issue changes no special register, each write changes the one it names as its table says, and the end of the word changes none. -/
theorem specialWrites : Obligations.SpecialWrites := by
  intro s f c n h hsel hd q pair ts val ws new
  have hr := h.raised
  obtain ⟨hdr, hdsel, hdG, -, -⟩ := hr.same
  have hts : ts = q.1.wrsrThreads f := by
    rw [Ctx.wrsrThreads, hdsel]
  have hws : ws = (q.1.wrsrThreads f).flatMap (q.1.wrsrOf q.2 f n.toNat) := by
    rw [← hts]
    refine (List.flatMap_def.trans (congrArg List.flatten (List.map_congr_left fun t ht => ?_))).trans List.flatMap_def.symm
    rw [Ctx.wrsrOf_eq (hts ▸ ht), movCols_pair]
    rfl
  have hnew : new = srNew := rfl
  have hexec : exec (.wrsr f) s = .next (wrsrBody f n.toNat q.1 q.2) := (exec_wrsr hd s).trans (issue_next_selected h hsel _)
  obtain ⟨-, hG, -⟩ := State.issuing_spec h.1
  obtain ⟨G, hG', -⟩ := Option.map_eq_some_iff.mp ((hr.frame.groups c.r.g).trans (congrArg _ hG))
  refine ⟨fun hok => ?_, fun reason hbad => ?_⟩
  · have hnone : q.1.wrsrRefusal ws = none := by
      refine List.findSome?_eq_none_iff.mpr fun x hx => ?_
      obtain ⟨hm, hk⟩ := List.mem_filter.mp hx
      rw [hdG]
      exact hok x hm (by simpa using hk)
    obtain ⟨x, hx, hfiles, hmem, hsp⟩ := wrsrBody_spec (n := n.toNat) (by rw [hdr]; exact hG') (by rw [hdr]; exact hr.weft) (hws ▸ hnone)
    simp only [Weft.files, Prod.mk.injEq] at hfiles
    obtain ⟨hpaths, hv, hs, hp⟩ := hfiles
    rw [hdr] at hx
    refine ⟨_, _, hexec, hx, hmem.trans hr.mem_eq, fun k => ?_, ?_, fun k => ?_⟩
    · exact (Weft.modRef_reg _ _ _ k).trans ((Weft.reg_congr hv hs hp k).trans (hr.reg k))
    · rw [Weft.path?_modRef_onward, Weft.path?, hpaths, ← Weft.path?, hr.path, Option.map_some, hr.pc.2.1]
    · rw [← h.special k, ← State.special_ctx hdr hdG hx, ← State.special_ctx hdr hdG hr.weft, hnew, hws]
      exact hsp k
  · have hsome : q.1.wrsrRefusal ws = some reason := by
      rw [Ctx.wrsrRefusal, hdG]
      exact hbad
    rw [hexec, wrsrBody, ← hws, hsome]

end Sys2Proof.Machine
end
